-- ==== Sys2Proof/Word.lean ====
section
/-! DEFINITION. The words of the machine: bytes, 64-bit scalars, 32-bit instruction words, 256-bit
handles and 1,024-bit templates (R4, R14, R19, R42, R97). -/

namespace Sys2Proof

/-- One byte of memory. -/
abbrev Byte := BitVec 8
/-- A scalar register, a control word or an address (R14, R24). -/
abbrev Word := BitVec 64
/-- A word of the instruction stream (R97). -/
abbrev IWord := BitVec 32
/-- A handle register (R19). -/
abbrev HandleWord := BitVec 256
/-- Fields F0 to F63 of a template, `Fk` at bits `[16k+15:16k]` (R42). -/
abbrev TemplateBits := BitVec 1024
/-- A scalar register number (R14). -/
abbrev SReg := BitVec 6
/-- A handle number (R19). -/
abbrev HReg := BitVec 5
/-- A core's number within the package (R3). -/
abbrev CoreId := Fin 512
/-- A context's number within its core (R3). -/
abbrev CtxNo := Fin 4

end Sys2Proof
end

