-- ==== Sys2Proof/Syntax.lean ====
section
/-! DEFINITION. The instruction set: one constructor of `Instr` for each row of spec/opcode_table.json.
The first 136 rows are instructions of the control core (R109).  The other 123 rows are engine commands and
package events, which have no encoding: a constructor names the agent it happens at and carries what reaches
it from outside the package (spec/95_what_each_step_holds.md). -/

namespace Sys2Proof

/-- Scope field of an ordered access (R113). -/
inductive Scope | core | die | pkg | sys
  deriving DecidableEq, Repr
/-- Order field of an atomic (R113). -/
inductive Order | rlx | acq | rel | ar
  deriving DecidableEq, Repr
/-- FENCE kind (R113). -/
inductive FenceKind | full | acq | rel
  deriving DecidableEq, Repr
/-- Access size of LDX, STX, LDA, STL, PST, PLD (R109). -/
inductive Size | b | h | w | d
  deriving DecidableEq, Repr
/-- Sizes that PATOM accepts (R113). -/
inductive PoolSize | w | d
  deriving DecidableEq, Repr
/-- FCMP condition (R111). -/
inductive FCond | eq | ne | lt | le | un
  deriving DecidableEq, Repr
/-- The type pairs that FCVT accepts, destination first (R111). -/
inductive CvtType | fp32 | bf16 | fp16 | int32 | int64
  deriving DecidableEq, Repr
/-- HSET and HGET field selector (R112). -/
inductive HField | obj | view | off | fmt | flg | dim0 | dim1 | dim2 | dim3 | str0 | str1 | str2 | str3
  deriving DecidableEq, Repr
/-- Atomic operations, in the order of the PATOM code (R113, R170). -/
inductive AtomOp | add | min | max | and | or | xor | swap | cas
  deriving DecidableEq, Repr
/-- Token FIFOs of the chain (R40, R114). -/
inductive Fifo | lm | ml | mv | vm | vs | sv
  deriving DecidableEq, Repr
/-- Engines with template planes (R114). -/
inductive Engine | copy | matrix | vector | net
  deriving DecidableEq, Repr
/-- Command queues (R39). -/
inductive Queue | ldq | mxq | vxq | stq | nxq
  deriving DecidableEq, Repr
/-- The two queues that the copy engine serves (R39). -/
inductive CopyQueue | ldq | stq
  deriving DecidableEq, Repr

/-- A context of the package: its core and its number there (R3). -/
structure Who where
  core : CoreId
  ctx  : CtxNo
  deriving DecidableEq, Repr

/-- A fault that the far side of the fabric reports (R187, R385, R475). `station` is the reporting station of R475; `worn` tells an
uncorrectable error from consumed poison (R380). -/
inductive FarFault
  | fenced | poolrnr | handle
  | ecc (worn : Bool)
  | route (station : BitVec 12)
  | linkkey (station : BitVec 12)
  deriving DecidableEq, Repr

/-- What answers a remote request (R186, R187, R189, R191, R475). -/
inductive Answer
  /-- acknowledgement of a write, its flag add included -/
  | ack
  /-- the bytes read, or the old value of an atomic, with the new value of the element for an atomic -/
  | data (old new : Word)
  /-- a lease: its end in GTC time, its fencing token and the object's write version (R191, R372) -/
  | grant (stop token version : Word)
  /-- a lease released (R192) -/
  | released
  /-- bytes of a pool piece that the placement engine has read (R423) -/
  | bytes (data : List Byte)
  /-- receiver-not-ready -/
  | rnr
  | fault (f : FarFault)
  deriving DecidableEq, Repr

/-- What comes back for the request of one copy row: nothing yet, bytes and scale words, receiver-not-ready, or a fault. -/
inductive RowReply
  | none
  | ok (data scale : List Byte)
  | rnr
  | fault (f : FarFault)
  deriving DecidableEq, Repr

/-- What a copy landing meets: the command that it carries on, counted among the running ones of its queue from the head (R253,
R276), and what comes back for the row. A row that stays inside the package ignores the reply. -/
structure RowAnswer where
  nth : Nat
  reply : RowReply
  deriving DecidableEq, Repr

/-- What comes back for one page of the pool cache (R369, R372). -/
inductive PageAnswer
  | page (data : List Byte) (version : Word)
  | rnr
  | fault (f : FarFault)
  deriving DecidableEq, Repr

/-- A remote write request as its target sees it (R418, R474): the target's slot, the station that carried it (R411), the
object's base, token and fenced bit, the element's address and bytes, the scale words of its blocks with their address (R274),
and the flag's node, address and token. -/
structure RemWrite where
  slot : Fin 16
  via : Fin 64
  src : BitVec 11
  base : Word
  fenced : Bool
  token : Word
  addr : Word
  data : List Byte
  scale : Option (Word × List Byte)
  flag : Option Word
  flagNode : BitVec 11
  flagBase : Word
  flagFenced : Bool
  flagToken : Word
  deriving DecidableEq, Repr

/-- A remote read request, with the scale words of its blocks (R274, R384). -/
structure RemRead where
  slot : Fin 16
  via : Fin 64
  src : BitVec 11
  addr : Word
  len : Nat
  scale : Option (Word × Nat)
  deriving DecidableEq, Repr

/-- A remote atomic request (R190). -/
structure RemAtomic where
  slot : Fin 16
  via : Fin 64
  src : BitVec 11
  base : Word
  fenced : Bool
  token : Word
  addr : Word
  op : AtomOp
  wide : Bool
  x : Word
  e : Word
  deriving DecidableEq, Repr

/-- Who sends a message, and the station that carries it (R405). -/
structure Sender where
  via : Fin 64
  src : BitVec 11
  deriving DecidableEq, Repr

/-- What a relaying package receives on a direct lane (R414): a request for another station, from a source; the answer to a
request that this package has relayed, by the number of its record; or an answer for another station that it has no record of,
which the responder's own roads send through here. -/
inductive Relay
  | request (via : Fin 64) (src dst : BitVec 11)
  | answer (id : Nat) (a : Answer)
  | passing (via : Fin 64) (dst : BitVec 11) (a : Answer)
  deriving DecidableEq, Repr

/-- A conversion as its messages name it (R424). -/
structure ConvKey where
  domain : Word
  axis : Fin 4
  num : BitVec 32
  deriving DecidableEq, Repr

/-- A conversion message as it reaches this package: the conversion, the station that carries it, and the sender's station
identifier (R404, R415, R424); a message that comes from this package itself names its own. -/
structure ConvMsg where
  key : ConvKey
  via : Fin 64
  src : BitVec 10
  deriving DecidableEq, Repr

/-- How a conversion moves its data (R424). `reduce` carries the slot name of each chunk. -/
inductive ConvMethod
  | reduce (slots : List Word)
  | exchange
  | keep
  deriving DecidableEq, Repr

/-- One packet of a tagged message (R430): its message number, tag, whole length and the bytes at an offset. -/
structure TagPacket where
  msg : Nat
  tag : Word
  total : Nat
  off : Nat
  data : List Byte
  deriving DecidableEq, Repr

/-- One packet of a write into a window (R430, R431): its message number, the message's length, and the bytes at an offset. -/
structure WritePacket where
  msg : Nat
  total : Nat
  off : Nat
  data : List Byte
  deriving DecidableEq, Repr

/-- Identity flit of a station's peer (R409). -/
structure Identity where
  stn : BitVec 10
  mem : Bool
  idx : BitVec 6
  isSwitch : Bool
  digest : Word
  deriving DecidableEq, Repr

/-- One access of a side-band datagram (R435): a register read, or a write of the value; `bank` names the inactive firmware bank
by byte offset instead of the management space (R440). -/
structure SideAccess where
  off : BitVec 32
  write : Option Word
  bank : Bool := false
  deriving DecidableEq, Repr

/-- The two ends of a launch endpoint write or of a retransmission: a command of a context's NXQ, counted from the head. -/
structure NetCmd where
  who : Who
  pos : Nat
  deriving DecidableEq, Repr

/-- What the sensors read at a power evaluation (R433): watts, amperes, eighths of a degree. -/
structure PowerReading where
  power : Nat
  current : Nat
  hottest : Nat
  deriving DecidableEq, Repr

/-- What the boot meets (R439): whether it goes on with the boot under way or begins one after power-on or a reset, the step that
it comes to for now, the first of the steps 2 to 7 that fails, if any, and what firmware writes in steps 6, 7 and 8: the step,
with a management register and its value, or with bytes of memory by physical address, such as the translation tables. -/
structure BootFacts where
  goesOn : Bool
  upTo : Nat
  failAt : Option (Fin 8)
  regs : List (Nat × BitVec 32 × Word)
  tables : List (Nat × Nat × List Byte)
  deriving DecidableEq, Repr

/-- Every row of spec/opcode_table.json, in its order. -/
inductive Instr
  /-- ADD, R136: Writes the sum of Sa and Sb, modulo 2^64, to Sd. -/
  | add (d a b : SReg)
  /-- SUB, R136: Writes Sa minus Sb, modulo 2^64, to Sd. -/
  | sub (d a b : SReg)
  /-- MUL, R136: Writes the low 64 bits of the product of Sa and Sb to Sd. -/
  | mul (d a b : SReg)
  /-- MULH, R136: Writes the high 64 bits of the signed 128-bit product to Sd. -/
  | mulh (d a b : SReg)
  /-- MULHU, R136: Writes the high 64 bits of the unsigned 128-bit product to Sd. -/
  | mulhu (d a b : SReg)
  /-- DIV, R137: Signed division truncated toward zero, with fixed results for division by zero and overflow. -/
  | div (d a b : SReg)
  /-- DIVU, R137: Unsigned division, with all ones for division by zero. -/
  | divu (d a b : SReg)
  /-- REM, R137: Signed remainder taking the sign of Sa; Sa when dividing by zero. -/
  | rem (d a b : SReg)
  /-- REMU, R137: Unsigned remainder; Sa when dividing by zero. -/
  | remu (d a b : SReg)
  /-- AND, R136: Writes the bitwise AND of Sa and Sb to Sd. -/
  | and (d a b : SReg)
  /-- OR, R136: Writes the bitwise OR of Sa and Sb to Sd. -/
  | or (d a b : SReg)
  /-- XOR, R136: Writes the bitwise XOR of Sa and Sb to Sd. -/
  | xor (d a b : SReg)
  /-- ANDN, R136: Writes Sa AND NOT Sb to Sd. -/
  | andn (d a b : SReg)
  /-- SHL, R136: Shifts Sa left by Sb[5:0]. -/
  | shl (d a b : SReg)
  /-- SHR, R136: Shifts Sa right logically by Sb[5:0]. -/
  | shr (d a b : SReg)
  /-- SRA, R136: Shifts Sa right arithmetically by Sb[5:0]. -/
  | sra (d a b : SReg)
  /-- ROL, R136: Rotates Sa left by Sb[5:0]. -/
  | rol (d a b : SReg)
  /-- MIN, R136: Writes the signed minimum of Sa and Sb. -/
  | min (d a b : SReg)
  /-- MAX, R136: Writes the signed maximum of Sa and Sb. -/
  | max (d a b : SReg)
  /-- MINU, R136: Writes the unsigned minimum of Sa and Sb. -/
  | minu (d a b : SReg)
  /-- MAXU, R136: Writes the unsigned maximum of Sa and Sb. -/
  | maxu (d a b : SReg)
  /-- CLZ, R136: Counts the leading zero bits of Sa. -/
  | clz (d a : SReg)
  /-- CTZ, R136: Counts the trailing zero bits of Sa. -/
  | ctz (d a : SReg)
  /-- POPC, R136: Counts the one bits of Sa. -/
  | popc (d a : SReg)
  /-- CEQ, R141: Writes 1 when Sa equals Sb, else 0. -/
  | ceq (d a b : SReg)
  /-- CNE, R141: Writes 1 when Sa differs from Sb, else 0. -/
  | cne (d a b : SReg)
  /-- CLT, R141: Writes 1 when Sa is less than Sb as signed. -/
  | clt (d a b : SReg)
  /-- CLE, R141: Writes 1 when Sa is at most Sb as signed. -/
  | cle (d a b : SReg)
  /-- CLTU, R141: Writes 1 when Sa is less than Sb as unsigned. -/
  | cltu (d a b : SReg)
  /-- CLEU, R141: Writes 1 when Sa is at most Sb as unsigned. -/
  | cleu (d a b : SReg)
  /-- SEL, R142: Writes Sa when Sc is non-zero, else Sb. -/
  | sel (d c a b : SReg)
  /-- FADD, R145: FP32 addition rounded once by FPC.RM, flags ORed into FPS. -/
  | fadd (d a b : SReg)
  /-- FSUB, R145: FP32 subtraction rounded once. -/
  | fsub (d a b : SReg)
  /-- FMUL, R145: FP32 multiplication rounded once. -/
  | fmul (d a b : SReg)
  /-- FDIV, R145: FP32 division rounded once, with DZ and NV cases. -/
  | fdiv (d a b : SReg)
  /-- FSQRT, R145: FP32 square root rounded once. -/
  | fsqrt (d a : SReg)
  /-- FMIN, R145: FP32 IEEE minimum under R70. -/
  | fmin (d a b : SReg)
  /-- FMAX, R145: FP32 IEEE maximum under R70. -/
  | fmax (d a b : SReg)
  /-- FFMA, R146: Fused FP32 multiply-add Sa × Sb + Sc with one rounding. -/
  | ffma (d a b c : SReg)
  /-- FCMP, R147: FP32 compare by the condition in fn, writing 1 or 0. -/
  | fcmp (k : FCond) (d a b : SReg)
  /-- FCVT, R148: Converts between FP32, BF16, FP16, INT32 and INT64 by R71 and R72. -/
  | fcvt (t s : CvtType) (d a : SReg)
  /-- ADDI, R138: Adds a sign-extended 12-bit immediate to Sa. -/
  | addi (d a : SReg) (i : BitVec 12)
  /-- ANDI, R138: ANDs Sa with a sign-extended immediate. -/
  | andi (d a : SReg) (i : BitVec 12)
  /-- ORI, R138: ORs Sa with a sign-extended immediate. -/
  | ori (d a : SReg) (i : BitVec 12)
  /-- XORI, R138: XORs Sa with a sign-extended immediate. -/
  | xori (d a : SReg) (i : BitVec 12)
  /-- SHLI, R139: Shifts Sa left by an immediate amount. -/
  | shli (d a : SReg) (n : BitVec 6)
  /-- SHRI, R139: Shifts Sa right logically by an immediate amount. -/
  | shri (d a : SReg) (n : BitVec 6)
  /-- SRAI, R139: Shifts Sa right arithmetically by an immediate amount. -/
  | srai (d a : SReg) (n : BitVec 6)
  /-- LI, R140: Long instruction writing sext(imm32) to Sd. -/
  | li (d : SReg) (imm : IWord)
  /-- LIW, R140: Long instruction replacing Sd[63:32] with imm32. -/
  | liw (d : SReg) (imm : IWord)
  /-- BR, R150: Unconditional PC-relative branch, checked under R149. -/
  | br (o : BitVec 24)
  /-- CALL, R150: Writes PC + 4 to S15 and branches PC-relative. -/
  | call (o : BitVec 24)
  /-- RET, R150: Transfers control to the address in S15. -/
  | ret
  /-- JMPR, R151: Indirect jump to Sa, writing the link PC + 4 to Sd. -/
  | jmpr (d a : SReg)
  /-- BZ, R152: Branches when Sa is zero. -/
  | bz (a : SReg) (o : BitVec 12)
  /-- BNZ, R152: Branches when Sa is non-zero. -/
  | bnz (a : SReg) (o : BitVec 12)
  /-- BEQ, R152: Branches when Sa equals Sb. -/
  | beq (a b : SReg) (o : BitVec 12)
  /-- BNE, R152: Branches when Sa differs from Sb. -/
  | bne (a b : SReg) (o : BitVec 12)
  /-- BLT, R152: Branches when Sa is less than Sb as signed. -/
  | blt (a b : SReg) (o : BitVec 12)
  /-- BGE, R152: Branches when Sa is at least Sb as signed. -/
  | bge (a b : SReg) (o : BitVec 12)
  /-- LOOP, R153: Decrements Sa and branches while the result is non-zero. -/
  | loop (a : SReg) (o : BitVec 12)
  /-- HLD, R155: Loads a 256-bit handle from 32 aligned bytes of memory, single-copy atomically. -/
  | hld (h : HReg) (a : SReg) (o : Byte)
  /-- HST, R155: Stores a 256-bit handle to 32 aligned bytes of memory. -/
  | hst (g : HReg) (a : SReg) (o : Byte)
  /-- HSET, R156: Writes one handle field from Sa after a range check. -/
  | hset (f : HField) (h : HReg) (a : SReg)
  /-- HGET, R157: Reads one handle field into Sd, sign-extending strides. -/
  | hget (f : HField) (g : HReg) (d : SReg)
  /-- HMOV, R158: Copies a handle register unchanged. -/
  | hmov (h g : HReg)
  /-- HSLICE, R159: Narrows a handle's view along one dimension to a start and length. -/
  | hslice (h g : HReg) (a : SReg) (k : BitVec 2)
  /-- HOBJ, R161: Builds a handle with the default view of an object table entry. -/
  | hobj (h : HReg) (n : BitVec 14)
  /-- HADV, R160: Moves a handle's offset along one dimension by a signed number of steps. -/
  | hadv (h : HReg) (a : SReg) (k : BitVec 2)
  /-- GRANK, R162: Writes the context's rank within group g, or all ones. -/
  | grank (d : SReg) (g : Byte)
  /-- GSIZE, R162: Writes the number of members of group g. -/
  | gsize (d : SReg) (g : Byte)
  /-- REGA, R163: Changes the scalar allotment, zeroing registers that a grow exposes. -/
  | rega (n : BitVec 7)
  /-- LDB, R167: Loads a zero-extended byte. -/
  | ldb (d a : SReg) (i : BitVec 12)
  /-- LDH, R167: Loads a zero-extended halfword. -/
  | ldh (d a : SReg) (i : BitVec 12)
  /-- LDW, R167: Loads a zero-extended word. -/
  | ldw (d a : SReg) (i : BitVec 12)
  /-- LDD, R167: Loads a doubleword. -/
  | ldd (d a : SReg) (i : BitVec 12)
  /-- STB, R167: Stores the low byte of Sv. -/
  | stb (v a : SReg) (i : BitVec 12)
  /-- STH, R167: Stores the low halfword of Sv. -/
  | sth (v a : SReg) (i : BitVec 12)
  /-- STW, R167: Stores the low word of Sv. -/
  | stw (v a : SReg) (i : BitVec 12)
  /-- STD, R167: Stores the doubleword Sv. -/
  | std (v a : SReg) (i : BitVec 12)
  /-- LDX, R168: Indexed load at Sa + (Sb << size). -/
  | ldx (s : Size) (d a b : SReg)
  /-- STX, R168: Indexed store at Sa + (Sb << size). -/
  | stx (s : Size) (v a b : SReg)
  /-- AADD, R170: Atomic add at the home of the address, returning the old value. -/
  | aadd (w : Bool) (o : Order) (s : Scope) (d a b : SReg)
  /-- AMIN, R170: Atomic signed minimum, returning the old value. -/
  | amin (w : Bool) (o : Order) (s : Scope) (d a b : SReg)
  /-- AMAX, R170: Atomic signed maximum, returning the old value. -/
  | amax (w : Bool) (o : Order) (s : Scope) (d a b : SReg)
  /-- AAND, R170: Atomic AND, returning the old value. -/
  | aand (w : Bool) (o : Order) (s : Scope) (d a b : SReg)
  /-- AOR, R170: Atomic OR, returning the old value. -/
  | aor (w : Bool) (o : Order) (s : Scope) (d a b : SReg)
  /-- AXOR, R170: Atomic XOR, returning the old value. -/
  | axor (w : Bool) (o : Order) (s : Scope) (d a b : SReg)
  /-- ASWAP, R170: Atomic swap, returning the old value. -/
  | aswap (w : Bool) (o : Order) (s : Scope) (d a b : SReg)
  /-- ACAS, R170: Atomic compare-and-swap against Sd, returning the old value in Sd. -/
  | acas (w : Bool) (o : Order) (s : Scope) (d a b : SReg)
  /-- FENCE, R173: Orders earlier loads and stores before later ones at a scope and kind. -/
  | fence (k : FenceKind) (s : Scope)
  /-- LDA, R174: Acquire load of a scope and size. -/
  | lda (s : Scope) (z : Size) (d a : SReg)
  /-- STL, R174: Release store of a scope and size. -/
  | stl (s : Scope) (z : Size) (a v : SReg)
  /-- FLUSHD, R175: Writes back, and optionally invalidates, this core's L1 lines in a range and waits for acknowledgement. -/
  | flushd (inv : Bool) (a b : SReg)
  /-- LLEASE, R176: Requests a bounded exclusive lease on a device-memory line. -/
  | llease (a : SReg)
  /-- LLREL, R177: Releases the held line lease, or traps on expiry or misuse. -/
  | llrel (a : SReg)
  /-- PLACE, R180: Seals this member's piece and requests a conversion to the demanded placement on masked axes. -/
  | place (h : HReg) (m : BitVec 4)
  /-- SEAL, R180: Seals this member's piece for the next conversion on masked axes. -/
  | seal (h : HReg) (m : BitVec 4)
  /-- OBJQ, R182: Returns a snapshot of an object table entry field chosen by a selector. -/
  | objq (g : HReg) (d : SReg) (q : Byte)
  /-- MODESW, R183: Switches a range of pages between software-managed and hardware-coherent mode. -/
  | modesw (hw : Bool) (a b : SReg)
  /-- CBLD, R184: Checks and installs a 16-entry BF16 codebook for a CB4 object. -/
  | cbld (g : HReg) (a : SReg) (c : BitVec 2)
  /-- PST, R188: Posts a remote store of one element with a flag add at the target. -/
  | pst (s : Size) (h g : HReg) (i v : SReg)
  /-- PLD, R189: Loads one pool or remote element through a handle, from the cache or over the fabric. -/
  | pld (s : Size) (g : HReg) (d i : SReg)
  /-- PATOM, R190: Performs an atomic on element 0 of an object at its home, with order AR at scope SYS. -/
  | patom (p : AtomOp) (z : PoolSize) (g : HReg) (d v : SReg)
  /-- LSACQ, R191: Acquires or extends a pool lease and returns the fencing token. -/
  | lsacq (g : HReg) (d : SReg)
  /-- LSREL, R192: Drops a lease hold and releases the lease when the count reaches zero. -/
  | lsrel (g : HReg)
  /-- BINIT, R196: Sets a barrier's expected arrivals and clears its counts and ERR. -/
  | binit (b : BitVec 6) (n : Byte)
  /-- BARR, R197: Adds expected bytes and one arrival to a barrier. -/
  | barr (b : BitVec 6) (a : SReg)
  /-- BEXP, R197: Adds expected bytes to a barrier without an arrival. -/
  | bexp (b : BitVec 6) (a : SReg)
  /-- BWAIT, R198: Waits until a barrier's phase differs from the operand. -/
  | bwait (b : BitVec 6) (p : Bool)
  /-- BTEST, R199: Snapshots a barrier image into two registers. -/
  | btest (d : SReg) (b : BitVec 6)
  /-- GBAR, R200: Group barrier over the members of group g. -/
  | gbar (g : Byte)
  /-- TKPOP, R201: Waits for and removes a token from a FIFO. -/
  | tkpop (f : Fifo)
  /-- TKPUSH, R201: Waits for room and adds a token to a FIFO. -/
  | tkpush (f : Fifo)
  /-- EMIT, R106: Applies a packet of patch words to build registers and queues engine commands. -/
  | emit (q : Queue) (ws : List IWord)
  /-- EMITR, R107: As EMIT, with the patch words read from memory. -/
  | emitr (q : Queue) (a : SReg) (c : Byte)
  /-- QWAIT, R203: Waits until a queue holds at most n uncompleted commands, reporting faults and acquiring. -/
  | qwait (q : Queue) (n : BitVec 6)
  /-- QSTAT, R204: Snapshots a queue's status. -/
  | qstat (q : Queue) (d : SReg)
  /-- TMPLD, R205: Loads one template of the staging plane from memory. -/
  | tmpld (e : Engine) (t : BitVec 6) (a : SReg)
  /-- TMPSW, R206: Checks the staging plane CRC and exchanges the active and staging planes. -/
  | tmpsw (e : Engine)
  /-- TMPRD, R207: Reads one template field and its valid bit. -/
  | tmprd (e : Engine) (t : BitVec 6) (d a : SReg)
  /-- PLEAT, R209: Collectively enters a speculative Pleat region over N iterations. -/
  | pleat (a b : SReg) (w : BitVec 4)
  /-- PCARRY, R209: Reads carry k into Sa. -/
  | pcarry (a : SReg) (k : BitVec 3)
  /-- PGRET, R210: Ends the guess routine. -/
  | pgret
  /-- PCMP, R209: Writes Sa into carry k. -/
  | pcmp (a : SReg) (k : BitVec 3)
  /-- PLEND, R210: Ends a Pleat iteration, waiting for its commands and publishing its carries. -/
  | plend (o : BitVec 24)
  /-- LAUNCH, R217: Passes a launch record to the command processor, optionally crediting a barrier at completion. -/
  | launch (a : SReg) (credit : Bool) (b : BitVec 6)
  /-- TRAP, R218: Traps precisely with TRAPI and the code. -/
  | trap (c : BitVec 24)
  /-- RTT, R218: Returns from handler mode to TRAPPC. -/
  | rtt
  /-- SAFEPT, R219: Reports deferred faults and arrives at the safe-point gather when pre-emption is pending. -/
  | safept (n : BitVec 16)
  /-- EXIT, R220: Drains queues, releases at scope SYS, ends a lease and frees the context with a status. -/
  | exit (s : Byte)
  /-- MFC, R24: Reads a control word snapshot into Sd. -/
  | mfc (d : SReg) (w : Byte)
  /-- MTC, R25: Writes a control word from Sa, with privilege and access checks. -/
  | mtc (a : SReg) (w : Byte)
  /-- RDGTC, R51: Reads the global timestamp counter. -/
  | rdgtc (d : SReg)
  /-- NOP, R218: Does nothing. -/
  | nop
  /-- BRK, R218: Traps with BRK, or halts when breakpoints are armed. -/
  | brk (c : BitVec 24)
  /-- BANKROLE_CHANGE, R33: Once no command references a changing bank, writes back, drops or zeroes banks and applies the new roles. -/
  | bankroleChange (who : Who)
  /-- WAIT_COMPLETION, R193: A blocked wait instruction completes whole when its condition comes to hold. -/
  | waitCompletion (who : Who)
  /-- DIRTY_LINE_WRITEBACK, R166: A store that would exceed DIRTYLIM proceeds after the oldest dirty line is written back. -/
  | dirtyLineWriteback (core : CoreId)
  /-- VECTOR_COMMAND, R221: Runs a chained vector command over its iteration nest of panels. -/
  | vectorCommand (who : Who)
  /-- MMA, R265: Accumulates block pairs of ports A and B into the C tile, step by step. -/
  | mma (who : Who)
  /-- MMAT, R266: MMA with a K-major BF16 A operand. -/
  | mmat (who : Who)
  /-- MMAB, R267: Binary XOR or AND popcount product into INT32 cells. -/
  | mmab (who : Who)
  /-- MZERO, R268: Zeroes the C tile. -/
  | mzero (who : Who)
  /-- MLDC, R268: Loads the C tile from D elements, widened exactly. -/
  | mldc (who : Who)
  /-- MSTC, R268: Stores the C tile to D, converted by the captured FPC. -/
  | mstc (who : Who)
  /-- MSTCQ, R268: Stores the C tile as quantised blocks with scale words. -/
  | mstcq (who : Who)
  /-- MBIAS, R268: Adds a bias row or column to every cell. -/
  | mbias (who : Who)
  /-- MSWZ, R268: Transposes the tile in place, or copies it to D straight or transposed. -/
  | mswz (who : Who)
  /-- MGATH, R269: Gathers A units into D rows by an index list. -/
  | mgath (who : Who)
  /-- MSYNC, R268: Completes when every earlier matrix command of the context has completed. -/
  | msync (who : Who)
  /-- MNOP, R268: Does no step but pops, pushes and updates its barrier. -/
  | mnop (who : Who)
  /-- MULTICAST_FETCH_SERVE, R263: The source bank serves a joined multicast fetch once every member has joined. -/
  | multicastFetchServe (core : CoreId)
  /-- MULTICAST_JOIN_TIMEOUT, R263: After 4,096 cycles the source serves each pending multicast request individually. -/
  | multicastJoinTimeout (core : CoreId)
  /-- CPY, R275: Copies rows between address sides. -/
  | cpy (who : Who) (q : CopyQueue)
  /-- CPYM, R282: Copies rows to the local window of every core holding a member of a group. -/
  | cpym (who : Who) (q : CopyQueue)
  /-- CGET, R277: Bulk get of object rows, from the pool cache or over the fabric. -/
  | cget (who : Who) (q : CopyQueue)
  /-- CWR, R278: Remote write of rows to an object, followed by a flag add. -/
  | cwr (who : Who) (q : CopyQueue)
  /-- CFILL, R275: Fills rows with a 64-bit pattern. -/
  | cfill (who : Who) (q : CopyQueue)
  /-- CGATH, R279: Copies rows with level-1 source offsets from an index list. -/
  | cgath (who : Who) (q : CopyQueue)
  /-- CSCAT, R279: Copies rows with level-1 destination offsets from an index list. -/
  | cscat (who : Who) (q : CopyQueue)
  /-- CPREF, R280: Prefetches source rows into the pool cache or L2. -/
  | cpref (who : Who) (q : CopyQueue)
  /-- CRED, R281: Joins a collective reduction over a group. -/
  | cred (who : Who) (q : CopyQueue)
  /-- CRED_JOIN_COMPLETE, R281: When every member's CRED has joined, the tree reduction is computed and written. -/
  | credJoinComplete (team : Nat) (g : BitVec 8)
  /-- CFLAG, R283: After the queue's earlier writes are visible at SYS, adds to a flag element. -/
  | cflag (who : Who) (q : CopyQueue)
  /-- CATOM, R283: Performs an atomic on one object element, optionally returning the old value. -/
  | catom (who : Who) (q : CopyQueue)
  /-- CSUM, R283: Computes the CRC-32C of the source rows. -/
  | csum (who : Who) (q : CopyQueue)
  /-- CSYNC, R283: Drains the queue, optionally with a SYS release. -/
  | csync (who : Who) (q : CopyQueue)
  /-- COPY_ROW_LANDING, R276: A copy row's writes become visible and its barrier credit is given. -/
  | copyRowLanding (who : Who) (q : CopyQueue) (answer : RowAnswer)
  /-- NSEND, R287: Sends a tagged Ethernet message. -/
  | nsend (who : Who)
  /-- NRECV, R287: Posts a receive buffer for a tagged message. -/
  | nrecv (who : Who)
  /-- NWRITE, R287: Writes bytes into a peer's registered window. -/
  | nwrite (who : Who)
  /-- NCNT, R287: Waits until a counter word reaches a threshold, optionally subtracting it. -/
  | ncnt (who : Who)
  /-- XCONV, R289: Requests a placement conversion as a command. -/
  | xconv (who : Who)
  /-- XRSLOT, R287: Allocates an in-switch reduction slot. -/
  | xrslot (who : Who)
  /-- XRCONT, R290: Contributes to an in-switch reduction slot and receives the result. -/
  | xrcont (who : Who)
  /-- ENGINE_COMMAND_COMPLETION, R223: A command's writes become visible; flags, tokens and the barrier update follow in order. -/
  | engineCommandCompletion (who : Who) (q : Queue)
  /-- PLEAT_WINDOW_START, R209: When all members have arrived or the prior window committed, runs guesses and starts positions. -/
  | pleatWindowStart (team : Nat)
  /-- PLEAT_WINDOW_COMMIT, R212: When every position has published or been killed, accepted buffers are written in order and carries committed. -/
  | pleatWindowCommit (team : Nat)
  /-- LAUNCH_RING_RECORD, R328: The command processor consumes the next record of an enabled launch ring. -/
  | launchRingRecord (slot : Fin 16)
  /-- LAUNCH_READY, R330: A pending launch becomes ready when its dependences are satisfied. -/
  | launchReady (launch : Nat)
  /-- TEAM_PLACEMENT, R335: The walker places a waiting team whole on one die and sets up its state. -/
  | teamPlacement
  /-- QUANTUM_EXPIRY, R342: At quantum end a pre-emption request is set or a new quantum starts. -/
  | quantumExpiry (team : Nat)
  /-- SAFETO_BUDGET_EXPIRY, R394: A member whose budget reaches 0 before arriving traps with SAFETO. -/
  | safetoBudgetExpiry (who : Who)
  /-- PREEMPT_END_MEMBER, R394: A member not arrived after 4,096 further instructions is ended. -/
  | preemptEndMember (who : Who)
  /-- SWAP_QUIESCE, R395: After the safe-point gather the team's engines are quiesced and copies cut and stopped. -/
  | swapQuiesce (team : Nat)
  /-- SEAM_RECORD_WRITE, R343: After the drain the seam record is written and the contexts freed. -/
  | seamRecordWrite (team : Nat)
  /-- SWAP_ABANDON, R396: A swap that cannot finish within 65,536 cycles is abandoned and members resume in place. -/
  | swapAbandon (team : Nat)
  /-- LAUNCH_COMPLETION, R348: When every member has exited or ended, the launch completes with its status and error. -/
  | launchCompletion (launch : Nat)
  /-- COMPLETION_ENTRY_WRITE, R329: A completion entry is written to the completion ring and CMPLA when room allows. -/
  | completionEntryWrite (slot : Fin 16)
  /-- HANG_DETECTION, R392: When the progress counter reaches HANGT the context traps with HANG and a hang record is logged. -/
  | hangDetection (who : Who)
  /-- LINE_LEASE_GRANT, R176: A queued line lease is granted when the previous lease ends. -/
  | lineLeaseGrant (who : Who)
  /-- LINE_LEASE_EXPIRY, R177: A line lease counter reaches zero, ending the lease and setting the expired mark. -/
  | lineLeaseExpiry (who : Who)
  /-- POOL_LEASE_LAPSE, R191: The GTC passes the lease end without extension; hold count, token and cached pages are dropped. -/
  | poolLeaseLapse (poolid : Word)
  /-- REPLAY_RETRY, R186: A receiver-not-ready request is resent after its back-off, or fails with POOLRNR. -/
  | replayRetry (req : Nat)
  /-- REMOTE_ANSWER, R187: An answer to a remote request arrives: acknowledgement, data, lease grant or deferred fault. -/
  | remoteAnswer (req : Nat) (answer : Answer)
  /-- POOL_CACHE_FILL, R369: A page fill completes, making the page VALID or leaving it INVALID on a fault. -/
  | poolCacheFill (poolid : Word) (page : Nat) (answer : PageAnswer)
  /-- PREFETCH_PAGE_ANSWER, R374: A prefetch fetch answer arrives and the page is held AHEAD or dropped. -/
  | prefetchPageAnswer (poolid : Word) (page : Nat) (answer : PageAnswer)
  /-- REMOTE_WRITE_REQUEST, R418: As target, checks tokens, performs a flagged write, then the flag add, then acknowledges. -/
  | remoteWriteRequest (m : RemWrite)
  /-- REMOTE_READ_REQUEST, R384: As target, serves a remote read or answers receiver-not-ready. -/
  | remoteReadRequest (m : RemRead)
  /-- REMOTE_ATOMIC_REQUEST, R190: As home of a device-memory object, performs a remote atomic. -/
  | remoteAtomicRequest (m : RemAtomic)
  /-- LEASE_REQUEST, R474: As holding package, grants, extends or refuses a lease on a fenced device-memory object. -/
  | leaseRequest (src : Sender) (base term : Word)
  /-- LEASE_RELEASE, R474: As holding package, releases a lease on a fenced object. -/
  | leaseRelease (src : Sender) (base : Word)
  /-- RELAY_REQUEST, R414: A request received on a direct lane for another station, for a page and with its relay count, is relayed or
  answered ROUTE; an answer goes back for the page that its record names. -/
  | relayRequest (dst : Relay) (page count : Nat)
  /-- CONV_SEAL_MESSAGE, R424: The conversion home receives a SEAL and fixes the target. -/
  | convSealMessage (m : ConvMsg) (member : Fin 64) (target : Option (BitVec 4))
  /-- CONV_START_MESSAGE, R424: A member receives START and contributes once sealed. -/
  | convStartMessage (m : ConvMsg) (target : BitVec 4) (method : ConvMethod)
  /-- CONV_CHUNK_WRITE, R425: A member stages an incoming chunk of a conversion. -/
  | convChunkWrite (m : ConvMsg) (first : Nat) (data : List Byte)
  /-- CONV_DONE_MESSAGE, R425: On DONE a member copies staged elements into its piece and completes the conversion. -/
  | convDoneMessage (m : ConvMsg) (nan : Bool)
  /-- CONV_ABORT_MESSAGE, R425: On ABORT a member discards staging and ends the conversion as aborted. -/
  | convAbortMessage (m : ConvMsg) (missing : Word)
  /-- CONV_NODOMAIN, R426: A conversion message for an unknown domain is refused, or such a refusal aborts the conversion. -/
  | convNodomain (m : ConvMsg) (member : Fin 64) (ours : Bool)
  /-- CONV_CHUNK_TIMEOUT, R425: A slotless chunk not reported within CVTMO fails and the home sends ABORT. -/
  | convChunkTimeout (key : ConvKey) (missing : Word)
  /-- SLOT_GRANT, R420: The switch grants a reduction slot and its name is written. -/
  | slotGrant (req : Nat) (name : Word)
  /-- SLOT_RESULT, R420: The switch delivers the reduced result with NaN-seen. -/
  | slotResult (req : Nat) (data : List Byte) (nan : Bool)
  /-- SLOT_TIMEOUT, R420: The switch reports a timed-out slot with the missing bitmap. -/
  | slotTimeout (req : Nat) (missing : Word)
  /-- SLOT_EXPIRED, R420: A late contribution is answered EXPIRED. -/
  | slotExpired (req : Nat)
  /-- SLOT_UNKNOWN, R420: The switch refuses an ALLOC or contribution as UNKNOWN, giving BADSLOT. -/
  | slotUnknown (req : Nat)
  /-- IDENTITY_FLIT, R409: The peer's identity flit is compared with EXPPEER, making the station wait for keys or DOWN. -/
  | identityFlit (s : Fin 64) (id : Identity)
  /-- TRAIN_TEST_TIMEOUT, R409: A training test run not clean within 50 µs drops to a slower mode or DOWN. -/
  | trainTestTimeout (s : Fin 64)
  /-- LINK_RETRAIN, R412: Excess replays or loss of lock retrain a station, which may go DOWN. -/
  | linkRetrain (s : Fin 64)
  /-- RING_HANDOVER, R413: A ring heater passing 90 % switches both ends to the spare ring. -/
  | ringHandover (s : Fin 64)
  /-- RING_LOCK_TIMEOUT, R413: A ring that cannot lock within 100 µs starts a retrain. -/
  | ringLockTimeout (s : Fin 64)
  /-- AUTHFAIL, R410: Sixteen consecutive authentication failures make the station DOWN. -/
  | authfail (s : Fin 64)
  /-- KEY_EXHAUSTION, R411: The flit counter reaches its limit with no next key and the station enters KEYEXH. -/
  | keyExhaustion (s : Fin 64)
  /-- KEYWAIT_EXPIRY, R411: With no key after KEYWAIT, the station goes DOWN and unanswered requests fail with LINKKEY. -/
  | keywaitExpiry (s : Fin 64)
  /-- QDONE, R417: Exchange of QDONE flits makes a quiescing station QUIESCED. -/
  | qdone (s : Fin 64)
  /-- QUIESCE_TIMEOUT, R417: A quiesce not done within QTMO fails requests with ROUTE and sets FORCED. -/
  | quiesceTimeout (s : Fin 64)
  /-- STCTL_EN, R407: Writing EN enables a station into training, or turns it off. -/
  | stctlEn (s : Fin 64) (on : Bool)
  /-- STCTL_QUIESCE, R417: Writing QUIESCE 1 starts a quiesce; 0 in QUIESCED starts training. -/
  | stctlQuiesce (s : Fin 64) (on : Bool)
  /-- STCTL_UP, R407: Writing UP retrains the station from mode BEST. -/
  | stctlUp (s : Fin 64)
  /-- KEYCTL_LDTX, R410: Installs KEYDATA as the next transmit key. -/
  | keyctlLdtx (s : Fin 64)
  /-- KEYCTL_LDRX, R410: Installs KEYDATA as the next receive key. -/
  | keyctlLdrx (s : Fin 64)
  /-- LAUNCH_ENDPOINT_WRITE, R429: An Ethernet write to a launch endpoint is placed in the ring and LRPI advanced. -/
  | launchEndpointWrite (slot : Fin 16) (p : Word) (data : List Byte)
  /-- TAGGED_MESSAGE_ARRIVAL, R430: An arriving tagged message packet is placed in a matched receive or held as unexpected. -/
  | taggedMessageArrival (ep : BitVec 8) (packet : TagPacket)
  /-- NWRITE_ARRIVAL, R431: An arriving NWRITE is checked, placed in the window and the endpoint counter incremented. -/
  | nwriteArrival (ep : BitVec 8) (key : BitVec 32) (raddr : Word) (p : WritePacket)
  /-- ETHERNET_ACK, R430: A selective acknowledgement arrives, completing or retransmitting packets; an NWRITE may be refused (R431). -/
  | ethernetAck (cmd : NetCmd) (packets : List Nat) (refused : Bool)
  /-- RETRANSMIT_TIMEOUT, R430: An unacknowledged packet is resent after RTO backoff, or fails with ROUTE after RTRY. -/
  | retransmitTimeout (cmd : NetCmd) (packet : Nat)
  /-- TINV, R390: A write to TINV starts a translation invalidation, or is dropped setting OVF. -/
  | tinv (v : Word)
  /-- TLB_INVALIDATION_COMPLETE, R390: After egress queues drain, the invalidation is counted completed in TINVST. -/
  | tlbInvalidationComplete
  /-- DCTL_HREQ, R399: Setting HREQ requests a context halt. -/
  | dctlHreq (core : CoreId) (mask : BitVec 4)
  /-- DCTL_RESUME, R399: RESUME restarts a halted context. -/
  | dctlResume (core : CoreId) (mask : BitVec 4)
  /-- DCTL_STEP, R399: STEP issues exactly one instruction of a halted context, which halts again. -/
  | dctlStep (core : CoreId) (mask : BitVec 4)
  /-- DDATA, R400: Reads or writes the debug-selected item of a halted context, reporting DERR. -/
  | ddata (core : CoreId) (write : Option Word)
  /-- PKGHLT, R401: Halts or resumes the whole package. -/
  | pkghlt (on : Bool)
  /-- PCSIZE_WRITE, R361: Sets the pool cache size, ignored while a pool lease is held. -/
  | pcsizeWrite (v : Word)
  /-- ELOGACK, R443: Sets the event log head, clamped to the tail. -/
  | elogack (v : Word)
  /-- MGMT_REGISTER_WRITE, R5: A write to any management register that has no row of its own. -/
  | mgmtRegisterWrite (off : BitVec 32) (v : Word)
  /-- SIDEBAND_DATAGRAM, R435: An authenticated side-band datagram performs its register accesses in order and is answered. -/
  | sidebandDatagram (seq : Word) (accesses : List SideAccess) (tag : BitVec 128)
  /-- ATTESTATION_REQUEST, R441: An attestation nonce is answered with a signed quote. -/
  | attestationRequest (nonce : BitVec 256)
  /-- POWER_EVALUATION, R433: Every 10 µs the limits are evaluated and the clock step lowered or raised. -/
  | powerEvaluation (r : PowerReading)
  /-- CURRENT_SURGE, R433: Core current 10 % above ILIM forces clock step 8 within 1 µs. -/
  | currentSurge (current : Nat)
  /-- THERMAL_TRIP, R433: A junction at TTRIP halts the package and switches rails off. -/
  | thermalTrip (eighths : Nat)
  /-- GTCLOST, R434: Synchronisation lost for over 1 s clears SYNC and logs GTCLOST. -/
  | gtclost
  /-- CORRECTED, R438: Once per 1 ms a memory device that corrected errors logs the count. -/
  | corrected (device : BitVec 16) (count : Word)
  /-- PATROL_SCRUB, R357: The scrubber reads granules and poisons those it cannot correct. -/
  | patrolScrub (granule : Nat) (bad : Bool)
  /-- POWER_ON_BOOT, R439: After power-on or reset the package verifies firmware and boots through its steps. -/
  | powerOnBoot (facts : BootFacts)
  /-- TRAIN_TEST_RUN_PASS, R409: A training test run of 2^16 flits is received free of CRC errors, so the station leaves TRAIN for IDCHECK and sends its identity flit (also ending a successful retrain). -/
  | trainTestRunPass (s : Fin 64)
  /-- KEYLOW, R411: When TXCTR passes 2^47 the station logs the event KEYLOW. -/
  | keylow (s : Fin 64)
  /-- GTC_SYNC_RETURN, R434: Synchronisation with the fabric time master returns, so SYNC is set again and GTCERR stops growing. -/
  | gtcSyncReturn
  /-- ETHERNET_LINK_STATE, R428: The Ethernet port's link comes up or goes down, changing ESTAT link up. -/
  | ethernetLinkState (up : Bool)
  deriving DecidableEq, Repr

end Sys2Proof
end

