-- ==== Sys2Proof/WellFormed.lean ====
section
/-! DEFINITION. Which terms of `Instr` an encoding stands for: the field values that the fields' types do not
already rule out (R25, R104, R106, R111, R119, R182, R217). -/

namespace Sys2Proof

/-- A patch word keeps R6 and R104: bit 16 is zero, and with REG = 1 the register number fills VAL[5:0] alone and
FSEL is a multiple of 4. -/
def patchOk (w : IWord) : Bool :=
  w.extractLsb' 16 1 == 0 &&
    (w.extractLsb' 17 1 == 0 || (w.extractLsb' 6 10 == 0 && w.extractLsb' 20 2 == 0))

/-- Number of patch words with ISS = 1 (R104). -/
def issCount (ws : List IWord) : Nat := (ws.filter fun w => w.extractLsb' 19 1 == 1).length

/-- The checks that R106 makes of a packet before it has any effect. -/
def packetOk (ws : List IWord) : Bool :=
  ws.length != 0 && ws.length < 256 && ws.all patchOk && issCount ws ≤ 32

/-- Control words that R24 lists. -/
def controlWordListed (w : Byte) : Bool :=
  w.toNat ≤ 0x11 && w.toNat != 0x07 || 0x18 ≤ w.toNat && w.toNat ≤ 0x1B

/-- Control words that MTC may write (R24, R25). -/
def controlWordWritable (w : Byte) : Bool :=
  [0x00, 0x01, 0x08, 0x0C, 0x0D, 0x0E, 0x0F, 0x18, 0x19, 0x1A, 0x1B].contains w.toNat

def CvtType.isInt : CvtType → Bool
  | .int32 => true
  | .int64 => true
  | _ => false

/-- R119 and the rules it gathers.  An engine command or event has no encoding, so none of these checks bears on it. -/
def Instr.wellFormed : Instr → Bool
  | .fcvt t s _ _ => t != s && !(t.isInt && s.isInt)
  | .rega n => n.toNat % 8 == 0 && 8 ≤ n.toNat && n.toNat ≤ 64
  | .objq _ _ q => q.toNat ≤ 7
  | .emit _ ws => packetOk ws
  | .emitr _ _ c => c != 0
  | .qwait _ n => n.toNat ≤ 32
  | .pleat _ _ w => 2 ≤ w.toNat && w.toNat ≤ 8
  | .launch _ credit b => credit || b == 0
  | .mfc _ w => controlWordListed w
  | .mtc _ w => controlWordWritable w
  | _ => true

end Sys2Proof
end

