-- ==== Sys2Proof/Decode.lean ====
section
/-! DEFINITION. Decoding and encoding of the instruction stream (R97 to R119).  `decode` is total on any bytes and
names why it refuses; `encode` writes the words of an instruction from the same tables. -/

namespace Sys2Proof

/-- Why a word is no instruction (R119). -/
inductive DecodeError
  | truncated | unassignedMajor | unassignedCode | reservedField
  deriving DecidableEq, Repr

/-- Bits `[lo+n-1:lo]` of a word. -/
def fld (w : IWord) (lo n : Nat) : BitVec n := w.extractLsb' lo n

/-- Major opcode (R97). -/
def majorOf (w : IWord) : Nat := (fld w 24 8).toNat

/-- Words that the instruction beginning with `w` occupies (R97). -/
def wordCount (w : IWord) : Nat :=
  if majorOf w == 0x51 then 1 + (fld w 13 8).toNat
  else if majorOf w == 0x0F || majorOf w == 0x10 || majorOf w == 0x5D || majorOf w == 0x60 then 2
  else 1

/-- Code of Scope (R113). -/
def Scope.code : Scope → BitVec 2
  | .core => 0
  | .die => 1
  | .pkg => 2
  | .sys => 3

def Scope.ofCode (v : BitVec 2) : Option Scope :=
  match v.toNat with
  | 0 => some .core
  | 1 => some .die
  | 2 => some .pkg
  | 3 => some .sys
  | _ => none

/-- Code of Order (R113). -/
def Order.code : Order → BitVec 2
  | .rlx => 0
  | .acq => 1
  | .rel => 2
  | .ar => 3

def Order.ofCode (v : BitVec 2) : Option Order :=
  match v.toNat with
  | 0 => some .rlx
  | 1 => some .acq
  | 2 => some .rel
  | 3 => some .ar
  | _ => none

/-- Code of FenceKind (R113). -/
def FenceKind.code : FenceKind → BitVec 2
  | .full => 0
  | .acq => 1
  | .rel => 2

def FenceKind.ofCode (v : BitVec 2) : Option FenceKind :=
  match v.toNat with
  | 0 => some .full
  | 1 => some .acq
  | 2 => some .rel
  | _ => none

/-- Code of Size (R109). -/
def Size.code : Size → BitVec 2
  | .b => 0
  | .h => 1
  | .w => 2
  | .d => 3

def Size.ofCode (v : BitVec 2) : Option Size :=
  match v.toNat with
  | 0 => some .b
  | 1 => some .h
  | 2 => some .w
  | 3 => some .d
  | _ => none

/-- Code of PoolSize (R113). -/
def PoolSize.code : PoolSize → BitVec 2
  | .w => 2
  | .d => 3

def PoolSize.ofCode (v : BitVec 2) : Option PoolSize :=
  match v.toNat with
  | 2 => some .w
  | 3 => some .d
  | _ => none

/-- Code of FCond (R111). -/
def FCond.code : FCond → BitVec 6
  | .eq => 0
  | .ne => 1
  | .lt => 2
  | .le => 3
  | .un => 4

def FCond.ofCode (v : BitVec 6) : Option FCond :=
  match v.toNat with
  | 0 => some .eq
  | 1 => some .ne
  | 2 => some .lt
  | 3 => some .le
  | 4 => some .un
  | _ => none

/-- Code of CvtType (R111). -/
def CvtType.code : CvtType → BitVec 3
  | .fp32 => 0
  | .bf16 => 1
  | .fp16 => 2
  | .int32 => 3
  | .int64 => 4

def CvtType.ofCode (v : BitVec 3) : Option CvtType :=
  match v.toNat with
  | 0 => some .fp32
  | 1 => some .bf16
  | 2 => some .fp16
  | 3 => some .int32
  | 4 => some .int64
  | _ => none

/-- Code of HField (R112). -/
def HField.code : HField → BitVec 4
  | .obj => 0
  | .view => 1
  | .off => 2
  | .fmt => 3
  | .flg => 4
  | .dim0 => 5
  | .dim1 => 6
  | .dim2 => 7
  | .dim3 => 8
  | .str0 => 9
  | .str1 => 10
  | .str2 => 11
  | .str3 => 12

def HField.ofCode (v : BitVec 4) : Option HField :=
  match v.toNat with
  | 0 => some .obj
  | 1 => some .view
  | 2 => some .off
  | 3 => some .fmt
  | 4 => some .flg
  | 5 => some .dim0
  | 6 => some .dim1
  | 7 => some .dim2
  | 8 => some .dim3
  | 9 => some .str0
  | 10 => some .str1
  | 11 => some .str2
  | 12 => some .str3
  | _ => none

/-- Code of AtomOp (R113). -/
def AtomOp.code : AtomOp → BitVec 5
  | .add => 0
  | .min => 1
  | .max => 2
  | .and => 3
  | .or => 4
  | .xor => 5
  | .swap => 6
  | .cas => 7

def AtomOp.ofCode (v : BitVec 5) : Option AtomOp :=
  match v.toNat with
  | 0 => some .add
  | 1 => some .min
  | 2 => some .max
  | 3 => some .and
  | 4 => some .or
  | 5 => some .xor
  | 6 => some .swap
  | 7 => some .cas
  | _ => none

/-- Code of Fifo (R114). -/
def Fifo.code : Fifo → BitVec 3
  | .lm => 0
  | .ml => 1
  | .mv => 2
  | .vm => 3
  | .vs => 4
  | .sv => 5

def Fifo.ofCode (v : BitVec 3) : Option Fifo :=
  match v.toNat with
  | 0 => some .lm
  | 1 => some .ml
  | 2 => some .mv
  | 3 => some .vm
  | 4 => some .vs
  | 5 => some .sv
  | _ => none

/-- Code of Engine (R114). -/
def Engine.code : Engine → BitVec 2
  | .copy => 0
  | .matrix => 1
  | .vector => 2
  | .net => 3

def Engine.ofCode (v : BitVec 2) : Option Engine :=
  match v.toNat with
  | 0 => some .copy
  | 1 => some .matrix
  | 2 => some .vector
  | 3 => some .net
  | _ => none

/-- Code of Queue (R39). -/
def Queue.code : Queue → BitVec 3
  | .ldq => 0
  | .mxq => 1
  | .vxq => 2
  | .stq => 3
  | .nxq => 4

def Queue.ofCode (v : BitVec 3) : Option Queue :=
  match v.toNat with
  | 0 => some .ldq
  | 1 => some .mxq
  | 2 => some .vxq
  | 3 => some .stq
  | 4 => some .nxq
  | _ => none

def boolBit (b : Bool) : BitVec 1 := if b then 1 else 0
def bitBool (b : BitVec 1) : Bool := b == 1

/-- The words of an instruction (R101, R109).  An engine command or an event has none. -/
def encode : Instr → List IWord
  | .add d a b => [0x01#8 ++ d ++ a ++ b ++ 0#6]
  | .sub d a b => [0x01#8 ++ d ++ a ++ b ++ 1#6]
  | .mul d a b => [0x01#8 ++ d ++ a ++ b ++ 2#6]
  | .mulh d a b => [0x01#8 ++ d ++ a ++ b ++ 3#6]
  | .mulhu d a b => [0x01#8 ++ d ++ a ++ b ++ 4#6]
  | .div d a b => [0x01#8 ++ d ++ a ++ b ++ 5#6]
  | .divu d a b => [0x01#8 ++ d ++ a ++ b ++ 6#6]
  | .rem d a b => [0x01#8 ++ d ++ a ++ b ++ 7#6]
  | .remu d a b => [0x01#8 ++ d ++ a ++ b ++ 8#6]
  | .and d a b => [0x01#8 ++ d ++ a ++ b ++ 9#6]
  | .or d a b => [0x01#8 ++ d ++ a ++ b ++ 10#6]
  | .xor d a b => [0x01#8 ++ d ++ a ++ b ++ 11#6]
  | .andn d a b => [0x01#8 ++ d ++ a ++ b ++ 12#6]
  | .shl d a b => [0x01#8 ++ d ++ a ++ b ++ 13#6]
  | .shr d a b => [0x01#8 ++ d ++ a ++ b ++ 14#6]
  | .sra d a b => [0x01#8 ++ d ++ a ++ b ++ 15#6]
  | .rol d a b => [0x01#8 ++ d ++ a ++ b ++ 16#6]
  | .min d a b => [0x01#8 ++ d ++ a ++ b ++ 17#6]
  | .max d a b => [0x01#8 ++ d ++ a ++ b ++ 18#6]
  | .minu d a b => [0x01#8 ++ d ++ a ++ b ++ 19#6]
  | .maxu d a b => [0x01#8 ++ d ++ a ++ b ++ 20#6]
  | .clz d a => [0x01#8 ++ d ++ a ++ 21#12]
  | .ctz d a => [0x01#8 ++ d ++ a ++ 22#12]
  | .popc d a => [0x01#8 ++ d ++ a ++ 23#12]
  | .ceq d a b => [0x02#8 ++ d ++ a ++ b ++ 0#6]
  | .cne d a b => [0x02#8 ++ d ++ a ++ b ++ 1#6]
  | .clt d a b => [0x02#8 ++ d ++ a ++ b ++ 2#6]
  | .cle d a b => [0x02#8 ++ d ++ a ++ b ++ 3#6]
  | .cltu d a b => [0x02#8 ++ d ++ a ++ b ++ 4#6]
  | .cleu d a b => [0x02#8 ++ d ++ a ++ b ++ 5#6]
  | .sel d c a b => [0x03#8 ++ d ++ c ++ a ++ b]
  | .fadd d a b => [0x04#8 ++ d ++ a ++ b ++ 0#6]
  | .fsub d a b => [0x04#8 ++ d ++ a ++ b ++ 1#6]
  | .fmul d a b => [0x04#8 ++ d ++ a ++ b ++ 2#6]
  | .fdiv d a b => [0x04#8 ++ d ++ a ++ b ++ 3#6]
  | .fsqrt d a => [0x04#8 ++ d ++ a ++ 4#12]
  | .fmin d a b => [0x04#8 ++ d ++ a ++ b ++ 5#6]
  | .fmax d a b => [0x04#8 ++ d ++ a ++ b ++ 6#6]
  | .ffma d a b c => [0x05#8 ++ d ++ a ++ b ++ c]
  | .fcmp k d a b => [0x06#8 ++ d ++ a ++ b ++ k.code]
  | .fcvt t s d a => [0x07#8 ++ d ++ a ++ 0#6 ++ t.code ++ s.code]
  | .addi d a i => [0x08#8 ++ d ++ a ++ i]
  | .andi d a i => [0x09#8 ++ d ++ a ++ i]
  | .ori d a i => [0x0A#8 ++ d ++ a ++ i]
  | .xori d a i => [0x0B#8 ++ d ++ a ++ i]
  | .shli d a n => [0x0C#8 ++ d ++ a ++ 0#6 ++ n]
  | .shri d a n => [0x0D#8 ++ d ++ a ++ 0#6 ++ n]
  | .srai d a n => [0x0E#8 ++ d ++ a ++ 0#6 ++ n]
  | .br o => [0x11#8 ++ o]
  | .call o => [0x12#8 ++ o]
  | .ret => [0x13#8 ++ 0#24]
  | .jmpr d a => [0x14#8 ++ d ++ a ++ 0#12]
  | .bz a o => [0x15#8 ++ a ++ 0#6 ++ o]
  | .bnz a o => [0x16#8 ++ a ++ 0#6 ++ o]
  | .beq a b o => [0x17#8 ++ a ++ b ++ o]
  | .bne a b o => [0x18#8 ++ a ++ b ++ o]
  | .blt a b o => [0x19#8 ++ a ++ b ++ o]
  | .bge a b o => [0x1A#8 ++ a ++ b ++ o]
  | .loop a o => [0x1B#8 ++ a ++ 0#6 ++ o]
  | .hld h a o => [0x1C#8 ++ h ++ 0#5 ++ a ++ o]
  | .hst g a o => [0x1D#8 ++ 0#5 ++ g ++ a ++ o]
  | .hset f h a => [0x1E#8 ++ h ++ 0#5 ++ a ++ f.code ++ 0#4]
  | .hget f g d => [0x1F#8 ++ 0#5 ++ g ++ d ++ f.code ++ 0#4]
  | .hmov h g => [0x20#8 ++ h ++ g ++ 0#14]
  | .hslice h g a k => [0x21#8 ++ h ++ g ++ a ++ k ++ 0#6]
  | .hobj h n => [0x22#8 ++ h ++ 0#5 ++ n]
  | .hadv h a k => [0x23#8 ++ h ++ 0#5 ++ a ++ k ++ 0#6]
  | .grank d g => [0x24#8 ++ d ++ 0#10 ++ g]
  | .gsize d g => [0x25#8 ++ d ++ 0#10 ++ g]
  | .rega n => [0x26#8 ++ 0#17 ++ n]
  | .ldb d a i => [0x27#8 ++ d ++ a ++ i]
  | .ldh d a i => [0x28#8 ++ d ++ a ++ i]
  | .ldw d a i => [0x29#8 ++ d ++ a ++ i]
  | .ldd d a i => [0x2A#8 ++ d ++ a ++ i]
  | .stb v a i => [0x2B#8 ++ v ++ a ++ i]
  | .sth v a i => [0x2C#8 ++ v ++ a ++ i]
  | .stw v a i => [0x2D#8 ++ v ++ a ++ i]
  | .std v a i => [0x2E#8 ++ v ++ a ++ i]
  | .ldx s d a b => [0x2F#8 ++ d ++ a ++ b ++ 0#4 ++ s.code]
  | .stx s v a b => [0x30#8 ++ v ++ a ++ b ++ 0#4 ++ s.code]
  | .aadd w o s d a b => [0x31#8 ++ d ++ a ++ b ++ 0#1 ++ boolBit w ++ o.code ++ s.code]
  | .amin w o s d a b => [0x32#8 ++ d ++ a ++ b ++ 0#1 ++ boolBit w ++ o.code ++ s.code]
  | .amax w o s d a b => [0x33#8 ++ d ++ a ++ b ++ 0#1 ++ boolBit w ++ o.code ++ s.code]
  | .aand w o s d a b => [0x34#8 ++ d ++ a ++ b ++ 0#1 ++ boolBit w ++ o.code ++ s.code]
  | .aor w o s d a b => [0x35#8 ++ d ++ a ++ b ++ 0#1 ++ boolBit w ++ o.code ++ s.code]
  | .axor w o s d a b => [0x36#8 ++ d ++ a ++ b ++ 0#1 ++ boolBit w ++ o.code ++ s.code]
  | .aswap w o s d a b => [0x37#8 ++ d ++ a ++ b ++ 0#1 ++ boolBit w ++ o.code ++ s.code]
  | .acas w o s d a b => [0x38#8 ++ d ++ a ++ b ++ 0#1 ++ boolBit w ++ o.code ++ s.code]
  | .fence k s => [0x39#8 ++ 0#20 ++ k.code ++ s.code]
  | .lda s z d a => [0x3A#8 ++ d ++ a ++ 0#8 ++ z.code ++ s.code]
  | .stl s z a v => [0x3B#8 ++ 0#6 ++ a ++ v ++ 0#2 ++ z.code ++ s.code]
  | .flushd inv a b => [0x3C#8 ++ 0#6 ++ a ++ b ++ 0#5 ++ boolBit inv]
  | .llease a => [0x3D#8 ++ 0#6 ++ a ++ 0#12]
  | .llrel a => [0x3E#8 ++ 0#6 ++ a ++ 0#12]
  | .place h m => [0x3F#8 ++ h ++ 0#15 ++ m]
  | .seal h m => [0x40#8 ++ h ++ 0#15 ++ m]
  | .objq g d q => [0x41#8 ++ 0#5 ++ g ++ d ++ q]
  | .modesw hw a b => [0x42#8 ++ 0#6 ++ a ++ b ++ 0#5 ++ boolBit hw]
  | .cbld g a c => [0x43#8 ++ 0#5 ++ g ++ a ++ 0#6 ++ c]
  | .pst s h g i v => [0x44#8 ++ h ++ g ++ i ++ v ++ s.code]
  | .pld s g d i => [0x45#8 ++ 0#5 ++ g ++ d ++ i ++ s.code]
  | .patom p z g d v => [0x46#8 ++ p.code ++ g ++ d ++ v ++ z.code]
  | .lsacq g d => [0x47#8 ++ 0#5 ++ g ++ d ++ 0#8]
  | .lsrel g => [0x48#8 ++ 0#5 ++ g ++ 0#14]
  | .binit b n => [0x49#8 ++ b ++ 0#10 ++ n]
  | .barr b a => [0x4A#8 ++ b ++ a ++ 0#12]
  | .bexp b a => [0x4B#8 ++ b ++ a ++ 0#12]
  | .bwait b p => [0x4C#8 ++ b ++ 0#17 ++ boolBit p]
  | .btest d b => [0x4D#8 ++ d ++ 0#12 ++ b]
  | .gbar g => [0x4E#8 ++ 0#16 ++ g]
  | .tkpop f => [0x4F#8 ++ 0#21 ++ f.code]
  | .tkpush f => [0x50#8 ++ 0#21 ++ f.code]
  | .emitr q a c => [0x52#8 ++ q.code ++ c ++ 0#7 ++ a]
  | .qwait q n => [0x53#8 ++ 0#12 ++ q.code ++ 0#3 ++ n]
  | .qstat q d => [0x54#8 ++ d ++ 0#6 ++ q.code ++ 0#9]
  | .tmpld e t a => [0x55#8 ++ 0#6 ++ a ++ 0#4 ++ e.code ++ t]
  | .tmpsw e => [0x56#8 ++ 0#22 ++ e.code]
  | .tmprd e t d a => [0x57#8 ++ d ++ a ++ 0#4 ++ e.code ++ t]
  | .pleat a b w => [0x58#8 ++ 0#6 ++ a ++ b ++ 0#2 ++ w]
  | .pcarry a k => [0x59#8 ++ 0#6 ++ a ++ 0#9 ++ k]
  | .pgret => [0x5A#8 ++ 0#24]
  | .pcmp a k => [0x5B#8 ++ 0#6 ++ a ++ 0#9 ++ k]
  | .plend o => [0x5C#8 ++ o]
  | .trap c => [0x5E#8 ++ c]
  | .rtt => [0x5F#8 ++ 0#24]
  | .exit s => [0x61#8 ++ 0#16 ++ s]
  | .mfc d w => [0x62#8 ++ d ++ 0#10 ++ w]
  | .mtc a w => [0x63#8 ++ 0#6 ++ a ++ 0#4 ++ w]
  | .rdgtc d => [0x64#8 ++ d ++ 0#18]
  | .nop => [0x65#8 ++ 0#24]
  | .brk c => [0x66#8 ++ c]
  | .li d imm => [0x0F#8 ++ d ++ 0#18, imm]
  | .liw d imm => [0x10#8 ++ d ++ 0#18, imm]
  | .emit q ws => (0x51#8 ++ q.code ++ BitVec.ofNat 8 ws.length ++ 0#13) :: ws
  | .launch a credit b => [0x5D#8 ++ 0#6 ++ a ++ 0#12, 0#25 ++ boolBit credit ++ b]
  | .safept n => [0x60#8 ++ 0#24, 0#16 ++ n]
  | _ => []

/-- Major 0x01, by its function code (R110). -/
def decodeInteger (w : IWord) : Except DecodeError Instr :=
  match (fld w 0 6).toNat with
  | 0 => .ok (.add (fld w 18 6) (fld w 12 6) (fld w 6 6))
  | 1 => .ok (.sub (fld w 18 6) (fld w 12 6) (fld w 6 6))
  | 2 => .ok (.mul (fld w 18 6) (fld w 12 6) (fld w 6 6))
  | 3 => .ok (.mulh (fld w 18 6) (fld w 12 6) (fld w 6 6))
  | 4 => .ok (.mulhu (fld w 18 6) (fld w 12 6) (fld w 6 6))
  | 5 => .ok (.div (fld w 18 6) (fld w 12 6) (fld w 6 6))
  | 6 => .ok (.divu (fld w 18 6) (fld w 12 6) (fld w 6 6))
  | 7 => .ok (.rem (fld w 18 6) (fld w 12 6) (fld w 6 6))
  | 8 => .ok (.remu (fld w 18 6) (fld w 12 6) (fld w 6 6))
  | 9 => .ok (.and (fld w 18 6) (fld w 12 6) (fld w 6 6))
  | 10 => .ok (.or (fld w 18 6) (fld w 12 6) (fld w 6 6))
  | 11 => .ok (.xor (fld w 18 6) (fld w 12 6) (fld w 6 6))
  | 12 => .ok (.andn (fld w 18 6) (fld w 12 6) (fld w 6 6))
  | 13 => .ok (.shl (fld w 18 6) (fld w 12 6) (fld w 6 6))
  | 14 => .ok (.shr (fld w 18 6) (fld w 12 6) (fld w 6 6))
  | 15 => .ok (.sra (fld w 18 6) (fld w 12 6) (fld w 6 6))
  | 16 => .ok (.rol (fld w 18 6) (fld w 12 6) (fld w 6 6))
  | 17 => .ok (.min (fld w 18 6) (fld w 12 6) (fld w 6 6))
  | 18 => .ok (.max (fld w 18 6) (fld w 12 6) (fld w 6 6))
  | 19 => .ok (.minu (fld w 18 6) (fld w 12 6) (fld w 6 6))
  | 20 => .ok (.maxu (fld w 18 6) (fld w 12 6) (fld w 6 6))
  | 21 => if fld w 6 6 == 0 then .ok (.clz (fld w 18 6) (fld w 12 6)) else .error .reservedField
  | 22 => if fld w 6 6 == 0 then .ok (.ctz (fld w 18 6) (fld w 12 6)) else .error .reservedField
  | 23 => if fld w 6 6 == 0 then .ok (.popc (fld w 18 6) (fld w 12 6)) else .error .reservedField
  | _ => .error .unassignedCode

/-- Major 0x02, by its function code (R110). -/
def decodeCompare (w : IWord) : Except DecodeError Instr :=
  match (fld w 0 6).toNat with
  | 0 => .ok (.ceq (fld w 18 6) (fld w 12 6) (fld w 6 6))
  | 1 => .ok (.cne (fld w 18 6) (fld w 12 6) (fld w 6 6))
  | 2 => .ok (.clt (fld w 18 6) (fld w 12 6) (fld w 6 6))
  | 3 => .ok (.cle (fld w 18 6) (fld w 12 6) (fld w 6 6))
  | 4 => .ok (.cltu (fld w 18 6) (fld w 12 6) (fld w 6 6))
  | 5 => .ok (.cleu (fld w 18 6) (fld w 12 6) (fld w 6 6))
  | _ => .error .unassignedCode

/-- Major 0x04, by its function code (R110). -/
def decodeFloat (w : IWord) : Except DecodeError Instr :=
  match (fld w 0 6).toNat with
  | 0 => .ok (.fadd (fld w 18 6) (fld w 12 6) (fld w 6 6))
  | 1 => .ok (.fsub (fld w 18 6) (fld w 12 6) (fld w 6 6))
  | 2 => .ok (.fmul (fld w 18 6) (fld w 12 6) (fld w 6 6))
  | 3 => .ok (.fdiv (fld w 18 6) (fld w 12 6) (fld w 6 6))
  | 4 => if fld w 6 6 == 0 then .ok (.fsqrt (fld w 18 6) (fld w 12 6)) else .error .reservedField
  | 5 => .ok (.fmin (fld w 18 6) (fld w 12 6) (fld w 6 6))
  | 6 => .ok (.fmax (fld w 18 6) (fld w 12 6) (fld w 6 6))
  | _ => .error .unassignedCode

/-- One-word instructions, by major opcode (R109). -/
def decodeShort (w : IWord) : Except DecodeError Instr :=
  match majorOf w with
  | 1 => decodeInteger w
  | 2 => decodeCompare w
  | 4 => decodeFloat w
  | 3 => .ok (.sel (fld w 18 6) (fld w 12 6) (fld w 6 6) (fld w 0 6))
  | 5 => .ok (.ffma (fld w 18 6) (fld w 12 6) (fld w 6 6) (fld w 0 6))
  | 6 => (match FCond.ofCode (fld w 0 6) with | some k => .ok (.fcmp k (fld w 18 6) (fld w 12 6) (fld w 6 6)) | none => .error .unassignedCode)
  | 7 => if fld w 6 6 == 0 then (match CvtType.ofCode (fld w 3 3) with | some t => (match CvtType.ofCode (fld w 0 3) with | some s => .ok (.fcvt t s (fld w 18 6) (fld w 12 6)) | none => .error .unassignedCode) | none => .error .unassignedCode) else .error .reservedField
  | 8 => .ok (.addi (fld w 18 6) (fld w 12 6) (fld w 0 12))
  | 9 => .ok (.andi (fld w 18 6) (fld w 12 6) (fld w 0 12))
  | 10 => .ok (.ori (fld w 18 6) (fld w 12 6) (fld w 0 12))
  | 11 => .ok (.xori (fld w 18 6) (fld w 12 6) (fld w 0 12))
  | 12 => if fld w 6 6 == 0 then .ok (.shli (fld w 18 6) (fld w 12 6) (fld w 0 6)) else .error .reservedField
  | 13 => if fld w 6 6 == 0 then .ok (.shri (fld w 18 6) (fld w 12 6) (fld w 0 6)) else .error .reservedField
  | 14 => if fld w 6 6 == 0 then .ok (.srai (fld w 18 6) (fld w 12 6) (fld w 0 6)) else .error .reservedField
  | 17 => .ok (.br (fld w 0 24))
  | 18 => .ok (.call (fld w 0 24))
  | 19 => if fld w 0 24 == 0 then .ok .ret else .error .reservedField
  | 20 => if fld w 0 12 == 0 then .ok (.jmpr (fld w 18 6) (fld w 12 6)) else .error .reservedField
  | 21 => if fld w 12 6 == 0 then .ok (.bz (fld w 18 6) (fld w 0 12)) else .error .reservedField
  | 22 => if fld w 12 6 == 0 then .ok (.bnz (fld w 18 6) (fld w 0 12)) else .error .reservedField
  | 23 => .ok (.beq (fld w 18 6) (fld w 12 6) (fld w 0 12))
  | 24 => .ok (.bne (fld w 18 6) (fld w 12 6) (fld w 0 12))
  | 25 => .ok (.blt (fld w 18 6) (fld w 12 6) (fld w 0 12))
  | 26 => .ok (.bge (fld w 18 6) (fld w 12 6) (fld w 0 12))
  | 27 => if fld w 12 6 == 0 then .ok (.loop (fld w 18 6) (fld w 0 12)) else .error .reservedField
  | 28 => if fld w 14 5 == 0 then .ok (.hld (fld w 19 5) (fld w 8 6) (fld w 0 8)) else .error .reservedField
  | 29 => if fld w 19 5 == 0 then .ok (.hst (fld w 14 5) (fld w 8 6) (fld w 0 8)) else .error .reservedField
  | 30 => if fld w 14 5 == 0 && fld w 0 4 == 0 then (match HField.ofCode (fld w 4 4) with | some f => .ok (.hset f (fld w 19 5) (fld w 8 6)) | none => .error .unassignedCode) else .error .reservedField
  | 31 => if fld w 19 5 == 0 && fld w 0 4 == 0 then (match HField.ofCode (fld w 4 4) with | some f => .ok (.hget f (fld w 14 5) (fld w 8 6)) | none => .error .unassignedCode) else .error .reservedField
  | 32 => if fld w 0 14 == 0 then .ok (.hmov (fld w 19 5) (fld w 14 5)) else .error .reservedField
  | 33 => if fld w 0 6 == 0 then .ok (.hslice (fld w 19 5) (fld w 14 5) (fld w 8 6) (fld w 6 2)) else .error .reservedField
  | 34 => if fld w 14 5 == 0 then .ok (.hobj (fld w 19 5) (fld w 0 14)) else .error .reservedField
  | 35 => if fld w 14 5 == 0 && fld w 0 6 == 0 then .ok (.hadv (fld w 19 5) (fld w 8 6) (fld w 6 2)) else .error .reservedField
  | 36 => if fld w 8 10 == 0 then .ok (.grank (fld w 18 6) (fld w 0 8)) else .error .reservedField
  | 37 => if fld w 8 10 == 0 then .ok (.gsize (fld w 18 6) (fld w 0 8)) else .error .reservedField
  | 38 => if fld w 7 17 == 0 then .ok (.rega (fld w 0 7)) else .error .reservedField
  | 39 => .ok (.ldb (fld w 18 6) (fld w 12 6) (fld w 0 12))
  | 40 => .ok (.ldh (fld w 18 6) (fld w 12 6) (fld w 0 12))
  | 41 => .ok (.ldw (fld w 18 6) (fld w 12 6) (fld w 0 12))
  | 42 => .ok (.ldd (fld w 18 6) (fld w 12 6) (fld w 0 12))
  | 43 => .ok (.stb (fld w 18 6) (fld w 12 6) (fld w 0 12))
  | 44 => .ok (.sth (fld w 18 6) (fld w 12 6) (fld w 0 12))
  | 45 => .ok (.stw (fld w 18 6) (fld w 12 6) (fld w 0 12))
  | 46 => .ok (.std (fld w 18 6) (fld w 12 6) (fld w 0 12))
  | 47 => if fld w 2 4 == 0 then (match Size.ofCode (fld w 0 2) with | some s => .ok (.ldx s (fld w 18 6) (fld w 12 6) (fld w 6 6)) | none => .error .unassignedCode) else .error .reservedField
  | 48 => if fld w 2 4 == 0 then (match Size.ofCode (fld w 0 2) with | some s => .ok (.stx s (fld w 18 6) (fld w 12 6) (fld w 6 6)) | none => .error .unassignedCode) else .error .reservedField
  | 49 => if fld w 5 1 == 0 then (match Order.ofCode (fld w 2 2) with | some o => (match Scope.ofCode (fld w 0 2) with | some s => .ok (.aadd (bitBool (fld w 4 1)) o s (fld w 18 6) (fld w 12 6) (fld w 6 6)) | none => .error .unassignedCode) | none => .error .unassignedCode) else .error .reservedField
  | 50 => if fld w 5 1 == 0 then (match Order.ofCode (fld w 2 2) with | some o => (match Scope.ofCode (fld w 0 2) with | some s => .ok (.amin (bitBool (fld w 4 1)) o s (fld w 18 6) (fld w 12 6) (fld w 6 6)) | none => .error .unassignedCode) | none => .error .unassignedCode) else .error .reservedField
  | 51 => if fld w 5 1 == 0 then (match Order.ofCode (fld w 2 2) with | some o => (match Scope.ofCode (fld w 0 2) with | some s => .ok (.amax (bitBool (fld w 4 1)) o s (fld w 18 6) (fld w 12 6) (fld w 6 6)) | none => .error .unassignedCode) | none => .error .unassignedCode) else .error .reservedField
  | 52 => if fld w 5 1 == 0 then (match Order.ofCode (fld w 2 2) with | some o => (match Scope.ofCode (fld w 0 2) with | some s => .ok (.aand (bitBool (fld w 4 1)) o s (fld w 18 6) (fld w 12 6) (fld w 6 6)) | none => .error .unassignedCode) | none => .error .unassignedCode) else .error .reservedField
  | 53 => if fld w 5 1 == 0 then (match Order.ofCode (fld w 2 2) with | some o => (match Scope.ofCode (fld w 0 2) with | some s => .ok (.aor (bitBool (fld w 4 1)) o s (fld w 18 6) (fld w 12 6) (fld w 6 6)) | none => .error .unassignedCode) | none => .error .unassignedCode) else .error .reservedField
  | 54 => if fld w 5 1 == 0 then (match Order.ofCode (fld w 2 2) with | some o => (match Scope.ofCode (fld w 0 2) with | some s => .ok (.axor (bitBool (fld w 4 1)) o s (fld w 18 6) (fld w 12 6) (fld w 6 6)) | none => .error .unassignedCode) | none => .error .unassignedCode) else .error .reservedField
  | 55 => if fld w 5 1 == 0 then (match Order.ofCode (fld w 2 2) with | some o => (match Scope.ofCode (fld w 0 2) with | some s => .ok (.aswap (bitBool (fld w 4 1)) o s (fld w 18 6) (fld w 12 6) (fld w 6 6)) | none => .error .unassignedCode) | none => .error .unassignedCode) else .error .reservedField
  | 56 => if fld w 5 1 == 0 then (match Order.ofCode (fld w 2 2) with | some o => (match Scope.ofCode (fld w 0 2) with | some s => .ok (.acas (bitBool (fld w 4 1)) o s (fld w 18 6) (fld w 12 6) (fld w 6 6)) | none => .error .unassignedCode) | none => .error .unassignedCode) else .error .reservedField
  | 57 => if fld w 4 20 == 0 then (match FenceKind.ofCode (fld w 2 2) with | some k => (match Scope.ofCode (fld w 0 2) with | some s => .ok (.fence k s) | none => .error .unassignedCode) | none => .error .unassignedCode) else .error .reservedField
  | 58 => if fld w 4 8 == 0 then (match Scope.ofCode (fld w 0 2) with | some s => (match Size.ofCode (fld w 2 2) with | some z => .ok (.lda s z (fld w 18 6) (fld w 12 6)) | none => .error .unassignedCode) | none => .error .unassignedCode) else .error .reservedField
  | 59 => if fld w 18 6 == 0 && fld w 4 2 == 0 then (match Scope.ofCode (fld w 0 2) with | some s => (match Size.ofCode (fld w 2 2) with | some z => .ok (.stl s z (fld w 12 6) (fld w 6 6)) | none => .error .unassignedCode) | none => .error .unassignedCode) else .error .reservedField
  | 60 => if fld w 18 6 == 0 && fld w 1 5 == 0 then .ok (.flushd (bitBool (fld w 0 1)) (fld w 12 6) (fld w 6 6)) else .error .reservedField
  | 61 => if fld w 18 6 == 0 && fld w 0 12 == 0 then .ok (.llease (fld w 12 6)) else .error .reservedField
  | 62 => if fld w 18 6 == 0 && fld w 0 12 == 0 then .ok (.llrel (fld w 12 6)) else .error .reservedField
  | 63 => if fld w 4 15 == 0 then .ok (.place (fld w 19 5) (fld w 0 4)) else .error .reservedField
  | 64 => if fld w 4 15 == 0 then .ok (.seal (fld w 19 5) (fld w 0 4)) else .error .reservedField
  | 65 => if fld w 19 5 == 0 then .ok (.objq (fld w 14 5) (fld w 8 6) (fld w 0 8)) else .error .reservedField
  | 66 => if fld w 18 6 == 0 && fld w 1 5 == 0 then .ok (.modesw (bitBool (fld w 0 1)) (fld w 12 6) (fld w 6 6)) else .error .reservedField
  | 67 => if fld w 19 5 == 0 && fld w 2 6 == 0 then .ok (.cbld (fld w 14 5) (fld w 8 6) (fld w 0 2)) else .error .reservedField
  | 68 => (match Size.ofCode (fld w 0 2) with | some s => .ok (.pst s (fld w 19 5) (fld w 14 5) (fld w 8 6) (fld w 2 6)) | none => .error .unassignedCode)
  | 69 => if fld w 19 5 == 0 then (match Size.ofCode (fld w 0 2) with | some s => .ok (.pld s (fld w 14 5) (fld w 8 6) (fld w 2 6)) | none => .error .unassignedCode) else .error .reservedField
  | 70 => (match AtomOp.ofCode (fld w 19 5) with | some p => (match PoolSize.ofCode (fld w 0 2) with | some z => .ok (.patom p z (fld w 14 5) (fld w 8 6) (fld w 2 6)) | none => .error .unassignedCode) | none => .error .unassignedCode)
  | 71 => if fld w 19 5 == 0 && fld w 0 8 == 0 then .ok (.lsacq (fld w 14 5) (fld w 8 6)) else .error .reservedField
  | 72 => if fld w 19 5 == 0 && fld w 0 14 == 0 then .ok (.lsrel (fld w 14 5)) else .error .reservedField
  | 73 => if fld w 8 10 == 0 then .ok (.binit (fld w 18 6) (fld w 0 8)) else .error .reservedField
  | 74 => if fld w 0 12 == 0 then .ok (.barr (fld w 18 6) (fld w 12 6)) else .error .reservedField
  | 75 => if fld w 0 12 == 0 then .ok (.bexp (fld w 18 6) (fld w 12 6)) else .error .reservedField
  | 76 => if fld w 1 17 == 0 then .ok (.bwait (fld w 18 6) (bitBool (fld w 0 1))) else .error .reservedField
  | 77 => if fld w 6 12 == 0 then .ok (.btest (fld w 18 6) (fld w 0 6)) else .error .reservedField
  | 78 => if fld w 8 16 == 0 then .ok (.gbar (fld w 0 8)) else .error .reservedField
  | 79 => if fld w 3 21 == 0 then (match Fifo.ofCode (fld w 0 3) with | some f => .ok (.tkpop f) | none => .error .unassignedCode) else .error .reservedField
  | 80 => if fld w 3 21 == 0 then (match Fifo.ofCode (fld w 0 3) with | some f => .ok (.tkpush f) | none => .error .unassignedCode) else .error .reservedField
  | 82 => if fld w 6 7 == 0 then (match Queue.ofCode (fld w 21 3) with | some q => .ok (.emitr q (fld w 0 6) (fld w 13 8)) | none => .error .unassignedCode) else .error .reservedField
  | 83 => if fld w 12 12 == 0 && fld w 6 3 == 0 then (match Queue.ofCode (fld w 9 3) with | some q => .ok (.qwait q (fld w 0 6)) | none => .error .unassignedCode) else .error .reservedField
  | 84 => if fld w 12 6 == 0 && fld w 0 9 == 0 then (match Queue.ofCode (fld w 9 3) with | some q => .ok (.qstat q (fld w 18 6)) | none => .error .unassignedCode) else .error .reservedField
  | 85 => if fld w 18 6 == 0 && fld w 8 4 == 0 then (match Engine.ofCode (fld w 6 2) with | some e => .ok (.tmpld e (fld w 0 6) (fld w 12 6)) | none => .error .unassignedCode) else .error .reservedField
  | 86 => if fld w 2 22 == 0 then (match Engine.ofCode (fld w 0 2) with | some e => .ok (.tmpsw e) | none => .error .unassignedCode) else .error .reservedField
  | 87 => if fld w 8 4 == 0 then (match Engine.ofCode (fld w 6 2) with | some e => .ok (.tmprd e (fld w 0 6) (fld w 18 6) (fld w 12 6)) | none => .error .unassignedCode) else .error .reservedField
  | 88 => if fld w 18 6 == 0 && fld w 4 2 == 0 then .ok (.pleat (fld w 12 6) (fld w 6 6) (fld w 0 4)) else .error .reservedField
  | 89 => if fld w 18 6 == 0 && fld w 3 9 == 0 then .ok (.pcarry (fld w 12 6) (fld w 0 3)) else .error .reservedField
  | 90 => if fld w 0 24 == 0 then .ok .pgret else .error .reservedField
  | 91 => if fld w 18 6 == 0 && fld w 3 9 == 0 then .ok (.pcmp (fld w 12 6) (fld w 0 3)) else .error .reservedField
  | 92 => .ok (.plend (fld w 0 24))
  | 94 => .ok (.trap (fld w 0 24))
  | 95 => if fld w 0 24 == 0 then .ok .rtt else .error .reservedField
  | 97 => if fld w 8 16 == 0 then .ok (.exit (fld w 0 8)) else .error .reservedField
  | 98 => if fld w 8 10 == 0 then .ok (.mfc (fld w 18 6) (fld w 0 8)) else .error .reservedField
  | 99 => if fld w 18 6 == 0 && fld w 8 4 == 0 then .ok (.mtc (fld w 12 6) (fld w 0 8)) else .error .reservedField
  | 100 => if fld w 0 18 == 0 then .ok (.rdgtc (fld w 18 6)) else .error .reservedField
  | 101 => if fld w 0 24 == 0 then .ok .nop else .error .reservedField
  | 102 => .ok (.brk (fld w 0 24))
  | _ => .error .unassignedMajor

/-- Instructions of two words (R101), and EMIT with its packet (R106). -/
def decodeLong (w : IWord) (rest : List IWord) : Except DecodeError Instr :=
  match majorOf w, rest with
  | 0x0F, [v] => if fld w 0 18 == 0 then .ok (.li (fld w 18 6) v) else .error .reservedField
  | 0x10, [v] => if fld w 0 18 == 0 then .ok (.liw (fld w 18 6) v) else .error .reservedField
  | 0x51, ws =>
    if fld w 0 13 == 0 then
      match Queue.ofCode (fld w 21 3) with
      | some q => if (fld w 13 8).toNat == ws.length then .ok (.emit q ws) else .error .truncated
      | none => .error .unassignedCode
    else .error .reservedField
  | 0x5D, [v] =>
    if fld w 18 6 == 0 && fld w 0 12 == 0 && fld v 7 25 == 0 then
      .ok (.launch (fld w 12 6) (bitBool (fld v 6 1)) (fld v 0 6))
    else .error .reservedField
  | 0x60, [v] => if fld w 0 24 == 0 && fld v 16 16 == 0 then .ok (.safept (fld v 0 16)) else .error .reservedField
  | _, _ => .error .truncated

/-- The instruction that exactly these words hold (R98, R119). -/
def decodeWords : List IWord → Except DecodeError Instr
  | [] => .error .truncated
  | w :: rest =>
    let r := if wordCount w == 1 && majorOf w != 0x51 then
        (match rest with | [] => decodeShort w | _ => .error .truncated)
      else decodeLong w rest
    match r with
    | .ok i => if i.wellFormed then .ok i else .error .unassignedCode
    | .error e => .error e

/-- A little-endian instruction word (R97). -/
def wordOfBytes (b0 b1 b2 b3 : Byte) : IWord := b3 ++ b2 ++ b1 ++ b0

/-- The first `n` words of a byte string, with the bytes that follow. -/
def takeWords : Nat → List Byte → Option (List IWord × List Byte)
  | 0, bs => some ([], bs)
  | n + 1, b0 :: b1 :: b2 :: b3 :: bs =>
    match takeWords n bs with
    | some (ws, rest) => some (wordOfBytes b0 b1 b2 b3 :: ws, rest)
    | none => none
  | _ + 1, _ => none

/-- The instruction at the head of a byte string, with the bytes after it. -/
def decode (bs : List Byte) : Except DecodeError (Instr × List Byte) :=
  match takeWords 1 bs with
  | some ([w], _) =>
    match takeWords (wordCount w) bs with
    | some (ws, rest) =>
      match decodeWords ws with
      | .ok i => .ok (i, rest)
      | .error e => .error e
    | none => .error .truncated
  | _ => .error .truncated

/-- Bytes of a word, lowest address first (R4). -/
def bytesOfWord (w : IWord) : List Byte :=
  [w.extractLsb' 0 8, w.extractLsb' 8 8, w.extractLsb' 16 8, w.extractLsb' 24 8]

/-- The words of a number whose bit 0 is bit 0 of the first word, at least as many as the instruction needs. -/
def tableWords (w : Nat) : List IWord :=
  (List.range (wordCount (BitVec.ofNat 32 w))).map fun k => BitVec.ofNat 32 (w / 2 ^ (32 * k))

/-- What the decoder reads from an opcode-table word (bits above `nbits` are zero). -/
def decodeTableWord (nbits w : Nat) : Option Instr :=
  match decode ((tableWords (w % 2 ^ nbits)).flatMap bytesOfWord) with
  | .ok (i, _) => some i
  | .error _ => none

/-- Bytes that an instruction occupies (R97). -/
def Instr.size (i : Instr) : Nat := 4 * (encode i).length

/-- First word of an instruction, which ILLEGAL and PRIV report (R379). -/
def Instr.head (i : Instr) : Word := ((encode i).headD 0).setWidth 64

end Sys2Proof
end

