-- ==== Sys2Proof/Config.lean ====
section
/-! DEFINITION. What an implementation fixes and what the manual leaves open: free values without a body, so
that no proof can see what they are (logs 7, 12, 15, 20, 21, 48, 49, 59). -/

namespace Sys2Proof.Config

/-- Whether a copy is still held when it is next looked for: an L1 copy of a line of a software-managed page, whose
replacement policy is not architectural (R303, R349), a word of an instruction cache or fetched ahead (R100), or a
translation (R390).  Log 12. -/
opaque keepsLine : Nat → Bool

/-- Which line of a full set of an L1 makes room, as a number of the set's lines (R349).  Log 12. -/
opaque victim : Nat → Nat

/-- A word that no rule gives: TRAPVAL of a PLEAT trap of an instruction (R208, R379).  Log 21. -/
opaque freeWord : Nat → BitVec 64

/-- What a poisoned byte reads as that a copy or the placement engine takes over (R62).  Log 12. -/
opaque freeByte : Nat → Byte

/-- The tag of a side-band datagram under a session key: HMAC-SHA3-256 cut to 16 bytes (R435).  Log 15. -/
opaque sidebandTag : BitVec 256 → Word → List SideAccess → BitVec 128

/-- The Falcon-1024 signature of a quote: nonce, digests of the running image, STNID and GTC (R441).  Log 15. -/
opaque quoteSignature : BitVec 256 → BitVec 512 → Word → Word → List Byte

/-- SHAKE256 digest of a running image, by the bytes of its bank (R440, R441).  Log 15. -/
opaque imageDigest : List (Nat × Byte) → BitVec 512

/-- First 8 bytes of the digest of this package's device identity key (R409, R441).  Log 15. -/
opaque identityDigest : Word

/-- The side-band session key that the attestation exchange of a nonce agrees (R435).  Log 15. -/
opaque sessionKey : BitVec 256 → BitVec 256

/-- What a sensor reads, by its number (R436): an input of the package.  Log 7. -/
opaque sensorValue : Nat → Nat → BitVec 16

/-- A word of an event record's DATA, by the event code, what the event holds, and the word's number (R437, R438): the
layout by code is open.  Log 20. -/
opaque eventData : Nat → List Word → Nat → Word

/-- Half the depth of the queue of local requests (R401, R415), which is open.  Log 12. -/
opaque ingressHalf : Nat

/-- Flits that a station has sent, or replayed, since its counters were last looked at (R406, R410): an input of the package.
Log 15. -/
opaque flits : Nat → Nat

/-- Which of the live stations carries the slot messages of a conversion whose home asks for a slot (R424), which is open.  Log 59. -/
opaque slotPlane : Nat → Nat

/-- Back-off in nanoseconds and number of retries of what the placement engine asks for: slots, chunks and pool accesses (R186, R423,
R425), which no register gives.  Log 59. -/
opaque convBkoff : Nat
opaque convBklim : Nat

/-- The bound on the offset of the GTC from the fabric's time master, by the GTC, while it is synchronised (R434).  Log 49. -/
opaque gtcOffset : Nat → BitVec 32

/-- Which entropy value a packet is sprayed over, by the number of the sending (R427, R430).  Log 15. -/
opaque entropy : Nat → Nat

/-- Whether the image of a firmware bank, by its bytes, has a header whose digest and signature verify under the vendor key (R440).
Log 48. -/
opaque imageVerifies : List (Nat × Byte) → Bool

/-- Whether a template plane that has been sent whole fails its check once more: a soft error (R341).  Log 12. -/
opaque planeFails : Nat → Bool

end Sys2Proof.Config
end

