-- ==== Sys2Proof/Machine/State.lean ====
section
/-! DEFINITION. The state of one Pyrsel B9 package as plain data, and its value at reset.  Every field names
the rule that gives it to the machine. -/

namespace Sys2Proof.Machine

/-! ## Contexts -/

/-- Run state of a context (R12). -/
inductive RunState | free | active | waiting | halted
  deriving DecidableEq, Repr

/-- Mode bit (R13). -/
inductive Mode | user | handler
  deriving DecidableEq, Repr

/-- A clock: the epoch of each of 64 ranks (R317). -/
abbrev Clock := Vector IWord 64

/-- A named barrier: the image of R36, and its clock (R317). -/
structure Barrier where
  ph : Bool
  err : Bool
  /-- a phase has completed (R199, R318) -/
  done : Bool
  expa : Byte
  arra : Byte
  expb : IWord
  arrb : IWord
  clock : Clock
  deriving DecidableEq, Repr

/-- A template of a plane: its valid bit and its fields (R42). -/
structure Template where
  valid : Bool
  bits : TemplateBits
  deriving DecidableEq, Repr

/-- 64 templates and the CRC-32C kept for them (R42, R339). -/
structure Plane where
  tmpl : Vector Template 64
  crc : IWord
  deriving DecidableEq, Repr

/-- A KEEP amendment that a context has made: `n` fields of a template from `fsel` take `val` (R43). -/
structure Keep where
  ctx : CtxNo
  tidx : BitVec 6
  fsel : Nat
  n : Nat
  val : Nat
  deriving DecidableEq, Repr

/-- The KEEP amendments of one cycle, in the order made, the active plane as it stood at the end of the cycle before, which
build registers load from, and the plane that the amendments apply to: a later one once TMPSW has switched planes (R108). -/
structure Kept where
  cycle : Nat
  before : Plane
  base : Plane
  made : List Keep
  deriving DecidableEq, Repr

/-- The two planes of one engine on a core (R42), and the amendments of the last cycle that made any (R108). -/
structure PlanePair where
  active : Plane
  staging : Plane
  kept : Option Kept
  deriving DecidableEq, Repr

/-- A tagged message of which packets have arrived (R430): its number, tag and whole length, and the bytes at their
offsets. -/
structure HeldMsg where
  msg : Nat
  tag : Word
  total : Nat
  parts : List (Nat × List Byte)
  deriving DecidableEq, Repr

/-- How far a command has come: in its queue, running (its rows are landing, or it waits for the other side),
or with all its work done and only its completion outstanding (R223, R254). -/
inductive CmdPhase | queued | running | done
  deriving DecidableEq, Repr

/-- What an object is leased and cached by: a pool object by its POOLID, a fenced device-memory object by its BASE and
the package that holds it (R367, R474). -/
inductive ObjKey
  | pool (id : Word)
  | dev (node : BitVec 11) (base : Word)
  deriving DecidableEq, Repr

/-- An element of an object as a request names it (R366): how the object is keyed, the node that homes it, whether it is
a scratch region, and the byte offset in the pool object or the address; the fencing token that is carried for a
fenced object (R185); and the entry's capability tag (R364, R404). -/
structure ElemRef where
  key : ObjKey
  node : BitVec 11
  scratch : Bool
  addr : Nat
  token : Option Word
  captag : Word
  deriving DecidableEq, Repr

/-- A row of a copy command, or the flag add that follows its rows (the number of rows), that waits in the replay queue: the
attempts made and the GTC of the next one; none has been made of a row that waits behind one on its page (R186, R277). -/
structure RowWait where
  row : Nat
  attempts : Nat
  due : Nat
  /-- what the row writes of an object: elements and bytes (R370) -/
  writes : List (ElemRef × Nat)
  deriving DecidableEq, Repr

/-- A byte that a context has stored while commands of it were unfinished: the member, by its team and rank, the issue order of
the member's next command and its epoch at the store, the place, and the byte that stood there, which the commands issued
before still read unless a token orders them behind the store (R304).  A later write of the place by another agent, or by an
engine, ends it (R299, R300). -/
structure Hidden where
  team : Option Nat
  rank : Nat
  before : Nat
  epoch : Nat
  place : Nat
  old : Byte
  deriving DecidableEq, Repr

/-- A queued engine command: a captured template (R43) and what the engine has done of it. -/
structure Cmd where
  bits : TemplateBits
  /-- serial number in its queue, modulo 512 (R382) -/
  ser : Nat
  /-- issue order over the context's five queues (R194) -/
  order : Nat
  /-- the issuer's clock at EMIT (R317) -/
  clock : Clock
  phase : CmdPhase
  /-- rows landed (R276) -/
  row : Nat
  /-- its start checks have been made in the shadow slot (R262) -/
  checked : Bool
  /-- bytes credited to the barrier so far, row by row (R276, R344 CRED) -/
  credited : Nat
  /-- bytes to credit at completion (R223, R271, R287) -/
  bytes : Nat
  /-- flags raised (R223) -/
  flags : BitVec 5
  /-- rows answered receiver-not-ready, in the order of the rows -/
  waits : List RowWait
  /-- the neighbours' FIFOs that its completion has pushed to so far (R41) -/
  pushed : List Fifo
  /-- indices of CGATH and CSCAT, read before the first row (R279) -/
  idx : List IWord
  /-- cores that a CPYM writes, fixed at its start (R282) -/
  cores : List CoreId
  /-- the conversion it waits for: object index, axis and number (R277, R289) -/
  conv : List (Nat × Fin 4 × IWord)
  /-- number of the request it waits for (R287), of a CRED among those that its member has issued on the group (R281), or of its posting as a receive (R288); of multicast fetches outstanding (R263) -/
  link : Nat
  /-- bytes delivered so far, by place, by a multicast fetch (R263) -/
  placed : List Host.Cell
  /-- packets acknowledged, and retransmissions of each packet (R430) -/
  acked : List Nat
  tries : List (Nat × Nat)
  /-- GTC at which the retransmission timeout of each packet ends (R430) -/
  dues : List (Nat × Nat)
  /-- the message that a receive has taken (R288) -/
  msg : Option HeldMsg
  deriving DecidableEq, Repr

/-- A fault of an engine command that no reporting point has reported yet (R194, R383). -/
structure EngFault where
  queue : Queue
  order : Nat
  f1 : BitVec 16
  cause : Byte
  sub : Byte
  val : Word
  deriving DecidableEq, Repr

/-- A fault that the far side reported for a posted PST (R187). -/
structure Deferred where
  cause : Byte
  sub : Byte
  addr : Word
  order : Nat
  deriving DecidableEq, Repr

/-- A request at a line's home slice (R176): who asks, the address, its physical line number, and, once a lease is granted,
the cycle at which its counter runs out.  An access that queues behind a lease is no request for one; `req` is the number
of a PST, PLD or PATOM that queues at its home, or of a request of another package. -/
structure LineReq where
  who : Who
  line : Word
  phys : Nat
  stop : Option Nat
  access : Bool
  req : Option Nat
  /-- a request of another package, numbered by `req`, and no context's -/
  inbound : Bool
  /-- an access of an engine: the issue order of the command of `who` that makes it -/
  cmd : Option Nat := none
  deriving DecidableEq, Repr

/-- A change of bank roles that waits for the commands that reference a changing bank (R33): the roles asked for, the
banks that change, for each context of the core the issue order of its next command when the wait began, and the team of
the context that asked. -/
structure RoleChange where
  roles : Word
  banks : List Nat
  orders : List Nat
  team : Option Nat
  deriving DecidableEq, Repr

/-- Why a context does not issue although it is not FREE or HALTED. -/
inductive Blocked
  /-- an instruction that has issued and stalls, ACTIVE: it is tried again when the context is next chosen -/
  | stall
  /-- an instruction that has issued and waits, ACTIVE, for its context's remote stores and replay queue (R172) -/
  | drain
  /-- a wait instruction, which WAIT_COMPLETION executes whole once its condition holds (R193) -/
  | wait (i : Instr)
  /-- LLEASE queued at the line's home slice (R176) -/
  | lineLease
  /-- a group barrier whose last member has arrived: the join of all members' clocks at that moment (R200, R318) -/
  | released (i : Instr) (clock : Clock)
  /-- PLD, PATOM, LSACQ or LSREL waiting for its answer (R385) -/
  | remote (req : Nat)
  /-- a PLD whose conversions are in flight: object, axis and number of each (R181) -/
  | conversion (i : Instr) (on : List (Nat × Fin 4 × IWord))
  /-- an MTC to BANKROLE waiting for the commands that reference a changing bank (R33) -/
  | bankrole (change : RoleChange)
  /-- arrived at the safe-point gather by SAFEPT n (R219) -/
  | gather (n : Nat)
  /-- a rank outside the current Pleat window, or a position that has published, stopped or been killed (R209, R211) -/
  | window
  deriving DecidableEq, Repr

/-- The progress counter of R391: cycles counted, and the cycle since which it runs (none while it holds still). -/
structure Progress where
  acc : Nat
  since : Option Nat
  deriving DecidableEq, Repr

/-- What a debug step still has to do (R399): issue its instruction, or see it complete. -/
inductive StepMark | none | armed | issued
  deriving DecidableEq, Repr

/-- The private state of a context (R10). -/
structure Ctx where
  run : RunState
  mode : Mode
  pc : Word
  s : Vector Word 64
  allot : BitVec 7
  h : Vector HandleWord 32
  fpc : Word
  fps : Word
  teamid : Word
  groups : Word
  slot : Fin 16
  bankown : IWord
  barown : Word
  leasemax : Word
  bkoff : Word
  bklim : Word
  hangt : Word
  pend : Bool
  budget : Nat
  /-- instructions issued after SAFETO was raised, none before (R394) -/
  past : Option Nat
  pleatst : Word
  trapcause : Word
  trappc : Word
  trapval : Word
  traphnd : Word
  /-- queues LDQ, MXQ, VXQ, STQ, NXQ, head first (R39) -/
  queues : Vector (List Cmd) 5
  /-- serial number of the next command of each queue (R382) -/
  sers : Vector Nat 5
  /-- issue order of the next command (R194) -/
  order : Nat
  /-- unreported engine faults (R383) -/
  faults : List EngFault
  /-- tokens of LM, ML, MV, VM, VS, SV, oldest first, each with its clock (R40, R317) -/
  tok : Vector (List Clock) 6
  /-- build registers: template index and contents, or empty (R43) -/
  build : Vector (Option (BitVec 6 × TemplateBits)) 5
  blocked : Option Blocked
  /-- words fetched ahead: a physical line and its bytes (R100) -/
  ahead : Option (Nat × List Byte)
  expired : Bool
  /-- number of GBARs executed of each group (R200) -/
  gbars : List (Byte × Nat)
  /-- number of CREDs issued on each group (R281) -/
  creds : List (Byte × Nat)
  /-- number of multicast fetches made for each group (R263) -/
  mcasts : List (Byte × Nat)
  clock : Clock
  /-- deferred PST faults in program order (R187) -/
  deferred : List Deferred
  /-- LAUNCHes outstanding (R217) -/
  launches : Nat
  progress : Progress
  /-- issue counters of R337 -/
  wait : Nat
  since : Nat
  /-- launch and team of the member it runs, and its rank (R50) -/
  team : Option Nat
  rank : Nat
  /-- ended, while its started commands still run (R378) -/
  ended : Bool
  step : StepMark
  deriving DecidableEq, Repr

/-! ## Cores -/

/-- An L1 copy of a line of a software-managed page (R303, R360): its physical line number, whether it is dirty,
and its 128 bytes.  A line of a coherent page needs no copy, since its value is the memory's (R351). -/
structure L1Line where
  line : Nat
  dirty : Bool
  bytes : List Byte
  deriving DecidableEq, Repr

/-- Debug block of a core (R398). -/
structure DebugBlock where
  hreq : BitVec 4
  brkarm : Bool
  reason : Byte
  dbpa : Vector Word 4
  dsel : Word
  ddata : Word
  derr : Word
  /-- role changes by DDATA that wait, with their contexts, in order (R33, R400) -/
  roles : List (CtxNo × RoleChange)
  deriving DecidableEq, Repr

/-- A multicast fetch at its source core (R263): the ranks that have joined it, the cycle of the first request, and
whether its time has run out, after which requests of its serial number are ordinary reads. -/
structure Mcast where
  team : Nat
  group : Byte
  serial : Nat
  joined : List Nat
  since : Nat
  late : Bool
  deriving DecidableEq, Repr

/-- One core (R10). -/
structure Core where
  ctx : Vector Ctx 4
  /-- scratch, by address in the local window; an unlisted byte is zero (R33) -/
  scratch : List Host.Cell
  bankrole : Word
  dirtylim : Word
  bar : Vector Barrier 64
  /-- planes of COPY, MATRIX, VECTOR, NET (R42, R114) -/
  planes : Vector PlanePair 4
  /-- L1 copies of lines of software-managed pages (R349, R360) -/
  l1 : List L1Line
  /-- instruction cache: physical lines and their bytes as they were fetched (R100, R349) -/
  icache : List (Nat × List Byte)
  lastIssuer : CtxNo
  /-- the launch whose template set the command processor installed last (R340) -/
  tmplSet : Option Nat
  /-- the planes that the command processor installed last (R340) -/
  installed : Vector Plane 4
  withdrawn : Bool
  /-- where each engine's rotation stands: the place of the queue last served (R222, R253) -/
  served : Vector Nat 4
  /-- the command in the matrix engine's shadow slot: its context and issue order (R262) -/
  shadow : Option (CtxNo × Nat)
  dbg : DebugBlock
  mcast : List Mcast
  deriving DecidableEq, Repr

/-- Tile-table entry (R317), of one team's accesses (R314). -/
structure Tile where
  team : Nat
  obj : Nat
  num : Nat
  wvalid : Bool
  wrank : Nat
  wepoch : IWord
  rd : Clock
  deriving DecidableEq, Repr

/-- One die: its tile table, and the entries it has set aside: launch, object and number of tiles (R316).  An entry
that is not listed is not valid and holds no read. -/
structure Die where
  tiles : List Tile
  alloc : List (Nat × Nat × Nat)
  deriving DecidableEq, Repr

/-! ## Launches and teams -/

/-- Kernel descriptor (R129). -/
structure Desc where
  addr : Word
  entry : Word
  handler : Word
  allot : Nat
  team : Nat
  depth : Nat
  bankreq : IWord
  bankroles : Word
  barreq : Word
  ext : List Nat
  liveoff : Nat
  livecnt : Nat
  deriving DecidableEq, Repr

/-- LIVE entry (R130). -/
structure Live where
  scalars : Word
  handles : IWord
  bars : Word
  deriving DecidableEq, Repr

/-- TMPL entry (R130). -/
structure TmplEntry where
  engine : Engine
  index : BitVec 6
  bits : TemplateBits
  deriving DecidableEq, Repr

/-- The package's copy of a valid object table entry (R364) with its per-package state (R367). -/
structure Obj where
  kind : BitVec 2
  fenced : Bool
  detect : Bool
  rd : Bool
  wr : Bool
  usc : Bool
  wc : BitVec 2
  fmt : Byte
  ndim : Nat
  /-- current placement per axis (R367) -/
  place : BitVec 16
  msize : IWord
  midx : IWord
  base : Word
  size : Word
  scale : Word
  poolid : Word
  node : BitVec 11
  captag : Word
  dims : Word
  strides : BitVec 96
  tiles : Word
  domain : Word
  /-- stations of the members of each axis (R422) -/
  mesh : Vector (List (BitVec 10)) 4
  /-- conversions in flight and sealed, per axis (R179, R182) -/
  flight : BitVec 4
  sealed : BitVec 4
  /-- number of the last conversion begun (R182) -/
  begun : IWord
  /-- last conversion: status, NaN-seen, axis, number (R182 CONV) -/
  status : BitVec 4
  nan : Bool
  axis : Fin 4
  num : IWord
  missing : Word
  codebooks : Vector (Option (Vector (BitVec 16) 16)) 4
  deriving DecidableEq, Repr

/-- What a launch that LAUNCH credits does at completion: the issuing team and rank, and the barrier (R217). -/
structure Credit where
  team : Nat
  rank : Nat
  bar : Option (BitVec 6)
  deriving DecidableEq, Repr

/-- Where a launch stands (R330, R348). -/
inductive LaunchPhase | pending | running | done
  deriving DecidableEq, Repr

/-- A launch (R326). -/
structure Launch where
  id : Nat
  slot : Fin 16
  seq : Word
  /-- a ring launch, or a device-side launch -/
  ring : Bool
  offset : IWord
  cmpla : Option Word
  desc : Desc
  ext : List Nat
  objs : List (Option Obj)
  groups : List (Byte × Word)
  live : List Live
  tmpls : List TmplEntry
  args : Word
  req : Word
  step : IWord
  deps : List Word
  phase : LaunchPhase
  /-- order in which it became ready, and the GTC then (R331) -/
  readyAt : Nat
  readyGtc : Nat
  /-- teams cut so far, and in all (R334) -/
  cut : Nat
  total : Nat
  /-- the die that the launch's walker used last (R335) -/
  lastDie : Fin 8
  /-- largest status that a member gave by EXIT (R220) -/
  status : Nat
  memberErr : Bool
  credit : Option Credit
  deriving DecidableEq, Repr

/-- Where a team member stands. -/
inductive MemberPlace
  | nowhere
  | at (who : Who)
  | exited
  | ended
  deriving DecidableEq, Repr

/-- A position of a Pleat window (R211). -/
inductive PosState | idle | running | published | stopped | killed
  deriving DecidableEq, Repr

/-- One position: its carries, store buffer and reads (R210 to R212). -/
structure Position where
  state : PosState
  input : Vector Word 8
  output : Vector Word 8
  /-- buffered bytes by place, newest first -/
  buf : List Host.Cell
  /-- 32-byte granules that one buffered write has covered whole, which its commit heals (R357) -/
  whole : List Nat
  /-- places of the bytes read -/
  reads : List Nat
  /-- position 0 after its buffer overflowed: stores are performed directly -/
  direct : Bool
  rejected : Bool
  /-- accesses to check at commit, in program order: launch object, tile, whether a write (R321) -/
  checks : List (Nat × Nat × Bool)
  /-- issue order of the first command of its iteration (R194, R214) -/
  order : Nat
  /-- address after the PLEND that published it -/
  after : Word
  deriving DecidableEq, Repr

/-- The guess routine running on rank 0 (R210): the guess under way, and the scalar file to restore at PGRET. -/
structure Guessing where
  j : Nat
  s : Vector Word 64
  deriving DecidableEq, Repr

/-- A Pleat region (R209). -/
structure Region where
  guess : Word
  left : Word
  width : Nat
  head : Word
  /-- rank 0's clock at the window's start (R321) -/
  clock : Clock
  /-- every member has arrived -/
  begun : Bool
  pos : List Position
  guessing : Option Guessing
  deriving DecidableEq, Repr

/-- Seam room of a team from its pre-emption request on: where it is and how large (R342), and, once the team is
swapped, the contexts that its ranks left, for what the seam record does not hold: unreported engine faults (R397),
clocks, counts of group operations, and LAUNCHes outstanding. -/
structure Seam where
  addr : Nat
  size : Nat
  ctxs : List (Nat × Ctx)
  deriving DecidableEq, Repr

/-- Where a team stands (R331, R342, R395): placed, quiescing from its gather on, stopped once its copies are cut and
stopped, swapped, or done. -/
inductive TeamPhase | placed | quiescing | stopped | swapped | done
  deriving DecidableEq, Repr

/-- A team (R334). -/
structure Team where
  id : Nat
  launch : Nat
  num : Nat
  phase : TeamPhase
  members : List MemberPlace
  /-- core groups: the ranks that share a core, in order (R335) -/
  coreGroups : List (List Nat)
  die : Fin 8
  /-- GTC at which it began to wait, the order in which it did, and the GTC at which its quantum began (R331, R342) -/
  waitFrom : Nat
  waitSeq : Nat
  quantumFrom : Nat
  /-- length of its quantum in nanoseconds, and the class that it was placed with: a later write of QUANT or CLASS does not
  change them (R324) -/
  quantum : Nat
  cls : Nat
  /-- core groups and saved banks as placed (R342) -/
  groups : Nat
  banks : Nat
  gatherAt : Nat
  carries : Vector Word 8
  /-- final clocks of members that have left (R318) -/
  finals : List (Nat × Clock)
  region : Option Region
  seam : Option Seam
  /-- barrier arrivals held while the team is swapped: rank and barrier (R217) -/
  held : List (Nat × BitVec 6)
  /-- CREDs that faulted at their start checks: group, join number and group rank (R281) -/
  credFaults : List (Byte × Nat × Nat)
  deriving DecidableEq, Repr

/-! ## Package -/

/-- Registers of a model slot (R323) and what the command processor keeps for it. -/
structure Slot where
  lrbase : Word
  lrsize : Word
  lrpi : Word
  lrci : Word
  crbase : Word
  crsize : Word
  crpi : Word
  crci : Word
  scfg : Word
  seambase : Word
  seamsize : Word
  mslot : Word
  troot : Word
  /-- last SEQ accepted, and the accepted ones with their outcome: none while running (R330) -/
  lastSeq : Option Word
  seqs : List (Word × Option Byte)
  /-- completion entries held for want of room, oldest first: the 32 bytes (R329) -/
  heldEntries : List (List Byte)
  /-- schedule table: (REQ, STEP) with its entries of POOLID, FIRST, NPAGE (R333) -/
  sched : List ((Word × IWord) × List (Word × Nat × Nat))
  deriving DecidableEq, Repr

/-- A write that a FILLING page applies after its fill data: bytes at an offset, or a flag add (R370). -/
inductive PageWrite
  | bytes (off : Nat) (data : List Byte)
  | add (off : Nat) (v : Word)
  deriving DecidableEq, Repr

/-- State of a pool cache page (R368); INVALID pages are not listed. -/
inductive PageState
  | filling (pending : List PageWrite)
  | valid
  | ahead (version : Word)
  | fetching
  deriving DecidableEq, Repr

/-- The fetch of a page of the pool cache: its number among the package's requests, the pool node and the capability tag that its
requests carry (R364, R404), the station that they were sent on, and whether they have been sent (R405, R412); for one that only
the placement engine waits for, the attempts answered receiver-not-ready and the GTC of the next (R186, R423). -/
structure Fetch where
  id : Nat
  node : BitVec 11
  captag : Word
  station : Option (Fin 64)
  sent : Bool
  attempts : Nat := 0
  due : Option Nat := none
  deriving DecidableEq, Repr

/-- A page of the pool cache: object, page number, state, the bytes of the copy that are not zero, and the fetch that is under
way. -/
structure CachePage where
  poolid : Word
  page : Nat
  state : PageState
  data : List Host.Cell
  fetch : Option Fetch
  deriving DecidableEq, Repr

/-- What the package holds of a leased object (R191, R367). -/
structure Hold where
  key : ObjKey
  count : Nat
  stop : Word
  token : Word
  deriving DecidableEq, Repr

/-- Lease table entry of this package as holding package (R474). -/
structure LeaseEntry where
  base : Word
  stop : Word
  token : Word
  holder : Option (BitVec 11)
  deriving DecidableEq, Repr

/-- A part of a row's object side that lies in one page: its address and length, and its bytes where the package holds a copy
(R369); the others are asked for. -/
structure RowPart where
  addr : Nat
  len : Nat
  copy : Option (List Byte)
  deriving DecidableEq, Repr

/-- What a remote request asks for (R185, R190 to R192, R277, R278, R423, R424). -/
inductive ReqKind
  | pst (data : List Byte) (flag : ElemRef)
  | pld (d : SReg) (size : Nat)
  | patom (d : SReg) (op : AtomOp) (wide : Bool) (x e : Word)
  /-- with the lease term that it asks, in µs (R191) -/
  | lsacq (d : SReg) (term : Word)
  | lsrel
  | slotAlloc
  | slotContrib
  /-- a row of a copy command that reads an object: the parts of its payload and of its scale words (R277) -/
  | rowRead (data scale : List RowPart)
  /-- a row that writes an object, with the address of its scale words and the words (R278) -/
  | rowWrite (data : List Byte) (scale : Nat × List Byte)
  /-- a flag add of a copy command (R278, R283) -/
  | rowFlag (v : Word)
  /-- CATOM (R283) -/
  | rowAtom (op : AtomOp) (wide : Bool) (x e : Word)
  /-- bytes of a pool piece that the placement engine reads or writes (R423) -/
  | pieceRead (n : Nat)
  | pieceWrite (data : List Byte)
  /-- elements from `first` on that go to another member of a conversion (R424) -/
  | chunk (first : Nat) (data : List Byte)
  /-- a chunk that goes to a slot: its name, the contributor index, the first element, and the bytes (R420, R424) -/
  | slotChunk (name : Word) (index first : Nat) (data : List Byte)
  deriving DecidableEq, Repr

/-- A remote request of a context or of the placement engine, in flight or in a replay queue (R186, R385, R423). -/
structure Req where
  id : Nat
  who : Who
  /-- team of the member that made it -/
  team : Option Nat
  slot : Fin 16
  obj : Nat
  elem : Nat
  ref : ElemRef
  kind : ReqKind
  /-- station that R405 gave it, and whether it has been sent on it: not while the station retrains (R412), nor while an
  earlier request to the same page is unanswered on another station (R405) -/
  station : Option (Fin 64)
  sent : Bool
  /-- it waits for the fill of its pool cache page instead (R369) -/
  fill : Bool
  bkoff : Nat
  bklim : Nat
  attempts : Nat
  /-- GTC of the next resend while it waits in the replay queue; none while it is in flight -/
  due : Option Nat
  /-- address of the instruction -/
  pc : Word
  /-- issue order of the context's next command, and its epoch, as it made the request (R304) -/
  before : Nat := 0
  epoch : Nat := 0
  /-- a request of a copy command: its queue, its issue order, and the row (R277, R278) -/
  cmd : Option (Queue × Nat × Nat) := none
  /-- a request of the placement engine, for a conversion: no context's (R423, R424) -/
  conv : Option ConvKey := none
  deriving DecidableEq, Repr

/-- A CBLD that stalls: the object whose codebook it loads, and the commands that were issued before it and read the object
(R184). -/
structure CodebookLoad where
  who : Who
  launch : Nat
  obj : Nat
  before : List (Who × Nat)
  deriving DecidableEq, Repr

/-- What an ALLOC asks for; `dest` is the only contributor that gets the result, if it is not all of them (R287, R420). -/
structure SlotWants where
  nidx : Nat
  rop : Nat
  fmt : Nat
  len : Nat
  tmo : Nat
  dest : Option Nat
  deriving DecidableEq, Repr

/-- A slot that the home of a conversion asks a switch for (R424, R425): the request, its plane, the name once it is granted, and
as of R186 the attempts made and the GTC of the next one. -/
structure SlotAsk where
  id : Nat
  plane : Fin 64
  name : Option Word
  attempts : Nat
  due : Option Nat
  /-- what it asks for: contributors, operation, format, length, time and destination (R420) -/
  what : SlotWants
  deriving DecidableEq, Repr

/-- A conversion at its home (R424). -/
structure Home where
  key : ConvKey
  target : Option (BitVec 4)
  /-- members that have sealed -/
  sealed : Word
  started : Bool
  /-- members that do not contribute (R426), and the home itself once a chunk's failure is charged to it (R425) -/
  missing : Word
  /-- GTC at which it started, or the first slot was granted (R420, R425) -/
  since : Nat
  /-- the slots of a reduction, one for each chunk in order -/
  asks : List SlotAsk
  deriving DecidableEq, Repr

/-- A conversion at this member, from its seal or its START on (R424, R425). -/
structure Conv where
  key : ConvKey
  launch : Nat
  obj : Nat
  sealed : Bool
  /-- target and method, once START has come -/
  start : Option (BitVec 4 × ConvMethod)
  /-- the contribution has been sent -/
  sent : Bool
  /-- staged elements by number, and scale words by 2^60 plus their block, with their bits -/
  staged : List (Nat × Nat)
  /-- bytes of the pool piece that have been read over the fabric, by offset (R423) -/
  got : List (Nat × List Byte) := []
  /-- a result has come with NaN-seen (R420) -/
  nan : Bool := false
  /-- DONE has come, with its NaN-seen: the staged elements are on their way to the pool piece (R425) -/
  ending : Option Bool := none
  deriving DecidableEq, Repr

/-- A message of the fabric that this package has sent and no event has consumed yet (R404, R424). -/
inductive Msg
  | seal (key : ConvKey) (home : BitVec 10) (target : Option (BitVec 4))
  | start (key : ConvKey) (dest : BitVec 10) (target : BitVec 4) (method : ConvMethod)
  | contrib (name : Word) (index : Nat) (data : List Byte)
  /-- a slot allocation: the request, its plane, and what it asks for (R287, R420) -/
  | alloc (req : Nat) (plane : Fin 64) (what : SlotWants)
  | convDone (key : ConvKey) (dest : BitVec 10) (nan : Bool)
  | convAbort (key : ConvKey) (dest : BitVec 10) (missing : Word)
  | noDomain (key : ConvKey) (dest : BitVec 10)
  /-- an answer to a request, with the station of R405 that carries it -/
  | reply (dest : BitVec 11) (via : Option (Fin 64)) (a : Answer)
  | readReply (dest : BitVec 11) (via : Option (Fin 64)) (data scale : List Byte)
  /-- a request of another package that is sent on, with its raised relay count (R414) -/
  | relay (dst : BitVec 11) (station : Fin 64) (count : Nat)
  /-- an answer to the source of a request for another station, with the station of R405 that carries it (R414, R416) -/
  | relayAnswer (src : BitVec 11) (station : Option (Fin 64)) (a : Answer)
  /-- the identity flit of a station (R409) -/
  | identity (station : Fin 64) (id : Identity)
  /-- a quote: digest of the running image, STNID, GTC and signature (R441) -/
  | quote (digest : BitVec 512) (stnid gtc : Word) (sig : List Byte)
  | sideReply (seq : Word) (results : List (Word × BitVec 2))
  /-- one packet of NSEND (a tag) or NWRITE (a key and a remote address) to a peer's endpoint, with the entropy value that it is
  sprayed over (R427, R430) -/
  | packet (who : Who) (order : Nat) (peer entropy : Nat) (key : Option IWord) (head : Word) (off : Nat) (data : List Byte)
  | netReply (ep : BitVec 8) (msg : Nat) (ok : Bool)
  deriving DecidableEq, Repr

/-- What a conversion message says (R424). -/
inductive ConvBody
  | seal (member : Fin 64) (target : Option (BitVec 4))
  | start (target : BitVec 4) (method : ConvMethod)
  | chunk (first : Nat) (data : List Byte)
  | done (nan : Bool)
  | abort (missing : Word)
  | unknown
  deriving DecidableEq, Repr

/-- A request of another package that waits in the queue of local requests (R401, R415). -/
inductive Inbound
  | conv (key : ConvKey) (src : BitVec 10) (body : ConvBody)
  | write (m : RemWrite)
  | read (m : RemRead)
  | atomic (m : RemAtomic)
  | lease (src : BitVec 11) (base term : Word)
  | release (src : BitVec 11) (base : Word)
  deriving DecidableEq, Repr

/-- A request that is relayed for another package, until it is answered: its number, source, page and onward station (R414,
R416). -/
structure RelayRec where
  id : Nat
  src : BitVec 11
  page : Nat
  station : Fin 64
  deriving DecidableEq, Repr

/-- State of a station (R407). -/
inductive StState | down | train | idcheck | up | quiescing | quiesced | keyexh
  deriving DecidableEq, Repr

/-- A station (R406, R407, R410, R413). -/
structure Station where
  en : Bool
  quiesce : Bool
  /-- STCTL.DIRECT as written, and as the last training took it (R407) -/
  direct : Bool
  lane : Bool
  best : Fin 3
  state : StState
  mode : Fin 3
  forced : Bool
  kidx : Bool
  pstn : BitVec 10
  pmem : Bool
  pidx : BitVec 6
  psw : Bool
  exppeer : Word
  keydata : BitVec 256
  txkey : Option (BitVec 256)
  rxkey : Option (BitVec 256)
  txnext : Option (BitVec 256)
  rxnext : Option (BitVec 256)
  txctr : BitVec 48
  keywait : Word
  qtmo : Word
  replayed : IWord
  retrains : IWord
  /-- it has been UP since it was last DOWN or QUIESCED (R405) -/
  wasUp : Bool
  /-- the peer's identity flit has matched since the last training (R409) -/
  matched : Bool
  nokeyLogged : Bool
  /-- the spare ring carries the traffic (R413) -/
  spareRing : Bool
  /-- GTC at which a quiesce or key exhaustion began (R411, R417) -/
  since : Nat
  deriving DecidableEq, Repr

/-- An endpoint (R428). -/
structure Endpoint where
  cfg : Word
  wbase : Word
  wsize : Word
  key : Word
  cnt : Word
  held : List HeldMsg
  /-- messages that have been taken whole, whose packets may come again, and writes of which packets have arrived (R430, R431) -/
  finished : List Nat
  writes : List HeldMsg
  /-- writes to a launch endpoint that are wholly placed beyond LRPI: byte index and length (R429) -/
  placed : List (Nat × Nat)
  deriving DecidableEq, Repr

/-- The Ethernet block (R428). -/
structure Ether where
  ectl : Word
  linkUp : Bool
  retransmitted : IWord
  rto : Word
  rtry : Word
  maca : Word
  addr6 : BitVec 128
  /-- endpoints 0 to 255 -/
  eps : Vector Endpoint 256
  /-- peer table entries that are not zero, as their 32 bytes (R428) -/
  peers : List (Nat × BitVec 256)
  deriving DecidableEq, Repr

/-- Event codes (R438). -/
inductive EventCode
  | memberend | hang | tmplfail | dfltlost | peermismatch | nokey | authfail | keylow | keyexh | throttle
  | thermtrip | dlfull | poisoned | xlatrefuse | gtclost | fwupdate | bootfail | corrected | cmplfail
  deriving DecidableEq, Repr

/-- A record of the event log (R437); `data` is what the event holds, whose layout in DATA is open (log 20). -/
structure EventRec where
  gtc : Word
  src : IWord
  code : EventCode
  data : List Word
  deriving DecidableEq, Repr

/-- The management side: power, clock, log, boot, side-band (R433 to R443). -/
structure Mgmt where
  pwrctl : Word
  /-- PWRCTL as of the last evaluation, whose limits hold until the next, and the GTC of that evaluation (R433) -/
  limits : Word
  evalAt : Nat
  k : Nat
  kchanges : IWord
  calm : Nat
  sync : Bool
  /-- GTC at which synchronisation was lost, while GTCERR grows (R434) -/
  lostAt : Option Nat
  bootStep : BitVec 4
  bootFail : Bool
  bank : Bool
  /-- the images of the two firmware banks, and whether an update has been verified in the inactive one since the last reset
  (R440) -/
  bank0 : List Host.Cell
  bank1 : List Host.Cell
  updated : Bool
  /-- the image that runs has not come to step 8: the ROM returns to the other bank at the next reset (R440) -/
  bankBack : Bool
  fwver : Word
  rollctr : Word
  /-- memory devices that have logged CORRECTED, with the GTC of the last time (R438) -/
  corrected : List (Nat × Nat)
  elog : List EventRec
  eloghead : Nat
  elogtail : Nat
  eloglost : Word
  /-- hang records, newest first, as their 64 bytes (R393) -/
  hangs : List (BitVec 512)
  pkghlt : Bool
  railsOn : Bool
  sideSeq : Word
  sideKey : BitVec 256
  tinvPending : List Word
  tinvDone : IWord
  tinvOvf : Bool
  pcsize : Word
  lguard : Word
  lterm : Word
  stnid : BitVec 10
  cvtmo : Word
  dlroute : Vector Word 64
  deriving DecidableEq, Repr

/-- What moves next: an issue cycle of a core, an event, a stalled instruction that is tried again, the queue of local
requests of the fabric, an error of a granule of storage that its code cannot correct, or firmware: it puts a withdrawn core back
into placement (R341), or maps a page of device memory anew (R360) (log 1). -/
inductive Move
  | issue (core : CoreId)
  | event (i : Instr)
  | retry (who : Who)
  | ingress
  | decay (granule : Nat)
  | enable (core : CoreId)
  | mapped (page : Nat)
  deriving DecidableEq, Repr

/-- One entry of the agenda: the time that passes before the move, in nanoseconds and core cycles (log 1). -/
structure Turn where
  ns : Nat
  cycles : Nat
  move : Move
  deriving DecidableEq, Repr

/-- A translation held in a TLB or as a cached walk: slot, 64 KiB page, its frame and rights (R389, R390). -/
structure Held where
  slot : Fin 16
  page : Nat
  pa : Nat
  r : Bool
  w : Bool
  x : Bool
  deriving DecidableEq, Repr

/-- The package. -/
structure State where
  cores : Vector Core 512
  dies : Vector Die 8
  /-- device memory by physical address (R355) -/
  mem : List Host.Cell
  /-- poisoned 32-byte granules of memory and scratch (R251, R357) -/
  poison : List Nat
  /-- granules whose bits an error has changed beyond correction, which no access has met and the scrubber has not found yet
  (R357, R380) -/
  worn : List Nat
  /-- what accesses that are not atomic have written, as ranges of places; of another package's device memory, what this package has
written there, by 2^64 × (node + 1) + address (R297) -/
  plain : List (Nat × Nat)
  /-- bytes that contexts have stored behind unfinished commands of theirs, oldest first (R304) -/
  hides : List Hidden
  /-- 64 KiB pages in software-managed mode (R360) -/
  swPages : List Nat
  /-- L2 directory: dirty lines with the core whose L1 holds them, in the order in which they were dirtied (R351, R166) -/
  dirty : List (Nat × CoreId)
  /-- line leases held and requested, in the order of arrival (R176) -/
  lineq : List LineReq
  /-- translations held (R390) -/
  tlb : List Held
  /-- fused clusters (R353) -/
  fused : BitVec 64
  gtc : Word
  slots : Vector Slot 16
  launches : List Launch
  teams : List Team
  nextId : Nat
  lastSlot : Fin 16
  cache : List CachePage
  /-- pages that the prefetch engine has yet to treat: slot, object and page (R373, R374) -/
  prefetch : List (Fin 16 × Word × Nat)
  holds : List Hold
  leases : List LeaseEntry
  reqs : List Req
  /-- CBLDs that stall (R184) -/
  loads : List CodebookLoad
  homes : List Home
  convs : List Conv
  stations : Vector Station 64
  ether : Ether
  mgmt : Mgmt
  /-- requests relayed for other packages and not answered yet (R414, R416) -/
  relays : List RelayRec
  /-- local requests of the fabric that wait, oldest first, with their numbers (R401, R415) -/
  inbox : List (Nat × Inbound)
  /-- messages sent to the outside, oldest first -/
  outbox : List Msg
  /-- model's own: what moves next (log 1) -/
  agenda : List Turn
  /-- model's own: the context whose instruction is being executed (log 1) -/
  who : Who
  /-- model's own: core cycles counted (log 6) -/
  cycle : Nat
  /-- model's own: free values taken so far (log 12) -/
  fresh : Nat
  deriving DecidableEq, Repr

/-- Why the machine stops with a fault.  Nothing stops it: every fault of the spec is a trap that is taken, and an access to an address
that does not exist is one of them (log 16). -/
inductive Fault
  deriving DecidableEq, Repr

/-- Why the model refuses a step. -/
inductive Refusal
  /-- Raised by an arm of exec whose instruction has no meaning yet.  Safe. -/
  | notModelled (mnemonic : String)
  deriving DecidableEq, Repr

/-! ## Reset -/

def Clock.zero : Clock := Vector.replicate 64 0

def Barrier.reset : Barrier :=
  { ph := false, err := false, done := false, expa := 0, arra := 0, expb := 0, arrb := 0, clock := Clock.zero }

def Template.empty : Template := { valid := false, bits := 0 }

/-- An empty plane.  Its CRC-32C is that of 64 × 129 zero bytes (R339), worked out in Machine/Template.lean. -/
def Plane.reset : Plane := { tmpl := Vector.replicate 64 Template.empty, crc := 0xB436A941 }

def PlanePair.reset : PlanePair := { active := Plane.reset, staging := Plane.reset, kept := none }

/-- A handle at reset: every field 0 but VIEW (R19). -/
def handleReset : HandleWord := 0xFFFF0000

/-- A context that holds no work (R12, R24). -/
def Ctx.reset : Ctx :=
  { run := .free, mode := .user, pc := 0, s := Vector.replicate 64 0, allot := 0
    h := Vector.replicate 32 handleReset, fpc := 8, fps := 0, teamid := 0, groups := 0, slot := 0
    bankown := 0, barown := 0, leasemax := 0x400, bkoff := 0xC8, bklim := 0x0C, hangt := 0x100000
    pend := false, budget := 0, past := none, pleatst := 0, trapcause := 0, trappc := 0, trapval := 0
    traphnd := 0, queues := Vector.replicate 5 [], sers := Vector.replicate 5 0, order := 0, faults := []
    tok := Vector.replicate 6 [], build := Vector.replicate 5 none, blocked := none, ahead := none
    expired := false, gbars := [], creds := [], mcasts := [], clock := Clock.zero, deferred := []
    launches := 0, progress := { acc := 0, since := none }, wait := 0, since := 0, team := none, rank := 0
    ended := false, step := .none }

def DebugBlock.reset : DebugBlock :=
  { hreq := 0, brkarm := false, reason := 0, dbpa := Vector.replicate 4 0, dsel := 0, ddata := 0, derr := 0, roles := [] }

def Core.reset : Core :=
  { ctx := Vector.replicate 4 Ctx.reset, scratch := [], bankrole := 0, dirtylim := 0x800
    bar := Vector.replicate 64 Barrier.reset, planes := Vector.replicate 4 PlanePair.reset, l1 := [], icache := []
    lastIssuer := 0, tmplSet := none, installed := Vector.replicate 4 Plane.reset, withdrawn := false, served := #v[7, 3, 3, 3], shadow := none, dbg := DebugBlock.reset, mcast := [] }

def Slot.reset : Slot :=
  { lrbase := 0, lrsize := 0, lrpi := 0, lrci := 0, crbase := 0, crsize := 0, crpi := 0, crci := 0
    scfg := 0x000007D008000000, seambase := 0, seamsize := 0, mslot := 0x0000000400000101, troot := 0
    lastSeq := none, seqs := [], heldEntries := [], sched := [] }

/-- A station at reset; EXPPEER has KIND 0 and IDX s (R406). -/
def Station.reset (i : Nat) : Station :=
  { en := false, quiesce := false, direct := false, lane := false, best := 0, state := .down, mode := 0, forced := false
    kidx := false, pstn := 0, pmem := false, pidx := 0, psw := false, exppeer := BitVec.ofNat 64 (i * 2048)
    keydata := 0, txkey := none, rxkey := none, txnext := none, rxnext := none, txctr := 0, keywait := 10000
    qtmo := 1000, replayed := 0, retrains := 0, wasUp := false, matched := false, nokeyLogged := false
    spareRing := false, since := 0 }

def Endpoint.reset : Endpoint :=
  { cfg := 0, wbase := 0, wsize := 0, key := 0, cnt := 0, held := [], finished := [], writes := [], placed := [] }

def Ether.reset : Ether :=
  { ectl := 0, linkUp := false, retransmitted := 0, rto := 20000, rtry := 8, maca := 0, addr6 := 0
    eps := Vector.replicate 256 Endpoint.reset, peers := [] }

def Mgmt.reset : Mgmt :=
  { pwrctl := 0x695F07D02710, limits := 0x695F07D02710, evalAt := 0, k := 16, kchanges := 0, calm := 0, sync := false, lostAt := none, bootStep := 0
    bootFail := false, bank := false, bank0 := [], bank1 := [], updated := false, bankBack := false, fwver := 0, rollctr := 0, corrected := [], elog := []
    eloghead := 0, elogtail := 0, eloglost := 0, hangs := [], pkghlt := false, railsOn := true, sideSeq := 0
    sideKey := 0, tinvPending := [], tinvDone := 0, tinvOvf := false, pcsize := 128, lguard := 2000
    lterm := 5000, stnid := 0, cvtmo := 20, dlroute := Vector.replicate 64 0 }

/-- The package right after reset. -/
def State.reset : State :=
  { cores := Vector.replicate 512 Core.reset, dies := Vector.replicate 8 { tiles := [], alloc := [] }, mem := [], poison := [], worn := [], plain := [], hides := []
    swPages := [], dirty := [], lineq := [], tlb := [], fused := 0, gtc := 0, slots := Vector.replicate 16 Slot.reset, launches := [], teams := []
    nextId := 0, lastSlot := 15, cache := [], prefetch := [], holds := [], leases := [], reqs := [], loads := [], homes := []
    convs := [], stations := Vector.ofFn fun i : Fin 64 => Station.reset i.val, ether := Ether.reset
    mgmt := Mgmt.reset, relays := [], inbox := [], outbox := [], agenda := [], who := { core := 0, ctx := 0 }, cycle := 0, fresh := 0 }

end Sys2Proof.Machine
end

