-- ==== Sys2Proof/Machine/Ops.lean ====
section
/-! DEFINITION. Named operations over memory, contexts, cores, launches and teams; taking a trap, returning from
one, and ending a team member (R376 to R378, R218). -/

namespace Sys2Proof

/-- Queue number (R39). -/
def Queue.num : Queue → Fin 5
  | .ldq => 0 | .mxq => 1 | .vxq => 2 | .stq => 3 | .nxq => 4

def CopyQueue.queue : CopyQueue → Queue
  | .ldq => .ldq | .stq => .stq

/-- Engine whose planes a queue uses (R105). -/
def Queue.engine : Queue → Engine
  | .ldq => .copy | .stq => .copy | .mxq => .matrix | .vxq => .vector | .nxq => .net

def Engine.num : Engine → Fin 4
  | .copy => 0 | .matrix => 1 | .vector => 2 | .net => 3

def Fifo.num : Fifo → Fin 6
  | .lm => 0 | .ml => 1 | .mv => 2 | .vm => 3 | .vs => 4 | .sv => 5

end Sys2Proof

namespace Sys2Proof.Machine

/-- What a step answers. -/
abbrev Out := Host.Outcome State Fault Refusal

/-! ## Bits and bytes -/

/-- Bit `k` of a word as a Bool. -/
def bitAt {n : Nat} (v : BitVec n) (k : Nat) : Bool := v.getLsbD k

/-- `n` bits of `v` from bit `lo`, as a number. -/
def bitsAt {w : Nat} (v : BitVec w) (lo n : Nat) : Nat := (v.extractLsb' lo n).toNat

/-- `v` with its `n` bits from bit `lo` replaced. -/
def putBits {w : Nat} (v : BitVec w) (lo n x : Nat) : BitVec w :=
  v &&& ~~~(BitVec.ofNat w ((2 ^ n - 1) * 2 ^ lo)) ||| BitVec.ofNat w (x % 2 ^ n * 2 ^ lo)

/-- sext of R8, to 64 bits. -/
def sext64 {n : Nat} (v : BitVec n) : Word := v.signExtend 64

/-- Little-endian number of a byte string (R4). -/
def leNat : List Byte → Nat
  | [] => 0
  | b :: bs => b.toNat + 256 * leNat bs

/-- The `n` little-endian bytes of a number (R4). -/
def leBytes (n v : Nat) : List Byte := (List.range n).map fun k => BitVec.ofNat 8 (v / 256 ^ k)

/-! ## Cells -/

/-- What a byte that nothing has written reads as (log 3 for device memory, R33 for scratch). -/
def unlisted : Byte := 0

/-- The byte at an address. -/
def cellGet : List Host.Cell → Nat → Byte
  | [], _ => unlisted
  | (k, v) :: t, a => if a == k then v else if a < k then unlisted else cellGet t a

/-- Writes one byte and keeps the canonical form. -/
def cellPut : List Host.Cell → Nat → Byte → List Host.Cell
  | [], a, v => if v == unlisted then [] else [(a, v)]
  | (k, w) :: t, a, v =>
    if a < k then (if v == unlisted then (k, w) :: t else (a, v) :: (k, w) :: t)
    else if a == k then (if v == unlisted then t else (k, v) :: t)
    else (k, w) :: cellPut t a v

/-- `n` bytes from an address. -/
def cellsRead (m : List Host.Cell) (a n : Nat) : List Byte := (List.range n).map fun k => cellGet m (a + k)

/-- Writes a byte string. -/
def cellsWrite (m : List Host.Cell) (a : Nat) : List Byte → List Host.Cell
  | [] => m
  | b :: bs => cellsWrite (cellPut m a b) (a + 1) bs

/-- Drops every entry of an address range, which then reads as nothing written. -/
def cellsDrop (m : List Host.Cell) (lo hi : Nat) : List Host.Cell := m.filter fun c => c.1 < lo || hi ≤ c.1

/-- Canonical form: addresses strictly rising, and no entry equal to what an unlisted address reads as. -/
def cellsWf : List Host.Cell → Bool
  | [] => true
  | [(_, v)] => v != unlisted
  | (k, v) :: (k', v') :: t => v != unlisted && k < k' && cellsWf ((k', v') :: t)

/-- Every memory of the state is in canonical form: device memory and each core's scratch. -/
def Memory.wf (s : State) : Bool := cellsWf s.mem && s.cores.toList.all fun c => cellsWf c.scratch

/-- Number of a counted item in a list of counts. -/
def countOf (l : List (Byte × Nat)) (g : Byte) : Nat := ((l.find? fun e => e.1 == g).map (·.2)).getD 0

def countUp (l : List (Byte × Nat)) (g : Byte) : List (Byte × Nat) :=
  (g, countOf l g + 1) :: l.filter fun e => e.1 != g

/-! ## Cores and contexts -/

def State.core (s : State) (c : CoreId) : Core := s.cores[c]

def State.setCore (s : State) (c : CoreId) (x : Core) : State := { s with cores := s.cores.set c x }

def State.modCore (s : State) (c : CoreId) (f : Core → Core) : State := s.setCore c (f (s.core c))

def State.ctxOf (s : State) (w : Who) : Ctx := (s.core w.core).ctx[w.ctx]

def State.setCtx (s : State) (w : Who) (x : Ctx) : State :=
  s.modCore w.core fun c => { c with ctx := c.ctx.set w.ctx x }

def State.modCtx (s : State) (w : Who) (f : Ctx → Ctx) : State := s.setCtx w (f (s.ctxOf w))

/-- The context whose instruction is being executed. -/
def State.me (s : State) : Ctx := s.ctxOf s.who

/-- Every context of the package. -/
def allWho : List Who := (List.finRange 512).flatMap fun c => (List.finRange 4).map fun k => { core := c, ctx := k }

/-- Die of a core (R3). -/
def dieOf (c : CoreId) : Fin 8 := ⟨c.val / 64, by omega⟩

/-- Member of a core within its cluster (R3). -/
def memberOf (c : CoreId) : Nat := c.val % 8

/-- Core that is member `k` of the cluster of `c` (R3, R164). -/
def clusterMate (c : CoreId) (k : Nat) : CoreId := ⟨c.val / 8 * 8 + k % 8, by omega⟩

/-- Cores of a die, in ascending number. -/
def coresOfDie (d : Fin 8) : List CoreId := (List.finRange 64).map fun k => ⟨d.val * 64 + k.val, by omega⟩

/-- CTXID (R31). -/
def State.ctxid (s : State) (w : Who) : Word :=
  BitVec.ofNat 64 (w.ctx.val + 4 * (w.core.val % 8) + 32 * (w.core.val / 8 % 8) + 256 * (w.core.val / 64)
    + 65536 * s.mgmt.stnid.toNat)

/-! ## Places

A *place* is one byte of storage as a number: a device physical address below 2^48, or 2^48 + 2^21 × core + offset
for a byte of a core's scratch. -/

/-- Place of a scratch byte. -/
def scratchPlace (c : CoreId) (off : Nat) : Nat := 2 ^ 48 + 2 ^ 21 * c.val + off

/-- Core and offset of a place in scratch. -/
def placeCore (p : Nat) : CoreId := ⟨(p - 2 ^ 48) / 2 ^ 21 % 512, by omega⟩
def placeOff (p : Nat) : Nat := (p - 2 ^ 48) % 2 ^ 21

/-- Whether a place lies in device memory. -/
def isDev (p : Nat) : Bool := p < 2 ^ 48

/-- What the storage itself holds from a place: `n` bytes that do not cross a window's end. -/
def State.rawRead (s : State) (p n : Nat) : List Byte :=
  if isDev p then cellsRead s.mem p n else cellsRead (s.core (placeCore p)).scratch (placeOff p) n

/-- Granules of 32 bytes that a range covers whole (R357). -/
def coversGranule (p n g : Nat) : Bool := p ≤ 32 * g && 32 * g + 32 ≤ p + n

/-- Poison leaves the granules that a test picks (R357). -/
def State.heal (s : State) (whole : Nat → Bool) : State :=
  { s with poison := s.poison.filter fun g => !whole g, worn := s.worn.filter fun g => !whole g }

/-- A member's own earlier store (R304). -/
def Hidden.isOf (h : Hidden) (x : Ctx) : Bool := h.team == x.team && h.rank == x.rank

/-- A write of a range ends what commands still read there of the bytes before earlier stores, but for those of the
contexts that a test keeps (R299, R300, R304). -/
def State.unhide (s : State) (p n : Nat) (keep : Hidden → Bool) : State :=
  if s.hides.isEmpty then s else { s with hides := s.hides.filter fun h => keep h || !(p ≤ h.place && h.place < p + n) }

/-- Puts bytes into the storage itself; a write that covers a poisoned granule whole heals it (R357). -/
def State.rawPut (s : State) (p : Nat) (bs : List Byte) : State :=
  let s1 := s.heal (coversGranule p bs.length)
  if isDev p then { s1 with mem := cellsWrite s.mem p bs }
  else s1.modCore (placeCore p) fun c => { c with scratch := cellsWrite c.scratch (placeOff p) bs }

/-- A range has been written by an access that is not atomic (R297). -/
def State.markPlain (s : State) (p n : Nat) : State :=
  if s.plain.any fun r => r.1 ≤ p && p + n ≤ r.1 + r.2 then s
  else match s.plain with
    | (a, l) :: rest => if a + l == p then { s with plain := (a, l + n) :: rest } else { s with plain := (p, n) :: s.plain }
    | [] => { s with plain := [(p, n)] }

/-- A write of the storage itself that is no atomic one. -/
def State.rawWrite (s : State) (p : Nat) (bs : List Byte) : State :=
  ((s.rawPut p bs).markPlain p bs.length).unhide p bs.length fun _ => false

/-! ## Launches and teams -/

def State.launchAt (s : State) (id : Nat) : Option Launch := s.launches.find? fun l => l.id == id

def State.modLaunch (s : State) (id : Nat) (f : Launch → Launch) : State :=
  { s with launches := s.launches.map fun l => if l.id == id then f l else l }

def State.teamAt (s : State) (id : Nat) : Option Team := s.teams.find? fun t => t.id == id

def State.modTeam (s : State) (id : Nat) (f : Team → Team) : State :=
  { s with teams := s.teams.map fun t => if t.id == id then f t else t }

/-- Team of a context, if it runs a member (R50). -/
def State.teamOf (s : State) (x : Ctx) : Option Team := x.team.bind s.teamAt

/-- Launch of a context. -/
def State.launchOf (s : State) (x : Ctx) : Option Launch := (s.teamOf x).bind fun t => s.launchAt t.launch

/-- Object table entry `n` of a launch (R364). -/
def Launch.obj (l : Launch) (n : Nat) : Option Obj := (l.objs[n]?).join

/-- Valid object table entry of a context's launch (R22). -/
def State.objOf (s : State) (x : Ctx) (n : Nat) : Option Obj := (s.launchOf x).bind fun l => l.obj n

def State.modObj (s : State) (launch n : Nat) (f : Obj → Obj) : State :=
  s.modLaunch launch fun l => { l with objs := l.objs.modify n (Option.map f) }

/-- Mask of a group of the context's launch (R46); an entry that is not declared is empty. -/
def State.groupMask (s : State) (x : Ctx) (g : Byte) : Word :=
  match s.launchOf x with
  | some l => ((l.groups.find? fun e => e.1 == g).map (·.2)).getD 0
  | none => 0

/-- Number of one bits. -/
def popcount {n : Nat} (v : BitVec n) : Nat := ((List.range n).filter fun k => v.getLsbD k).length

/-- Where a rank of a team is (R335). -/
def Team.whoOf (t : Team) (r : Nat) : Option Who :=
  match t.members[r]? with
  | some (.at w) => some w
  | _ => none

/-- Contexts that hold members of the team, in rank order. -/
def Team.placedWho (t : Team) : List Who := t.members.filterMap fun m => match m with | .at w => some w | _ => none

/-- A member that has exited or ended counts as arrived from then on (R200, R348). -/
def Team.hasLeft (t : Team) (r : Nat) : Bool :=
  match t.members[r]? with
  | some .exited => true
  | some .ended => true
  | _ => false

def Team.setMember (t : Team) (r : Nat) (m : MemberPlace) : Team := { t with members := t.members.set r m }

/-! ## Pleat positions -/

/-- Team and position of a context that runs a position of a Pleat window (R209). -/
def State.positionOf (s : State) (x : Ctx) : Option (Team × Region × Position) :=
  match s.teamOf x with
  | some t =>
    match t.region with
    | some r =>
      match r.pos[x.rank]? with
      | some p => if p.state == .running then some (t, r, p) else none
      | none => none
    | none => none
  | none => none

/-- Rank 0 runs the guess routine (R210). -/
def State.guessingOf (s : State) (x : Ctx) : Option (Team × Region × Guessing) :=
  match s.teamOf x with
  | some t =>
    match t.region with
    | some r => if x.rank == 0 then r.guessing.map fun g => (t, r, g) else none
    | none => none
  | none => none

def Region.modPos (r : Region) (p : Nat) (f : Position → Position) : Region := { r with pos := r.pos.modify p f }

def State.modRegion (s : State) (team : Nat) (f : Region → Region) : State :=
  s.modTeam team fun t => { t with region := t.region.map f }

/-- Unstarted commands of a queue are dropped; those that have started stay (R211, R378). -/
def dropUnstarted (x : Ctx) : Ctx :=
  { x with queues := x.queues.map fun q => q.filter fun c => c.phase != .queued }

/-- The run state that a context takes, unless a debug halt keeps it (R399). -/
def Ctx.runAs (x : Ctx) (r : RunState) : RunState := if x.run == .halted then .halted else r

/-- What becomes of the rank of a position that is killed or stops: it issues nothing more, its unstarted commands are dropped,
and faults of its iteration are never reported (R211, R214). -/
def endPosition (q : Position) (x : Ctx) : Ctx :=
  { dropUnstarted x with faults := x.faults.filter fun f => f.order < q.order, blocked := some .window, run := x.runAs .waiting }

/-- The position of a context has been stopped or killed: its writes to device memory are discarded, and the faults of its
commands are never reported (R211, R212, R214). -/
def State.deadPosition (s : State) (x : Ctx) : Option Position :=
  ((s.teamOf x).bind (·.region)).bind fun r => (r.pos[x.rank]?).filter fun p => p.state == .stopped || p.state == .killed

/-- Marks every position from `p` on as rejected and kills it; a killed position issues nothing more (R211). -/
def State.rejectFrom (s : State) (team p : Nat) : State :=
  match s.teamAt team with
  | some t =>
    match t.region with
    | some r =>
      let hit := (List.range r.pos.length).filter fun k => p ≤ k
      let s1 := s.modRegion team fun r => { r with pos := r.pos.mapIdx fun k q =>
        if p ≤ k then { q with rejected := true, state := if q.state == .stopped then .stopped else .killed } else q }
      hit.foldl (fun s k =>
        match t.whoOf k, r.pos[k]? with
        | some w, some q => s.modCtx w (endPosition q)
        | _, _ => s) s1
    | none => s
  | none => s

/-- A position p ≥ 1 stops: it and every later position are rejected (R211, R214). -/
def State.stopPosition (s : State) (w : Who) (team p : Nat) (dflt : Bool) : State :=
  let s1 := s.modRegion team fun r => r.modPos p fun q => { q with state := .stopped, rejected := true }
  let s2 := s1.rejectFrom team (p + 1)
  s2.modCtx w fun x =>
    let y := match s2.deadPosition x with
      | some q => endPosition q x
      | none => x
    { y with pleatst := putBits x.pleatst 9 1 (if dflt then 1 else 0) }

/-- The rank of a context lies inside its team's current Pleat window (R391). -/
def State.inWindow (s : State) (x : Ctx) : Bool := ((s.teamOf x).bind (·.region)).any fun r => x.rank < r.pos.length

/-! ## Event log -/

/-- Source field of an event record (R437). -/
def State.srcOf (s : State) (w : Who) : IWord :=
  BitVec.ofNat 32 (w.ctx.val + 4 * (w.core.val % 64) + 256 * (w.core.val / 64) + 2048 * s.mgmt.stnid.toNat)

/-- Source of an event that is not a context's (R437 UNIT). -/
def State.unitSrc (s : State) : IWord := BitVec.ofNat 32 (2097152 + 2048 * s.mgmt.stnid.toNat)

/-- A station identifier, die, core, context and UNIT bit, in the order in which R437 compares them. -/
def srcKey (v : IWord) : Nat :=
  bitsAt v 11 10 * 2048 * 2 + bitsAt v 8 3 * 512 + bitsAt v 2 6 * 8 + bitsAt v 0 2 * 2 + bitsAt v 21 1

/-- Inserts a record into the log from its end, behind those with an equal or smaller time and key (R437). -/
def logInsert : List EventRec → EventRec → List EventRec
  | [], r => [r]
  | h :: t, r =>
    if r.gtc < h.gtc || (r.gtc == h.gtc && srcKey r.src < srcKey h.src) then r :: h :: t else h :: logInsert t r

/-- Logs an event among the records that are not acknowledged; a full ring loses its oldest record (R437).  Acknowledged
records stay in the ring's memory until they are overwritten. -/
def State.logEvent (s : State) (src : IWord) (code : EventCode) (data : List Word) : State :=
  let m := s.mgmt
  let old := m.elog.length - (m.elogtail - m.eloghead)
  let all := m.elog.take old ++ logInsert (m.elog.drop old) { gtc := s.gtc, src := src, code := code, data := data }
  let full := 65536 < m.elogtail + 1 - m.eloghead
  { s with mgmt := { m with
      elog := all.drop (all.length - 65536)
      elogtail := m.elogtail + 1
      eloghead := if full then m.eloghead + 1 else m.eloghead
      eloglost := if full then m.eloglost + 1 else m.eloglost } }

/-! ## Progress and run state -/

/-- The progress counter's value (R391). -/
def State.progressOf (s : State) (x : Ctx) : Nat :=
  x.progress.acc + (match x.progress.since with | some c => s.cycle - c | none => 0)

/-- Sets the progress counter to zero (R391). -/
def State.progressed (s : State) (x : Ctx) : Ctx := { x with progress := { acc := 0, since := some s.cycle } }

/-- Holds the progress counter (R391). -/
def State.holdProgress (s : State) (x : Ctx) : Ctx := { x with progress := { acc := s.progressOf x, since := none } }

/-- Lets the progress counter run on (R391). -/
def State.runProgress (s : State) (x : Ctx) : Ctx := { x with progress := { acc := s.progressOf x, since := some s.cycle } }

/-! ## Leaving a team -/

/-- Scalar accesses and leases of a context at home slices end, and its stalled CBLD; leases that wait behind are granted by
LINE_LEASE_GRANT (R176). -/
def State.leaveLines (s : State) (w : Who) : State :=
  { s with lineq := s.lineq.filter fun l => l.inbound || l.who != w || l.req.isSome || l.cmd.isSome, loads := s.loads.filter fun l => l.who != w }

/-- The line lease of a context ends (R176). -/
def State.endLease (s : State) (w : Who) : State := { s with lineq := s.lineq.filter fun l => l.inbound || l.who != w || l.access }

/-- An access of a context to a line queues behind those before it; its place is kept while the access is tried again
(R176). -/
def State.queueAccess (s : State) (l : LineReq) : State :=
  let same := fun (k : LineReq) => k.access && k.inbound == l.inbound && k.who == l.who && k.req == l.req && k.cmd == l.cmd
  if s.lineq.any fun k => same k && k.phys == l.phys then s
  else { s with lineq := (s.lineq.filter fun k => !same k) ++ [l] }

/-- Whether a queued request still stands: a scalar access does while its context is stalled in it, an access of an engine while
its command has work to do, and a request while it is unanswered. -/
def State.standing (s : State) (l : LineReq) : Bool :=
  match l.req, l.cmd with
  | some id, _ => if l.inbound then s.inbox.any fun e => e.1 == id else s.reqs.any fun r => r.id == id
  | none, some o => (s.ctxOf l.who).queues.toList.any fun q => q.any fun c => c.order == o && c.phase != .done
  | none, none => !l.access || (s.ctxOf l.who).blocked == some .stall

/-- The line lease that a context holds (R176). -/
def State.leaseOf (s : State) (w : Who) : Option LineReq := s.lineq.find? fun l => l.who == w && l.stop.isSome

/-- A context with nothing left to do becomes FREE; the launch values of its queues, FIFOs and registers are set
by the next placement (R50). -/
def freeCtx (x : Ctx) : Ctx :=
  { x with queues := Vector.replicate 5 [], run := .free, blocked := none, team := none, ended := false, expired := false, deferred := [],
           faults := [], pend := false, budget := 0, past := none, progress := { acc := 0, since := none } }

/-- Whether a core still holds a context of a team, one that has ended included (R35, R378). -/
def Core.holds (c : Core) (team : Nat) : Bool := c.ctx.toList.any fun x => x.team == some team

/-- Cores of a team's die. -/
def State.teamCores (s : State) (t : Team) : List CoreId := (coresOfDie t.die).filter fun c => (s.core c).holds t.id

/-- A CPYM of the team writes a core, which keeps the team's banks until the command has completed (R282). -/
def State.casting (s : State) (t : Team) (c : CoreId) : Bool :=
  (s.teamCores t).any fun d => (s.core d).ctx.toList.any fun x =>
    x.team == some t.id && x.queues.toList.any fun q => q.any fun k => k.cores.contains c

/-- Writes the role CACHE to the banks of a mask (R33, R35).  What a bank held stands until the bank enters SCRATCH or OPBUF
again, where it reads as zero (R33). -/
def Core.releaseBanks (c : Core) (mask : IWord) : Core :=
  (List.range 32).foldl (fun c b => if mask.getLsbD b then { c with bankrole := putBits c.bankrole (2 * b) 2 0 } else c) c

/-- The bank role changes that wait on a core: stalled MTCs, and those of a debugger (R33, R400). -/
def Core.roleChanges (c : Core) : List RoleChange :=
  (c.ctx.toList.filterMap fun y => match y.blocked with
    | some (.bankrole r) => some r
    | _ => none) ++ c.dbg.roles.map (·.2)

/-- Whether a core holds no team member (R352, R353). -/
def Core.empty (c : Core) : Bool := c.ctx.toList.all fun x => x.team.isNone

/-- A software-managed copy that is dirty is written back whole, which heals granules that were poisoned meanwhile (R352,
R357, R360).  A context's own earlier stores come to memory with it, which its commands still do not read (R304). -/
def State.writeBack (s : State) (c : CoreId) (l : L1Line) : State :=
  if l.dirty then
    (s.rawPut (128 * l.line) l.bytes).unhide (128 * l.line) 128 fun h =>
      (s.core c).ctx.toList.any h.isOf
  else s

/-- Writes back and invalidates every CACHE bank of a core (R33, R353). -/
def State.flushCore (s : State) (c : CoreId) : State :=
  let s1 := (s.core c).l1.foldl (fun s l => s.writeBack c l) s
  { s1 with dirty := s1.dirty.filter fun d => d.2 != c }.modCore c fun k => { k with l1 := [] }

/-- A cluster whose last team has left is unfused, after its CACHE banks are flushed (R353). -/
def State.unfuse (s : State) (c : CoreId) : State :=
  let cores := (List.range 8).map (clusterMate c)
  if s.fused.getLsbD (c.val / 8) && cores.all (fun k => (s.core k).empty) then
    { cores.foldl State.flushCore s with fused := s.fused &&& ~~~(BitVec.twoPow 64 (c.val / 8)) }
  else s

/-- When the last member of a team has left a core, and no CPYM of the team writes it, the team's banks there return to
CACHE (R35, R282). -/
def State.vacate (s : State) (team : Nat) (c : CoreId) : State :=
  match s.teamAt team with
  | some t =>
    if (s.core c).holds team || s.casting t c then s
    else (s.modCore c fun k => k.releaseBanks (((s.launchAt t.launch).map (·.desc.bankreq)).getD 0)).unfuse c
  | none => s

/-- The member that a context runs leaves its team with a final place, exited or ended; its final clock is kept for
the group barriers to come (R220, R318, R378). -/
def State.leaveTeam (s : State) (w : Who) (place : MemberPlace) : State :=
  let x := s.ctxOf w
  match x.team with
  | some id =>
    (((s.leaveLines w).modTeam id fun t => { t.setMember x.rank place with finals := (x.rank, x.clock) :: t.finals }).modCtx w
      freeCtx).vacate id w.core
  | none => (s.leaveLines w).modCtx w freeCtx

/-- end_member of R378.  The context becomes FREE at once when none of its commands has started, else when the last
started one has completed or faulted. -/
def State.endMember (s : State) (w : Who) : State :=
  let x := s.ctxOf w
  let s1 := s.logEvent (s.srcOf w) .memberend
    [s.ctxid w, x.teamid, x.trapcause, x.trappc, x.trapval]
  let y := { dropUnstarted x with
    deferred := [], faults := [], blocked := some .window, run := .waiting, ended := true }
  let s2 := (s1.leaveLines w).setCtx w y
  let s3 := match s.teamOf x with
    | some t =>
      (s2.modTeam t.id fun t => { t.setMember x.rank .ended with finals := (x.rank, x.clock) :: t.finals }).modLaunch
        t.launch fun l => { l with memberErr := true }
    | none => s2
  if y.queues.toList.all (·.isEmpty) then
    match x.team with
    | some id => (s3.modCtx w freeCtx).vacate id w.core
    | none => s3.modCtx w freeCtx
  else s3

/-! ## Traps -/

/-- Trap cause codes (R26). -/
def Cause.illegal : Byte := 0x01
def Cause.regbound : Byte := 0x02
def Cause.priv : Byte := 0x03
def Cause.handle : Byte := 0x04
def Cause.align : Byte := 0x05
def Cause.addr : Byte := 0x06
def Cause.xlat : Byte := 0x07
def Cause.mmx : Byte := 0x08
def Cause.placeto : Byte := 0x09
def Cause.poolrnr : Byte := 0x0A
def Cause.fenced : Byte := 0x0B
def Cause.route : Byte := 0x0C
def Cause.linkkey : Byte := 0x0D
def Cause.engine : Byte := 0x0E
def Cause.format : Byte := 0x0F
def Cause.pleat : Byte := 0x10
def Cause.safeto : Byte := 0x11
def Cause.hang : Byte := 0x12
def Cause.lease : Byte := 0x13
def Cause.tmpl : Byte := 0x14
def Cause.ecc : Byte := 0x15
def Cause.trapi : Byte := 0x16
def Cause.brk : Byte := 0x17

/-- What a trap carries: TRAPCAUSE[7:0], TRAPCAUSE[15:8] and TRAPVAL (R377). -/
structure Trap where
  cause : Byte
  sub : Byte
  val : Word
  deriving DecidableEq, Repr

/-- An address as the PC holds it where no rule checks it: PC[63:52] and PC[1:0] are always zero (R11, log 5). -/
def pcOf (v : Word) : Word := BitVec.ofNat 64 (v.toNat / 4 * 4 % 2 ^ 52)

/-- The precise entry of R377, for a context that is not in a speculative position; one that was blocked or stalled becomes a
candidate now (R337): saves cause, PC and value,
enters handler mode at TRAPHND; a double trap, and a trap without a handler, end the member. -/
def State.takeTrap (s : State) (w : Who) (t : Trap) : State :=
  let x := s.ctxOf w
  if x.mode == .handler then s.endMember w
  else
    let x1 := { s.progressed x with trapcause := (0#48 ++ t.sub ++ t.cause), trappc := x.pc, trapval := t.val,
                                    run := if x.run == .waiting then .active else x.run, blocked := none,
                                    since := if x.run == .active && x.blocked.isNone then x.since else s.cycle }
    if x.traphnd == 0 then (s.setCtx w x1).endMember w
    else s.setCtx w { x1 with mode := .handler, pc := pcOf x.traphnd }

/-- A trap is delivered precisely, but in a Pleat position p ≥ 1 it stops the position instead (R214). -/
def State.deliver (s : State) (w : Who) (t : Trap) : State :=
  let x := s.ctxOf w
  match s.positionOf x with
  | some (tm, _, _) => if x.rank == 0 then s.takeTrap w t else s.stopPosition w tm.id x.rank true
  | none => s.takeTrap w t

/-- Why an instruction does not complete in this step. -/
inductive Stop
  /-- a precise trap (R376) -/
  | trap (t : Trap)
  /-- a stall, which has no visible effect other than time: the instruction issues again later -/
  | stall (b : Blocked)
  /-- a block: the context waits, and the instruction has had no effect (R193) -/
  | wait (b : Blocked)
  /-- a stall of an access that queues at a line's home slice (R176) -/
  | queue (l : LineReq)
  /-- what the instruction does instead of its effect (a Pleat position that is killed or stops, R211, R215) -/
  | goto (s : State)

/-- A precise trap with a cause, a subcode and a value. -/
def trap {α : Type} (cause sub : Byte) (val : Word) : Except Stop α := .error (.trap ⟨cause, sub, val⟩)

/-- Leaves an instruction by a trap when a condition holds. -/
def trapIf (c : Bool) (cause sub : Byte) (val : Word) : Except Stop Unit :=
  if c then trap cause sub val else .ok ()

/-- The context blocks in a wait (R12, R193). -/
def State.block (s : State) (w : Who) (b : Blocked) : State :=
  s.modCtx w fun x => { x with run := .waiting, blocked := some b }

/-- The end of a meaning: its next state, or the trap delivered in the state before it (R376), a stall, or a block. -/
def State.finish (s : State) (r : Except Stop State) : Out :=
  match r with
  | .ok s' => .next s'
  | .error (.trap t) => .next (s.deliver s.who t)
  | .error (.stall b) => .next (s.modCtx s.who fun x => { x with blocked := some b })
  | .error (.wait b) => .next (s.block s.who b)
  | .error (.queue l) => .next ((s.queueAccess l).modCtx s.who fun x => { x with blocked := some .stall })
  | .error (.goto s') => .next s'

/-- The return from a trap (R218): user mode at TRAPPC. -/
def returnFromTrap (x : Ctx) : Ctx := { x with mode := .user, pc := x.trappc }

/-! ## Program counter -/

/-- PC after an instruction of `n` bytes; PC[63:52] stays zero (R11, R97). -/
def pcAfter (pc : Word) (n : Nat) : Word := BitVec.ofNat 64 ((pc.toNat + n) % 2 ^ 52)

/-- The instruction's effect on its context, with the PC moved past its `n` bytes. -/
def State.retire (s : State) (x : Ctx) (n : Nat) : State := s.setCtx s.who { x with pc := pcAfter x.pc n }

/-- Moves the issuing context's PC past an instruction of `n` bytes. -/
def State.advance (s : State) (n : Nat) : State := s.modCtx s.who fun x => { x with pc := pcAfter x.pc n }

/-- The target check of R149 and R11. -/
def checkTarget (t : Word) : Except Stop Unit :=
  if t.extractLsb' 0 2 != 0 then trap Cause.align 0 t
  else if t.toNat ≥ 2 ^ 52 then trap Cause.xlat 0 t
  else .ok ()

end Sys2Proof.Machine
end

