-- ==== Sys2Proof/Machine/Operands.lean ====
section
/-! DEFINITION. Operand forms: scalar registers and their bounds (R14, R15, R132), handle fields (R19, R20), the
fields of templates (R42), and the checks that stand before an instruction's effect (R103). -/

namespace Sys2Proof

/-- Place and width of a handle field (R19). -/
def HField.pos : HField → Nat × Nat
  | .obj => (0, 16) | .view => (16, 16) | .off => (32, 48) | .fmt => (80, 8) | .flg => (88, 8)
  | .dim0 => (96, 16) | .dim1 => (112, 16) | .dim2 => (128, 16) | .dim3 => (144, 16)
  | .str0 => (160, 24) | .str1 => (184, 24) | .str2 => (208, 24) | .str3 => (232, 24)

def HField.signed : HField → Bool
  | .str0 | .str1 | .str2 | .str3 => true
  | _ => false

end Sys2Proof

namespace Sys2Proof.Machine

/-- read_s of R132, after the bound has been checked. -/
def Ctx.rs (x : Ctx) (n : SReg) : Word := if n == 0 then 0 else x.s[n.toNat]'n.isLt

/-- write_s of R132: a write to S0 is discarded. -/
def Ctx.ws (x : Ctx) (n : SReg) (v : Word) : Ctx := if n == 0 then x else { x with s := x.s.set n.toNat v n.isLt }

/-- The allotment check of R15 over the registers an instruction names, in the order of R103. -/
def checkRegs (x : Ctx) : List SReg → Except Stop Unit
  | [] => .ok ()
  | r :: rs => if r.toNat ≥ x.allot.toNat then trap Cause.regbound 0 (r.setWidth 64) else checkRegs x rs

/-- Instructions that R213 forbids to every position of a region and to the guess routine; PLEAT there is NESTED (R208). -/
def forbidden : Instr → Bool
  | .aadd .. | .amin .. | .amax .. | .aand .. | .aor .. | .axor .. | .aswap .. | .acas .. => true
  | .lda .. | .stl .. | .fence .. | .flushd .. | .llease .. | .llrel .. => true
  | .place .. | .seal .. | .modesw .. | .cbld .. | .pst .. | .patom .. | .lsacq .. | .lsrel .. => true
  | .emit q _ => q == .nxq
  | .emitr q _ _ => q == .nxq
  | .gbar .. | .tmpld .. | .tmpsw .. | .rega .. | .launch .. | .exit .. => true
  | .mtc _ w => w != 0
  | _ => false

/-- What R210 forbids to the guess routine besides: stores and engine issue. -/
def forbiddenGuess : Instr → Bool
  | .stb .. | .sth .. | .stw .. | .std .. | .stx .. | .hst .. | .emit .. | .emitr .. => true
  | _ => false

/-- A trap whose TRAPVAL no rule gives: a free value (log 21). -/
def State.openTrap {α : Type} (s : State) (cause sub : Byte) : Except Stop α :=
  .error (.goto ({ s with fresh := s.fresh + 1 }.deliver s.who ⟨cause, sub, Config.freeWord s.fresh⟩))

/-- PLEAT, subcode FORBID (R208, R213). -/
def State.forbidTrap {α : Type} (s : State) : Except Stop α := s.openTrap Cause.pleat 1

/-- A region or a guess routine refuses what R213 and R210 forbid.  It stands after REGBOUND and before PRIV (log 10). -/
def checkRegion (s : State) (x : Ctx) (i : Instr) : Except Stop Unit :=
  match s.guessingOf x with
  | some _ => if forbidden i || forbiddenGuess i then s.forbidTrap else .ok ()
  | none =>
    match s.positionOf x with
    | some _ => if forbidden i then s.forbidTrap else .ok ()
    | none => .ok ()

/-- ILLEGAL at the instruction (R119, R379). -/
def illegal (i : Instr) : Trap := ⟨Cause.illegal, 0, i.head⟩

/-- PRIV at the instruction (R379). -/
def privTrap (i : Instr) : Trap := ⟨Cause.priv, 0, i.head⟩

/-- The checks of R103 that stand before the ones an instruction's own description makes. -/
def checkInstr (s : State) (i : Instr) (regs : List SReg) : Except Stop Unit :=
  if !i.wellFormed then .error (.trap (illegal i))
  else match checkRegs s.me regs with
    | .error t => .error t
    | .ok _ => checkRegion s s.me i

/-- The shape of a meaning: the checks of R103, then the effect on the issuing context. -/
def State.run (s : State) (i : Instr) (regs : List SReg) (body : Ctx → Except Stop State) : Out :=
  s.finish (match checkInstr s i regs with
    | .error t => .error t
    | .ok _ => body s.me)

/-- A meaning that only computes one scalar from the context (R132). -/
def State.compute (s : State) (i : Instr) (regs : List SReg) (d : SReg) (f : Ctx → Word) : Out :=
  s.run i regs fun x => .ok (s.retire (x.ws d (f x)) i.size)

/-! ## Handles -/

def hObj (h : HandleWord) : Nat := bitsAt h 0 16
def hView (h : HandleWord) : BitVec 16 := h.extractLsb' 16 16
def hOff (h : HandleWord) : Nat := bitsAt h 32 48
def hFmt (h : HandleWord) : Byte := h.extractLsb' 80 8
def hFlg (h : HandleWord) : Byte := h.extractLsb' 88 8
def hVal (h : HandleWord) : Bool := bitAt h 88
def hRd (h : HandleWord) : Bool := bitAt h 89
def hWr (h : HandleWord) : Bool := bitAt h 90
def hDim (h : HandleWord) (d : Nat) : Nat := bitsAt h (96 + 16 * d) 16
def hStr (h : HandleWord) (d : Nat) : Int := (h.extractLsb' (160 + 24 * d) 24).toInt

/-! ## Template fields -/

/-- Field Fk (R42). -/
def tF (t : TemplateBits) (k : Nat) : BitVec 16 := t.extractLsb' (16 * k) 16

/-- `n` fields from Fk as a number, lowest field first (R225). -/
def tN (t : TemplateBits) (k n : Nat) : Nat := bitsAt t (16 * k) (16 * n)

/-- Fields from Fk as a signed number. -/
def tZ (t : TemplateBits) (k n : Nat) : Int := (t.extractLsb' (16 * k) (16 * n)).toInt

/-- Writes `n` fields from Fk (R43). -/
def tPut (t : TemplateBits) (k n v : Nat) : TemplateBits := putBits t (16 * k) (16 * n) v

end Sys2Proof.Machine
end

