-- ==== Sys2Proof/Machine/Integer.lean ====
section
/-! DEFINITION. Integer, compare, select and immediate instructions (R135 to R142). -/

namespace Sys2Proof.Machine

/-! ## Results (R136, R137, R141) -/

/-- Signed high product. -/
def mulHigh (a b : Word) : Word := ((a.signExtend 128 * b.signExtend 128).extractLsb' 64 64)

/-- Unsigned high product. -/
def mulHighU (a b : Word) : Word := ((a.setWidth 128 * b.setWidth 128).extractLsb' 64 64)

/-- Signed quotient, truncated toward zero; the last two rows of R137's table. -/
def divSigned (a b : Word) : Word := if b == 0 then BitVec.allOnes 64 else BitVec.ofInt 64 (a.toInt.tdiv b.toInt)

/-- Signed remainder with the sign of a. -/
def remSigned (a b : Word) : Word := if b == 0 then a else BitVec.ofInt 64 (a.toInt.tmod b.toInt)

def divUnsigned (a b : Word) : Word := if b == 0 then BitVec.allOnes 64 else BitVec.ofNat 64 (a.toNat / b.toNat)
def remUnsigned (a b : Word) : Word := if b == 0 then a else BitVec.ofNat 64 (a.toNat % b.toNat)

/-- Shift amount: the low six bits. -/
def shamt (b : Word) : Nat := bitsAt b 0 6

def minSigned (a b : Word) : Word := if a.slt b then a else b
def maxSigned (a b : Word) : Word := if a.slt b then b else a
def minUnsigned (a b : Word) : Word := if a.ult b then a else b
def maxUnsigned (a b : Word) : Word := if a.ult b then b else a

/-- Zero bits above the highest one bit of the low `n` bits. -/
def leadingZeros (a : Word) : Nat → Nat
  | 0 => 0
  | n + 1 => if a.getLsbD n then 0 else 1 + leadingZeros a n

/-- Zero bits from bit `64 - n` up to the first one bit. -/
def trailingZeros (a : Word) : Nat → Nat
  | 0 => 0
  | n + 1 => if a.getLsbD (63 - n) then 0 else 1 + trailingZeros a n

/-- 1 for true, 0 for false. -/
def flag01 (c : Bool) : Word := if c then 1 else 0

/-! ## Register form (R136) -/

def execAdd (d a b : SReg) (s : State) : Out := s.compute (.add d a b) [d, a, b] d fun x => x.rs a + x.rs b
def execSub (d a b : SReg) (s : State) : Out := s.compute (.sub d a b) [d, a, b] d fun x => x.rs a - x.rs b
def execMul (d a b : SReg) (s : State) : Out := s.compute (.mul d a b) [d, a, b] d fun x => x.rs a * x.rs b
def execMulh (d a b : SReg) (s : State) : Out :=
  s.compute (.mulh d a b) [d, a, b] d fun x => mulHigh (x.rs a) (x.rs b)
def execMulhu (d a b : SReg) (s : State) : Out :=
  s.compute (.mulhu d a b) [d, a, b] d fun x => mulHighU (x.rs a) (x.rs b)
def execDiv (d a b : SReg) (s : State) : Out :=
  s.compute (.div d a b) [d, a, b] d fun x => divSigned (x.rs a) (x.rs b)
def execDivu (d a b : SReg) (s : State) : Out :=
  s.compute (.divu d a b) [d, a, b] d fun x => divUnsigned (x.rs a) (x.rs b)
def execRem (d a b : SReg) (s : State) : Out :=
  s.compute (.rem d a b) [d, a, b] d fun x => remSigned (x.rs a) (x.rs b)
def execRemu (d a b : SReg) (s : State) : Out :=
  s.compute (.remu d a b) [d, a, b] d fun x => remUnsigned (x.rs a) (x.rs b)
def execAnd (d a b : SReg) (s : State) : Out := s.compute (.and d a b) [d, a, b] d fun x => x.rs a &&& x.rs b
def execOr (d a b : SReg) (s : State) : Out := s.compute (.or d a b) [d, a, b] d fun x => x.rs a ||| x.rs b
def execXor (d a b : SReg) (s : State) : Out := s.compute (.xor d a b) [d, a, b] d fun x => x.rs a ^^^ x.rs b
def execAndn (d a b : SReg) (s : State) : Out := s.compute (.andn d a b) [d, a, b] d fun x => x.rs a &&& ~~~(x.rs b)
def execShl (d a b : SReg) (s : State) : Out := s.compute (.shl d a b) [d, a, b] d fun x => x.rs a <<< shamt (x.rs b)
def execShr (d a b : SReg) (s : State) : Out := s.compute (.shr d a b) [d, a, b] d fun x => x.rs a >>> shamt (x.rs b)
def execSra (d a b : SReg) (s : State) : Out :=
  s.compute (.sra d a b) [d, a, b] d fun x => (x.rs a).sshiftRight (shamt (x.rs b))
def execRol (d a b : SReg) (s : State) : Out :=
  s.compute (.rol d a b) [d, a, b] d fun x => (x.rs a).rotateLeft (shamt (x.rs b))
def execMin (d a b : SReg) (s : State) : Out :=
  s.compute (.min d a b) [d, a, b] d fun x => minSigned (x.rs a) (x.rs b)
def execMax (d a b : SReg) (s : State) : Out :=
  s.compute (.max d a b) [d, a, b] d fun x => maxSigned (x.rs a) (x.rs b)
def execMinu (d a b : SReg) (s : State) : Out :=
  s.compute (.minu d a b) [d, a, b] d fun x => minUnsigned (x.rs a) (x.rs b)
def execMaxu (d a b : SReg) (s : State) : Out :=
  s.compute (.maxu d a b) [d, a, b] d fun x => maxUnsigned (x.rs a) (x.rs b)
def execClz (d a : SReg) (s : State) : Out :=
  s.compute (.clz d a) [d, a] d fun x => BitVec.ofNat 64 (leadingZeros (x.rs a) 64)
def execCtz (d a : SReg) (s : State) : Out :=
  s.compute (.ctz d a) [d, a] d fun x => BitVec.ofNat 64 (trailingZeros (x.rs a) 64)
def execPopc (d a : SReg) (s : State) : Out :=
  s.compute (.popc d a) [d, a] d fun x => BitVec.ofNat 64 (popcount (x.rs a))

/-! ## Compare and select (R141, R142) -/

def execCeq (d a b : SReg) (s : State) : Out := s.compute (.ceq d a b) [d, a, b] d fun x => flag01 (x.rs a == x.rs b)
def execCne (d a b : SReg) (s : State) : Out := s.compute (.cne d a b) [d, a, b] d fun x => flag01 (x.rs a != x.rs b)
def execClt (d a b : SReg) (s : State) : Out :=
  s.compute (.clt d a b) [d, a, b] d fun x => flag01 ((x.rs a).slt (x.rs b))
def execCle (d a b : SReg) (s : State) : Out :=
  s.compute (.cle d a b) [d, a, b] d fun x => flag01 ((x.rs a).sle (x.rs b))
def execCltu (d a b : SReg) (s : State) : Out :=
  s.compute (.cltu d a b) [d, a, b] d fun x => flag01 ((x.rs a).ult (x.rs b))
def execCleu (d a b : SReg) (s : State) : Out :=
  s.compute (.cleu d a b) [d, a, b] d fun x => flag01 ((x.rs a).ule (x.rs b))
def execSel (d c a b : SReg) (s : State) : Out :=
  s.compute (.sel d c a b) [d, c, a, b] d fun x => if x.rs c != 0 then x.rs a else x.rs b

/-! ## Immediates and constants (R138 to R140) -/

def execAddi (d a : SReg) (i : BitVec 12) (s : State) : Out :=
  s.compute (.addi d a i) [d, a] d fun x => x.rs a + sext64 i
def execAndi (d a : SReg) (i : BitVec 12) (s : State) : Out :=
  s.compute (.andi d a i) [d, a] d fun x => x.rs a &&& sext64 i
def execOri (d a : SReg) (i : BitVec 12) (s : State) : Out :=
  s.compute (.ori d a i) [d, a] d fun x => x.rs a ||| sext64 i
def execXori (d a : SReg) (i : BitVec 12) (s : State) : Out :=
  s.compute (.xori d a i) [d, a] d fun x => x.rs a ^^^ sext64 i
def execShli (d a : SReg) (n : BitVec 6) (s : State) : Out :=
  s.compute (.shli d a n) [d, a] d fun x => x.rs a <<< n.toNat
def execShri (d a : SReg) (n : BitVec 6) (s : State) : Out :=
  s.compute (.shri d a n) [d, a] d fun x => x.rs a >>> n.toNat
def execSrai (d a : SReg) (n : BitVec 6) (s : State) : Out :=
  s.compute (.srai d a n) [d, a] d fun x => (x.rs a).sshiftRight n.toNat
def execLi (d : SReg) (imm : IWord) (s : State) : Out := s.compute (.li d imm) [d] d fun _ => sext64 imm
def execLiw (d : SReg) (imm : IWord) (s : State) : Out :=
  s.compute (.liw d imm) [d] d fun x => imm ++ (x.rs d).extractLsb' 0 32

end Sys2Proof.Machine
end

