-- ==== Sys2Proof/Machine/Control.lean ====
section
/-! DEFINITION. Control transfer (R149 to R153). -/

namespace Sys2Proof.Machine

/-- PC + 4 × sext(off), as a 64-bit value (R150, R152). -/
def branchTarget {n : Nat} (pc : Word) (o : BitVec n) : Word := pc + sext64 o <<< 2

/-- Transfers control to a target, checked by R149, with the context as `x` leaves it. -/
def State.jump (s : State) (x : Ctx) (t : Word) : Except Stop State :=
  match checkTarget t with
  | .error e => .error e
  | .ok _ => .ok (s.setCtx s.who { x with pc := t })

/-- A conditional branch: taken to its target, else only past the instruction (R152). -/
def State.branch (s : State) (i : Instr) (regs : List SReg) (o : BitVec 12) (c : Ctx → Bool) : Out :=
  s.run i regs fun x => if c x then s.jump x (branchTarget x.pc o) else .ok (s.retire x i.size)

def execBr (o : BitVec 24) (s : State) : Out := s.run (.br o) [] fun x => s.jump x (branchTarget x.pc o)

def execCall (o : BitVec 24) (s : State) : Out :=
  s.run (.call o) [15] fun x => s.jump (x.ws 15 (x.pc + 4)) (branchTarget x.pc o)

def execRet (s : State) : Out := s.run .ret [15] fun x => s.jump x (x.rs 15)

def execJmpr (d a : SReg) (s : State) : Out :=
  s.run (.jmpr d a) [d, a] fun x => s.jump (x.ws d (x.pc + 4)) (x.rs a)

def execBz (a : SReg) (o : BitVec 12) (s : State) : Out := s.branch (.bz a o) [a] o fun x => x.rs a == 0
def execBnz (a : SReg) (o : BitVec 12) (s : State) : Out := s.branch (.bnz a o) [a] o fun x => x.rs a != 0
def execBeq (a b : SReg) (o : BitVec 12) (s : State) : Out :=
  s.branch (.beq a b o) [a, b] o fun x => x.rs a == x.rs b
def execBne (a b : SReg) (o : BitVec 12) (s : State) : Out :=
  s.branch (.bne a b o) [a, b] o fun x => x.rs a != x.rs b
def execBlt (a b : SReg) (o : BitVec 12) (s : State) : Out :=
  s.branch (.blt a b o) [a, b] o fun x => (x.rs a).slt (x.rs b)
def execBge (a b : SReg) (o : BitVec 12) (s : State) : Out :=
  s.branch (.bge a b o) [a, b] o fun x => !(x.rs a).slt (x.rs b)

/-- LOOP (R153): the target is checked before the count is written. -/
def execLoop (a : SReg) (o : BitVec 12) (s : State) : Out :=
  s.run (.loop a o) [a] fun x =>
    let v := x.rs a - 1
    let y := x.ws a v
    if v != 0 then s.jump y (branchTarget x.pc o) else .ok (s.retire y 4)

end Sys2Proof.Machine
end

