-- ==== Sys2Proof/Machine/Flags.lean ====
section
/-! DEFINITION. Numbers and flags: the floating-point formats, exact results with one rounding, and the flags of
FPS (R53 to R72, R145, R147, R148). -/

namespace Sys2Proof.Machine

/-! ## Formats and modes -/

/-- Floating-point element formats (R53). -/
inductive Fp | fp32 | bf16 | fp16 | e5m2 | e4m3 | e3m2 | e2m3 | e2m1
  deriving DecidableEq, Repr

/-- Fraction bits (R53). -/
def Fp.fb : Fp → Nat
  | .fp32 => 23 | .bf16 => 7 | .fp16 => 10 | .e5m2 => 2 | .e4m3 => 3 | .e3m2 => 2 | .e2m3 => 3 | .e2m1 => 1

/-- Exponent bits (R53). -/
def Fp.eb : Fp → Nat
  | .fp32 => 8 | .bf16 => 8 | .fp16 => 5 | .e5m2 => 5 | .e4m3 => 4 | .e3m2 => 3 | .e2m3 => 2 | .e2m1 => 2

/-- Bias (R53). -/
def Fp.bias : Fp → Nat
  | .fp32 => 127 | .bf16 => 127 | .fp16 => 15 | .e5m2 => 15 | .e4m3 => 7 | .e3m2 => 3 | .e2m3 => 1 | .e2m1 => 1

/-- Code of the largest finite value (R53). -/
def Fp.maxCode : Fp → Nat
  | .fp32 => 0x7F7FFFFF | .bf16 => 0x7F7F | .fp16 => 0x7BFF | .e5m2 => 0x7B | .e4m3 => 0x7E
  | .e3m2 => 0x1F | .e2m3 => 0x1F | .e2m1 => 0x7

/-- Canonical NaN (R55, R67); the formats without one give +0 (R71). -/
def Fp.cnan : Fp → Nat
  | .fp32 => 0x7FC00000 | .bf16 => 0x7FC0 | .fp16 => 0x7E00 | .e5m2 => 0x7E | .e4m3 => 0x7F
  | .e3m2 => 0 | .e2m3 => 0 | .e2m1 => 0

/-- Formats with IEEE infinities (R55). -/
def Fp.ieee : Fp → Bool
  | .fp32 | .bf16 | .fp16 | .e5m2 => true
  | _ => false

/-- Sign bit of a code. -/
def Fp.signBit (f : Fp) : Nat := f.fb + f.eb

/-- Exponent of the smallest normal value. -/
def Fp.emin (f : Fp) : Int := 1 - (f.bias : Int)

/-- Rounding mode and options, from FPC (R27). -/
structure Env where
  rm : Nat
  ftz : Bool
  satf : Bool
  deriving DecidableEq, Repr

/-- The settings of FPC[3:0]. -/
def Env.of (fpc : BitVec 16) : Env := { rm := bitsAt fpc 0 2, ftz := bitAt fpc 2, satf := bitAt fpc 3 }

/-- Round to nearest even, without flushing; conversions saturate (R86, R87). -/
def Env.rne : Env := { rm := 0, ftz := false, satf := true }

/-- Flags NV, DZ, OF, UF, NX in bits 0 to 4 (R28). -/
abbrev Flags := BitVec 5
def fNV : Flags := 1
def fDZ : Flags := 2
def fOF : Flags := 4
def fUF : Flags := 8
def fNX : Flags := 16

/-- What a floating-point operand stands for: sign, and for a number the value m × 2^e. -/
inductive Num
  | nan (signalling : Bool)
  | inf (neg : Bool)
  | num (neg : Bool) (m : Nat) (e : Int)
  deriving DecidableEq, Repr

/-- Value of a code (R54, R55). -/
def Fp.decode (f : Fp) (c : Nat) : Num :=
  let neg := c.testBit f.signBit
  let x := c / 2 ^ f.fb % 2 ^ f.eb
  let fr := c % 2 ^ f.fb
  if f.ieee && x == 2 ^ f.eb - 1 then
    (if fr == 0 then .inf neg else .nan (!fr.testBit (f.fb - 1)))
  else if f == .e4m3 && c % 128 == 127 then .nan false
  else if x == 0 then .num neg fr (f.emin - f.fb)
  else .num neg (2 ^ f.fb + fr) ((x : Int) - f.bias - f.fb)

/-! ## Rounding -/

/-- A quotient rounded to an integer by a rounding mode (R66). -/
def roundDiv (rm : Nat) (neg : Bool) (n d : Nat) : Nat :=
  let q := n / d
  let r := n % d
  if r == 0 then q
  else
    let up := if rm == 0 then (2 * r > d || 2 * r == d && q % 2 == 1)
      else if rm == 1 then false
      else if rm == 2 then neg
      else !neg
    if up then q + 1 else q

/-- Numerator and denominator of (n / d) × 2^k. -/
def scaleRat (n d : Nat) (k : Int) : Nat × Nat :=
  if k ≥ 0 then (n * 2 ^ k.toNat, d) else (n, d * 2 ^ (-k).toNat)

/-- floor(log2(n / d)) of a positive quotient. -/
def ilog2 (n d : Nat) : Int :=
  let k := (n.log2 : Int) - d.log2
  let (a, b) := scaleRat n d (-k)
  if a < b then k - 1 else k

/-- A code with its sign. -/
def Fp.signed (f : Fp) (neg : Bool) (c : Nat) : Nat := if neg then c + 2 ^ f.signBit else c

/-- Result of an overflow (R71). -/
def Fp.overflow (f : Fp) (env : Env) (neg : Bool) : Nat :=
  let inf := (2 ^ f.eb - 1) * 2 ^ f.fb
  match f with
  | .e4m3 => if env.satf then f.signed neg f.maxCode else f.cnan
  | .e3m2 | .e2m3 | .e2m1 => f.signed neg f.maxCode
  | _ =>
    if f == .e5m2 && env.satf then f.signed neg f.maxCode
    else
      let toInf := env.rm == 0 || env.rm == 2 && neg || env.rm == 3 && !neg
      f.signed neg (if toInf then inf else f.maxCode)

/-- Rounds (-1)^neg × (n / d) × 2^e once (R66, R68, R69). -/
def Fp.round (f : Fp) (env : Env) (neg : Bool) (n d : Nat) (e : Int) : Nat × Flags :=
  if n == 0 then (f.signed neg 0, 0)
  else
    let ex := ilog2 n d + e
    let q := max (ex - f.fb) (f.emin - f.fb)
    let (a, b) := scaleRat n d (e - q)
    let mant := roundDiv env.rm neg a b
    let nx : Flags := if a % b == 0 then 0 else fNX
    let code := ((q - (f.emin - f.fb)).toNat) * 2 ^ f.fb + mant
    if code > f.maxCode then (f.overflow env neg, fOF ||| fNX)
    else
      let (a0, b0) := scaleRat n d (e - (ex - f.fb))
      let tiny := ex < f.emin && !(ex == f.emin - 1 && roundDiv env.rm neg a0 b0 == 2 ^ (f.fb + 1))
      let fl := nx ||| (if tiny && nx != 0 then fUF else 0)
      if f == .fp32 && env.ftz && code != 0 && code < 2 ^ f.fb then (f.signed neg 0, fUF ||| fNX)
      else (f.signed neg code, fl)

/-- Converts a value to a format (R71). -/
def Fp.convert (f : Fp) (env : Env) : Num → Nat × Flags
  | .nan sig =>
    match f with
    | .e3m2 | .e2m3 | .e2m1 => (0, fNV)
    | _ => (f.cnan, if sig then fNV else 0)
  | .inf neg =>
    match f with
    | .e4m3 => if env.satf then (f.signed neg f.maxCode, fOF ||| fNX) else (f.cnan, fNV)
    | .e3m2 | .e2m3 | .e2m1 => (f.signed neg f.maxCode, fNV)
    | .e5m2 => if env.satf then (f.signed neg f.maxCode, fOF ||| fNX) else (f.signed neg 0x7C, 0)
    | _ => (f.signed neg ((2 ^ f.eb - 1) * 2 ^ f.fb), 0)
  | .num neg m e => f.round env neg m 1 e

/-- An FP32 operand, flushed when FTZ asks (R69). -/
def f32In (env : Env) (c : Nat) : Num :=
  match Fp.fp32.decode c with
  | .num neg m e => if env.ftz && c % 2 ^ 31 < 2 ^ 23 then .num neg 0 e else .num neg m e
  | v => v

def cnan32 : Nat := 0x7FC00000
def inf32 (neg : Bool) : Nat := if neg then 0xFF800000 else 0x7F800000

def Num.isSig : Num → Bool
  | .nan s => s
  | _ => false

def Num.isNan : Num → Bool
  | .nan _ => true
  | _ => false

def Num.neg : Num → Num
  | .inf s => .inf (!s)
  | .num s m e => .num (!s) m e
  | v => v

/-- The canonical NaN for operands of which one is a NaN (R67). -/
def nanResult (vs : List Num) : Nat × Flags := (cnan32, if vs.any Num.isSig then fNV else 0)

/-! ## FP32 arithmetic -/

/-- Exact sum of two numbers, rounded once; the sign of an exact zero by R66. -/
def addNum (env : Env) (s1 : Bool) (m1 : Nat) (e1 : Int) (s2 : Bool) (m2 : Nat) (e2 : Int) : Nat × Flags :=
  let e := min e1 e2
  let a := Int.ofNat (m1 * 2 ^ (e1 - e).toNat)
  let b := Int.ofNat (m2 * 2 ^ (e2 - e).toNat)
  let t := (if s1 then -a else a) + (if s2 then -b else b)
  if t == 0 then
    (Fp.fp32.signed (if s1 == s2 then s1 else env.rm == 2) 0, 0)
  else Fp.fp32.round env (t < 0) t.natAbs 1 e

/-- Sum of two values (R145). -/
def addVal (env : Env) : Num → Num → Nat × Flags
  | .num s1 m1 e1, .num s2 m2 e2 => addNum env s1 m1 e1 s2 m2 e2
  | .inf s1, .inf s2 => if s1 == s2 then (inf32 s1, 0) else (cnan32, fNV)
  | .inf s1, .num .. => (inf32 s1, 0)
  | .num .., .inf s2 => (inf32 s2, 0)
  | a, b => nanResult [a, b]

/-- Product of two values, before any rounding; none for an invalid one. -/
def mulExact : Num → Num → Option Num
  | .num s1 m1 e1, .num s2 m2 e2 => some (.num (s1 != s2) (m1 * m2) (e1 + e2))
  | .inf s1, .inf s2 => some (.inf (s1 != s2))
  | .inf s1, .num s2 m _ => if m == 0 then none else some (.inf (s1 != s2))
  | .num s1 m _, .inf s2 => if m == 0 then none else some (.inf (s1 != s2))
  | _, _ => none

/-- Product of two values (R145). -/
def mulVal (env : Env) (a b : Num) : Nat × Flags :=
  if a.isNan || b.isNan then nanResult [a, b]
  else match mulExact a b with
    | none => (cnan32, fNV)
    | some v => Fp.fp32.convert env v

/-- Quotient of two values (R145, R67, R68). -/
def divVal (env : Env) : Num → Num → Nat × Flags
  | .num s1 m1 e1, .num s2 m2 e2 =>
    if m2 == 0 then (if m1 == 0 then (cnan32, fNV) else (inf32 (s1 != s2), fDZ))
    else Fp.fp32.round env (s1 != s2) m1 m2 (e1 - e2)
  | .inf _, .inf _ => (cnan32, fNV)
  | .inf s1, .num s2 _ _ => (inf32 (s1 != s2), 0)
  | .num s1 _ _, .inf s2 => (Fp.fp32.signed (s1 != s2) 0, 0)
  | a, b => nanResult [a, b]

/-- Largest r with r × r ≤ n, from bit `k` down. -/
def isqrtFrom (n : Nat) : Nat → Nat → Nat
  | 0, r => if (r + 1) * (r + 1) ≤ n then r + 1 else r
  | k + 1, r => isqrtFrom n k (if (r + 2 ^ (k + 1)) * (r + 2 ^ (k + 1)) ≤ n then r + 2 ^ (k + 1) else r)

/-- floor(sqrt(n)). -/
def isqrt (n : Nat) : Nat := isqrtFrom n (n.log2 / 2 + 1) 0

/-- sqrt(n × 2^e) for even e, as a number with a sticky last bit, precise enough for one rounding to FP32. -/
def sqrtSticky (n : Nat) (e : Int) : Nat × Int :=
  let k : Nat := 64
  let r := isqrt (n * 2 ^ (2 * k))
  (2 * r + (if r * r == n * 2 ^ (2 * k) then 0 else 1), e / 2 - k - 1)

/-- Square root of a value (R145, R67). -/
def sqrtVal (env : Env) : Num → Nat × Flags
  | .nan s => nanResult [.nan s]
  | .inf neg => if neg then (cnan32, fNV) else (inf32 false, 0)
  | .num neg m e =>
    if m == 0 then (Fp.fp32.signed neg 0, 0)
    else if neg then (cnan32, fNV)
    else
      let (m1, e1) := if e % 2 == 0 then (m, e) else (2 * m, e - 1)
      let (r, k) := sqrtSticky m1 e1
      Fp.fp32.round env false r 1 k

/-- a × b + c with one rounding (R146, R67). -/
def fmaVal (env : Env) (a b c : Num) : Nat × Flags :=
  if a.isNan || b.isNan then
    (cnan32, if a.isSig || b.isSig || c.isSig then fNV else 0)
  else match mulExact a b with
    | none => (cnan32, fNV)
    | some p =>
      match c with
      | .nan s => (cnan32, if s then fNV else 0)
      | c => addVal env p c

/-- Order of two numbers by value: -1, 0 or 1. -/
def cmpNum : Num → Num → Int
  | .num s1 m1 e1, .num s2 m2 e2 =>
    let e := min e1 e2
    let a := Int.ofNat (m1 * 2 ^ (e1 - e).toNat)
    let b := Int.ofNat (m2 * 2 ^ (e2 - e).toNat)
    let x := if s1 then -a else a
    let y := if s2 then -b else b
    if x < y then -1 else if x == y then 0 else 1
  | .inf s1, .inf s2 => if s1 == s2 then 0 else if s1 then -1 else 1
  | .inf s1, _ => if s1 then -1 else 1
  | _, .inf s2 => if s2 then 1 else -1
  | _, _ => 0

/-- Sign of a value. -/
def Num.isNeg : Num → Bool
  | .num s _ _ => s
  | .inf s => s
  | _ => false

/-- The code of a value that FP32 holds exactly. -/
def Num.code32 (v : Num) : Nat := (Fp.fp32.convert Env.rne v).1

/-- The code of an operation's exact result: R69 flushes a subnormal one. -/
def exact32 (env : Env) (v : Num) : Nat × Flags := Fp.fp32.convert env v

/-- Minimum or maximum of R70. -/
def minMaxVal (env : Env) (isMax : Bool) (a b : Num) : Nat × Flags :=
  if a.isNan || b.isNan then nanResult [a, b]
  else
    let c := cmpNum a b
    let first := if c == 0 then (if isMax then !a.isNeg else a.isNeg) else if isMax then c == 1 else c == -1
    exact32 env (if first then a else b)

/-- Largest magnitude, with sign 0 (R70). -/
def amaxVal (env : Env) (a b : Num) : Nat × Flags :=
  if a.isNan || b.isNan then nanResult [a, b]
  else
    let abs := fun v => match v with
      | Num.num _ m e => Num.num false m e
      | Num.inf _ => Num.inf false
      | v => v
    exact32 env (if cmpNum (abs a) (abs b) == 1 then abs a else abs b)

/-- An FP32 operation on codes. -/
def f32Op2 (op : Env → Num → Num → Nat × Flags) (env : Env) (a b : Nat) : Nat × Flags := op env (f32In env a) (f32In env b)

def f32Add := f32Op2 addVal
def f32Sub := f32Op2 fun env a b => match b with
  | .nan _ => addVal env a b
  | v => addVal env a v.neg
def f32Mul := f32Op2 mulVal
def f32Div := f32Op2 divVal
def f32Min := f32Op2 fun env a b => minMaxVal env false a b
def f32Max := f32Op2 fun env a b => minMaxVal env true a b
def f32Sqrt (env : Env) (a : Nat) : Nat × Flags := sqrtVal env (f32In env a)
def f32Fma (env : Env) (a b c : Nat) : Nat × Flags := fmaVal env (f32In env a) (f32In env b) (f32In env c)

/-- FCMP (R147): equality and unordered tests raise NV for a signalling NaN, order tests for any NaN. -/
def f32Cmp (env : Env) (k : FCond) (a b : Nat) : Bool × Flags :=
  let x := f32In env a
  let y := f32In env b
  let un := x.isNan || y.isNan
  let sig := x.isSig || y.isSig
  let c := cmpNum x y
  let fl : Flags := match k with
    | .lt | .le => if un then fNV else 0
    | _ => if sig then fNV else 0
  (match k with
    | .eq => !un && c == 0
    | .ne => un || c != 0
    | .lt => !un && c == -1
    | .le => !un && c != 1
    | .un => un, fl)

/-! ## Integers -/

/-- A value to a signed integer of `w` bits, saturated (R72). -/
def toInt (env : Env) (w : Nat) : Num → Int × Flags
  | .nan _ => (0, fNV)
  | .inf neg => (if neg then -((2 ^ (w - 1) : Nat) : Int) else ((2 ^ (w - 1) : Nat) : Int) - 1, fNV)
  | .num neg m e =>
    let (a, b) := scaleRat m 1 e
    let q := roundDiv env.rm neg a b
    let v : Int := if neg then -(q : Int) else q
    if v < -((2 ^ (w - 1) : Nat) : Int) then (-((2 ^ (w - 1) : Nat) : Int), fNV)
    else if v > ((2 ^ (w - 1) : Nat) : Int) - 1 then (((2 ^ (w - 1) : Nat) : Int) - 1, fNV)
    else (v, if a % b == 0 then 0 else fNX)

/-- A value to an unsigned integer of `w` bits, saturated (R72). -/
def toUInt (env : Env) (w : Nat) : Num → Int × Flags
  | .nan _ => (0, fNV)
  | .inf neg => (if neg then 0 else ((2 ^ w : Nat) : Int) - 1, fNV)
  | .num neg m e =>
    let (a, b) := scaleRat m 1 e
    let q := roundDiv env.rm neg a b
    let v : Int := if neg then -(q : Int) else q
    if v < 0 then (0, fNV)
    else if v > ((2 ^ w : Nat) : Int) - 1 then (((2 ^ w : Nat) : Int) - 1, fNV)
    else (v, if a % b == 0 then 0 else fNX)

/-- An integer as a value. -/
def ofInt (v : Int) : Num := .num (v < 0) v.natAbs 0

end Sys2Proof.Machine
end

