-- ==== Sys2Proof/Machine/Special.lean ====
section
/-! DEFINITION. The special functions of the vector engine (R87 to R96).  Values are FP32 codes. -/

namespace Sys2Proof.Machine

/-! ## Constants: the FP32 values nearest the figures of R87 to R95 -/

def one32 : Nat := 0x3F800000
def half32 : Nat := 0x3F000000
def two32 : Nat := 0x40000000

/-- b1 to b7 (R89). -/
def expB : List Nat := [0x3F317218, 0x3E75FDF0, 0x3D635847, 0x3C1D955B, 0x3AAEC3FF, 0x39218489, 0x377FE5FE]
/-- g2 to g7 (R90). -/
def expG : List Nat := [0x3F000000, 0x3E2AAAAB, 0x3D2AAAAB, 0x3C088889, 0x3AB60B61, 0x39500D01]
/-- d1 to d6 (R91). -/
def logD : List Nat := [0x3F2AAAAB, 0x3ECCCCCD, 0x3E924925, 0x3E638E39, 0x3E3A2E8C, 0x3E1D89D9]
/-- h1 to h6 (R92). -/
def tanhH : List Nat := [0xBEAAAAAB, 0x3E088889, 0xBD5D0DD1, 0x3CB327A4, 0xBC11371B, 0x3B6B69E8]
/-- p1 to p4 (R95). -/
def sinP : List Nat := [0xBE2AAAAB, 0x3C088889, 0xB9500D01, 0x3638EF1D]
/-- c1 to c5 (R95). -/
def cosC : List Nat := [0xBF000000, 0x3D2AAAAB, 0xBAB60B61, 0x37D00D01, 0xB493F27E]
def log2e : Nat := 0x3FB8AA3B
def ln2hi : Nat := 0x3F317200
def ln2lo : Nat := 0x35BFBE8E
def sqrt2c : Nat := 0x3FB504F3
def geluK0 : Nat := 0x3F4C422A
def geluK1 : Nat := 0x3D122279

/-- floor(π × 2^640), which reduces every FP32 argument to its correctly rounded remainder (R95, log 18). -/
def piBits : Nat := 0x3243F6A8885A308D313198A2E03707344A4093822299F31D0082EFA98EC4E6C89452821E638D01377BE5466CF34E90C6CC0AC29B7C97C50DD3F84D5B5B54709179216D5D98979FB1BD1310BA698DFB5AC

/-! ## Steps: R87 computes every intermediate by RNE, without flags and without flushing -/

def rAdd (a b : Nat) : Nat := (f32Add Env.rne a b).1
def rSub (a b : Nat) : Nat := (f32Sub Env.rne a b).1
def rMul (a b : Nat) : Nat := (f32Mul Env.rne a b).1
def rDiv (a b : Nat) : Nat := (f32Div Env.rne a b).1
def rFma (a b c : Nat) : Nat := (f32Fma Env.rne a b c).1

/-- A code with its sign inverted. -/
def negCode (c : Nat) : Nat := c ^^^ 0x80000000
/-- Magnitude of a code. -/
def absCode (c : Nat) : Nat := c % 0x80000000
/-- Magnitude of a code with a sign. -/
def withSign (c : Nat) (neg : Bool) : Nat := absCode c + (if neg then 0x80000000 else 0)

/-- p = the last constant, then p = fma(p, x, c) down to the first one. -/
def horner (cs : List Nat) (x : Nat) : Nat :=
  match cs.reverse with
  | [] => 0
  | c :: rest => rest.foldl (fun p c => rFma p x c) c

/-- Sign, numerator and power of two of a finite code. -/
def parts32 (c : Nat) : Bool × Nat × Int :=
  match Fp.fp32.decode c with
  | .num s m e => (s, m, e)
  | _ => (false, 0, 0)

/-- round_int_rne of a finite code (R89). -/
def rintCode (c : Nat) : Int :=
  let (s, m, e) := parts32 c
  let (a, b) := scaleRat m 1 e
  let q : Int := roundDiv 0 s a b
  if s then -q else q

/-- A small integer as FP32, exact. -/
def intCode (v : Int) : Nat := (Fp.fp32.convert Env.rne (ofInt v)).1

/-- Compares two finite codes by value. -/
def ltCode (a b : Nat) : Bool := cmpNum (Fp.fp32.decode a) (Fp.fp32.decode b) == -1

/-- scale2 (R87). -/
def scale2 (p : Nat) (n : Int) : Nat × Flags :=
  let (s, m, e) := parts32 p
  Fp.fp32.round Env.rne s m 1 (e + n)

/-- Flags of an inexact result that is given without a rounding (R68, log 18). -/
def tinyFlags (c : Nat) : Flags := if absCode c == 0 then 0 else if absCode c < 0x00800000 then fUF ||| fNX else fNX

/-! ## The algorithms, for a finite argument that is not zero: result, and flags of its last rounding (log 18) -/

/-- exp2_core (R89). -/
def exp2Core (x : Nat) : Nat × Flags :=
  if !ltCode x 0x43000000 then (inf32 false, fOF ||| fNX)
  else if ltCode x 0xC3160000 then (0, fUF ||| fNX)
  else
    let n := rintCode x
    let f := rSub x (intCode n)
    scale2 (rFma (horner expB f) f one32) n

/-- exp_core (R90). -/
def expCore (x : Nat) : Nat × Flags :=
  if !ltCode x 0x42B20000 then (inf32 false, fOF ||| fNX)
  else if ltCode x 0xC2D00000 then (0, fUF ||| fNX)
  else
    let n := rintCode (rMul x log2e)
    let v := rFma (intCode (-n)) ln2lo (rFma (intCode (-n)) ln2hi x)
    scale2 (rFma (rFma (horner expG v) v one32) v one32) n

/-- log_core (R91). -/
def logCore (x : Nat) : Nat × Nat :=
  let (_, m, e) := parts32 x
  let k := m.log2
  let mt := (Fp.fp32.round Env.rne false m 1 (-(k : Int))).1
  let big := ltCode sqrt2c mt
  let mt1 := if big then rMul mt half32 else mt
  let ex : Int := e + k + (if big then 1 else 0)
  let s := rDiv (rSub mt1 one32) (rAdd mt1 one32)
  let z := rMul s s
  (rFma (rMul s z) (horner logD z) (rAdd s s), intCode ex)

def log2Fn (x : Nat) : Nat × Flags :=
  let (q, ex) := logCore x
  f32Fma Env.rne q log2e ex

def logFn (x : Nat) : Nat × Flags :=
  let (q, ex) := logCore x
  f32Fma Env.rne ex ln2hi (rFma ex ln2lo q)

/-- tanh_core (R92), whose argument may be infinite (R94). -/
def tanhCore (x : Nat) : Nat × Flags :=
  let a := absCode x
  let r : Nat × Flags :=
    if a == 0x7F800000 then (one32, 0)
    else if !ltCode a 0x41200000 then (one32, fNX)
    else if ltCode a 0x39800000 then (a, tinyFlags a)
    else if ltCode a 0x3E800000 then
      let z := rMul a a
      f32Fma Env.rne a (rMul z (horner tanhH z)) a
    else f32Sub Env.rne one32 (rDiv two32 (rAdd (expCore (rAdd a a)).1 one32))
  (withSign r.1 (x.testBit 31), r.2)

/-- VSIGM (R93). -/
def sigmFn (x : Nat) : Nat × Flags :=
  if !ltCode x 0x41900000 then (one32, fNX)
  else if ltCode x 0xC1800000 then expCore x
  else f32Div Env.rne one32 (rAdd one32 (expCore (negCode x)).1)

/-- VGELU (R94). -/
def geluFn (x : Nat) : Nat × Flags :=
  let w := rMul x (rFma geluK1 (rMul x x) geluK0)
  let hv := rMul half32 x
  f32Fma Env.rne hv (tanhCore w).1 hv

def sinPoly (v : Nat) : Nat × Flags :=
  let z := rMul v v
  f32Fma Env.rne v (rMul z (horner sinP z)) v

def cosPoly (v : Nat) : Nat × Flags :=
  let z := rMul v v
  f32Fma Env.rne z (horner cosC z) one32

/-- n and the reduced argument v of R95. -/
def trigReduce (x : Nat) : Int × Nat :=
  let (s, m, e) := parts32 x
  let sh : Int := 640
  -- |x| × 2 / π as a quotient
  let (a, b) := scaleRat (2 * m * 2 ^ 640) piBits e
  let n := roundDiv 0 false a b
  if n == 0 then (0, x)
  else
    -- |x| − n × π / 2 over 2^(641 + k)
    let k : Nat := (-(min e 0)).toNat
    let t : Int := ((m * 2 ^ (641 + k + e).toNat : Nat) : Int) - ((n * piBits * 2 ^ k : Nat) : Int)
    let v := (Fp.fp32.round Env.rne (t < 0) t.natAbs 1 (-(sh + 1 + k))).1
    if s then (-(n : Int), negCode v) else (n, v)

/-- VSIN and VCOS (R95); `q` is 0 for the sine and 1 for the cosine. -/
def trigFn (q : Int) (x : Nat) : Nat × Flags :=
  if ltCode (absCode x) 0x39800000 then
    (if q == 0 then (x, tinyFlags x) else (one32, if absCode x == 0 then 0 else fNX))
  else
    let (n, v) := trigReduce x
    let k := (n + q) % 4
    let r := if k % 2 == 0 then sinPoly v else cosPoly v
    if 2 ≤ k then (negCode r.1, r.2) else r

/-! ## Special inputs (R96) -/

/-- What R96 gives for +∞, −∞, ±0 and a negative number; none leaves the case to the algorithm. -/
structure Corner where
  posInf : Nat × Flags
  negInf : Nat × Flags
  zero : Nat → Nat × Flags
  neg : Option (Nat × Flags)

/-- One of the nine functions of R89 to R95 on an operand, with the captured FTZ (R69, R87, R96). -/
def special (ftz : Bool) (c : Corner) (f : Nat → Nat × Flags) (x : Nat) : Nat × Flags :=
  match f32In { Env.rne with ftz := ftz } x with
  | .nan s => (cnan32, if s then fNV else 0)
  | .inf s => if s then c.negInf else c.posInf
  | .num s m _ =>
    if m == 0 then c.zero (withSign 0 s)
    else
      match (if s then c.neg else none) with
      | some r => r
      | none =>
        let r := f x
        if ftz && absCode r.1 != 0 && absCode r.1 < 0x00800000 then (withSign 0 (r.1.testBit 31), fUF ||| fNX) else r

def invalid32 : Nat × Flags := (cnan32, fNV)

def cornerExp : Corner := { posInf := (inf32 false, 0), negInf := (0, 0), zero := fun _ => (one32, 0), neg := none }
def cornerLog : Corner :=
  { posInf := (inf32 false, 0), negInf := invalid32, zero := fun _ => (inf32 true, fDZ), neg := some invalid32 }
def cornerTanh : Corner :=
  { posInf := (one32, 0), negInf := (negCode one32, 0), zero := fun z => (z, 0), neg := none }
def cornerSigm : Corner := { posInf := (one32, 0), negInf := (0, 0), zero := fun _ => (half32, 0), neg := none }
def cornerGelu : Corner :=
  { posInf := (inf32 false, 0), negInf := (withSign 0 true, 0), zero := fun z => (z, 0), neg := none }
def cornerSin : Corner := { posInf := invalid32, negInf := invalid32, zero := fun z => (z, 0), neg := none }
def cornerCos : Corner := { posInf := invalid32, negInf := invalid32, zero := fun _ => (one32, 0), neg := none }

def vExp2 (ftz : Bool) : Nat → Nat × Flags := special ftz cornerExp exp2Core
def vExp (ftz : Bool) : Nat → Nat × Flags := special ftz cornerExp expCore
def vLog2 (ftz : Bool) : Nat → Nat × Flags := special ftz cornerLog log2Fn
def vLog (ftz : Bool) : Nat → Nat × Flags := special ftz cornerLog logFn
def vTanh (ftz : Bool) : Nat → Nat × Flags := special ftz cornerTanh tanhCore
def vSigm (ftz : Bool) : Nat → Nat × Flags := special ftz cornerSigm sigmFn
def vGelu (ftz : Bool) : Nat → Nat × Flags := special ftz cornerGelu geluFn
def vSin (ftz : Bool) : Nat → Nat × Flags := special ftz cornerSin (trigFn 0)
def vCos (ftz : Bool) : Nat → Nat × Flags := special ftz cornerCos (trigFn 1)

/-- VRCP (R88). -/
def vRcp (env : Env) (x : Nat) : Nat × Flags := f32Div env one32 x

/-- VRSQ (R88). -/
def vRsq (env : Env) (x : Nat) : Nat × Flags :=
  match f32In env x with
  | .nan s => nanResult [.nan s]
  | .inf neg => if neg then (cnan32, fNV) else (0, 0)
  | .num neg m e =>
    if m == 0 then (inf32 neg, fDZ)
    else if neg then (cnan32, fNV)
    else
      -- 1 / √(m × 2^e) from the root of 2^(2t) / m, with a sticky bit
      let (m1, e1) := if e % 2 == 0 then (m, e) else (2 * m, e - 1)
      let t : Nat := 128
      let r := isqrt (2 ^ (2 * t) / m1)
      let st := if r * r * m1 == 2 ^ (2 * t) then 0 else 1
      Fp.fp32.round env false (2 * r + st) 1 (-(e1 / 2) - t - 1)

end Sys2Proof.Machine
end

