-- ==== Sys2Proof/Machine/Blocks.lean ====
section
/-! DEFINITION. Narrow elements, scaled blocks, quantisation and reduction trees (R21, R22, R57 to R75, R84 to R86). -/

namespace Sys2Proof.Machine

/-! ## Packed elements (R22, R57) -/

/-- Element `k` of width `w` in a byte string, packed little-endian. -/
def elemAt (bs : List Byte) (w k : Nat) : Nat := leNat bs / 2 ^ (w * k) % 2 ^ w

/-- `n` elements of width `w` of a byte string. -/
def elemsOf (bs : List Byte) (w n : Nat) : List Nat :=
  let v := leNat bs
  (List.range n).map fun k => v / 2 ^ (w * k) % 2 ^ w

/-- Elements of width `w` as one little-endian number. -/
def packNat (w : Nat) : List Nat → Nat
  | [] => 0
  | v :: vs => v % 2 ^ w + 2 ^ w * packNat w vs

/-- Elements of width `w` as a byte string; the last byte is filled with zeros. -/
def packElems (w : Nat) (vs : List Nat) : List Byte := leBytes ((vs.length * w + 7) / 8) (packNat w vs)

/-! ## Narrow formats -/

/-- A narrow element format: floating point, a signed integer of a width, or a codebook index (R21, R60). -/
inductive Narrow | fp (f : Fp) | int (w : Nat) | cb4
  deriving DecidableEq, Repr

/-- Narrow format of a format code (R21, R53). -/
def narrowOf (fmt : Nat) : Option Narrow :=
  match fmt with
  | 0x21 => some (.fp .e2m1) | 0x22 => some (.int 4) | 0x23 => some .cb4
  | 0x41 => some (.fp .e3m2) | 0x42 => some (.fp .e2m3)
  | 0x61 => some (.fp .e4m3) | 0x62 => some (.fp .e5m2) | 0x63 => some (.int 8)
  | _ => none

/-- Class of a format code: its upper three bits, which give the width (R21). -/
def fmtClass (fmt : Nat) : Nat := fmt / 32

/-! ## Scale words (R58 to R62) -/

def swFmt (w : Nat) : Nat := w % 256
def swExp (w : Nat) : Nat := w / 2 ^ 8 % 256
def swFine (w : Nat) : Nat := w / 2 ^ 16 % 256
def swAux (w : Nat) : Nat := w / 2 ^ 24 % 256

/-- AUX is permitted for the block's format (R60, R65); `cb` says which codebooks are loaded. -/
def auxOk (f : Narrow) (aux : Nat) (cb : Nat → Bool) : Bool :=
  match f with
  | .fp _ => aux == 0
  | .int _ => true
  | .cb4 => aux < 4 && cb aux

/-- A signed number of `w` bits. -/
def signedOf (w v : Nat) : Int := if v % 2 ^ w < 2 ^ (w - 1) then v % 2 ^ w else (v % 2 ^ w : Int) - 2 ^ w

/-- Value of a code before scaling (R54, R60): `z` is the zero point, `cb` the codebook. -/
def Narrow.value (f : Narrow) (z : Int) (cb : Nat → Nat) (c : Nat) : Num :=
  match f with
  | .fp g => g.decode c
  | .int w => ofInt (signedOf w c - z)
  | .cb4 => Fp.bf16.decode (cb c)

/-- A value times scale(w) (R59, R60); infinities and NaN keep their meaning. -/
def scaleNum (w : Nat) : Num → Num
  | .num s m e => .num s (m * (256 + swFine w)) (e + swExp w - 135)
  | .nan _ => .nan false
  | v => v

/-- Zero point of an integer block (R58). -/
def zeroPoint (w : Nat) : Int := signedOf 8 (swAux w)

/-- Element of a block as FP32 (R73, R62). -/
def dequant (env : Env) (w : Nat) (f : Narrow) (cb : Nat → Nat) (c : Nat) : Nat × Flags :=
  if swFmt w == 0 then (0, 0)
  else if swExp w == 0xFF then (cnan32, 0)
  else Fp.fp32.convert env (scaleNum w (f.value (match f with | .int _ => zeroPoint w | _ => 0) cb c))

/-! ## Quantising (R74, R75) -/

/-- Twice the quantiser limit Q, and the top exponent m (R74). -/
def Narrow.limit : Narrow → Nat × Int
  | .fp .e2m1 => (12, 2) | .fp .e2m3 => (15, 2) | .fp .e3m2 => (56, 4) | .fp .e4m3 => (896, 8)
  | .fp .e5m2 => (114688, 15) | .int 4 => (14, 2) | _ => (254, 6)

/-- One element of a quantised block: x / s rounded once (R75). -/
def quantOne (env : Env) (f : Narrow) (E : Int) (F : Nat) (x : Nat) : Nat × Flags :=
  match f32In env x with
  | .num s m e =>
    match f with
    | .fp g => if m == 0 then (g.signed s 0, 0) else g.round env s m (256 + F) (e - E + 8)
    | .int w =>
      let (a, b) := scaleRat m (256 + F) (e - E + 8)
      let q := roundDiv env.rm s a b
      ((if s then 2 ^ w - q else q) % 2 ^ w, if a % b == 0 then 0 else fNX)
    | .cb4 => (0, 0)
  | _ => (0, 0)

/-- quantise_block (R75): the scale word, the codes and the flags. -/
def quantise (env : Env) (fmt : Nat) (f : Narrow) (xs : List Nat) : Nat × List Nat × Flags :=
  let bad := xs.any fun x => match f32In env x with
    | .num .. => false
    | _ => true
  if bad then (fmt + 0xFF * 2 ^ 8, xs.map fun _ => 0, fNV)
  else
    let mag := fun x => match f32In env x with
      | .num _ m _ => if m == 0 then 0 else absCode x
      | _ => 0
    let amax := xs.foldl (fun a x => Nat.max a (mag x)) 0
    if amax == 0 then (0, xs.map fun _ => 0, 0)
    else
      let (_, m, e) := parts32 amax
      let E := max (-127) (ilog2 m 1 + e - f.limit.2)
      let (a, b) := scaleRat (256 * m) f.limit.1 (e + 1 - E)
      let F := (a + b - 1) / b - 256
      let rs := xs.map (quantOne env f E F)
      (fmt + (E + 127).toNat * 2 ^ 8 + F * 2 ^ 16, rs.map (·.1), rs.foldl (fun fl r => fl ||| r.2) 0)

/-! ## Values converted on their own -/

/-- A narrow code widened to FP32 without a scale (R71, R229); an integer code gives its value. -/
def widenNarrow (env : Env) (g : Fp) (c : Nat) : Nat × Flags := Fp.fp32.convert env (g.decode c)

/-- An FP32 value to a floating-point format (R71). -/
def f32To (env : Env) (g : Fp) (x : Nat) : Nat × Flags := g.convert env (f32In env x)

/-! ## Reductions (R84 to R86) -/

/-- Sub-operations of a reduction (R118). -/
inductive RedOp | sum | max | min | amax
  deriving DecidableEq, Repr

def redOpOf (k : Nat) : RedOp := match k % 4 with
  | 0 => .sum | 1 => .max | 2 => .min | _ => .amax

/-- min(|y|, 2^31 − 1) of an INT32 pattern (R84). -/
def intMag (y : Nat) : Nat := Nat.min (signedOf 32 y).natAbs (2 ^ 31 - 1)

/-- A node of a tree or a step of a scan on two patterns. -/
def redNode (env : Env) (isInt : Bool) (op : RedOp) (a b : Nat) : Nat × Flags :=
  if isInt then
    (match op with
      | .sum => (a + b) % 2 ^ 32
      | .max => if signedOf 32 a < signedOf 32 b then b else a
      | .min => if signedOf 32 b < signedOf 32 a then b else a
      | .amax => Nat.max (intMag a) (intMag b), 0)
  else
    match op with
    | .sum => f32Add env a b
    | .max => f32Max env a b
    | .min => f32Min env a b
    | .amax => f32Op2 amaxVal env a b

/-- amax1 (R84); the other sub-operations pass a value unchanged. -/
def redOne (env : Env) (isInt : Bool) (op : RedOp) (y : Nat) : Nat × Flags :=
  if op == .amax then (if isInt then (intMag y, 0) else f32Op2 amaxVal env y y) else (y, 0)

/-- One level of the pairwise tree. -/
def treeLevel (node : Nat → Nat → Nat × Flags) : List Nat → List Nat × Flags
  | a :: b :: rest =>
    let r := node a b
    let t := treeLevel node rest
    (r.1 :: t.1, r.2 ||| t.2)
  | l => (l, 0)

/-- Levels of the tree until one value is left; `fuel` is the number of values. -/
def treeFold (node : Nat → Nat → Nat × Flags) : Nat → List Nat → Flags → Nat × Flags
  | 0, l, fl => (l.headD 0, fl)
  | fuel + 1, l, fl =>
    match l with
    | _ :: _ :: _ =>
      let r := treeLevel node l
      treeFold node fuel r.1 (fl ||| r.2)
    | _ => (l.headD 0, fl)

/-- tree_reduce (R84). -/
def treeReduce (env : Env) (isInt : Bool) (op : RedOp) (ys : List Nat) : Nat × Flags :=
  let r := treeFold (redNode env isInt op) ys.length ys 0
  let o := redOne env isInt op r.1
  (o.1, r.2 ||| o.2)

/-- XSCAN.ROW (R85). -/
def scanFrom (env : Env) (isInt : Bool) (op : RedOp) : Nat → List Nat → List Nat × Flags
  | _, [] => ([], 0)
  | acc, y :: ys =>
    let r := redNode env isInt op acc y
    let t := scanFrom env isInt op r.1 ys
    (r.1 :: t.1, r.2 ||| t.2)

def scanRow (env : Env) (isInt : Bool) (op : RedOp) : List Nat → List Nat × Flags
  | [] => ([], 0)
  | y :: ys =>
    let o := redOne env isInt op y
    let t := scanFrom env isInt op o.1 ys
    (o.1 :: t.1, o.2 ||| t.2)

end Sys2Proof.Machine
end

