-- ==== Sys2Proof/Machine/Memory.lean ====
section
/-! DEFINITION. Scratch and device memory: translation (R386 to R388), the address check (R34, R164), L1 copies
(R349 to R360), poison (R165, R357), race detection (R314 to R322) and Pleat store buffers (R211, R212). -/

namespace Sys2Proof.Machine

/-! ## Poison and page modes -/

/-- A granule has a byte in a range. -/
def granuleMeets (p n g : Nat) : Bool := 32 * g < p + n && p < 32 * g + 32

/-- Whether a byte of a range lies in a granule that is poisoned, or that cannot be corrected (R165, R357). -/
def State.poisoned (s : State) (p n : Nat) : Bool := s.poison.any (granuleMeets p n) || s.worn.any (granuleMeets p n)

/-- Subcode of an ECC error of a range: consumed poison, or an uncorrectable error met at the access itself, which comes first
(R380).  Such a granule stays as it is until the scrubber poisons it or a write covers it (log 12). -/
def State.eccSub (s : State) (p n : Nat) : Byte := if s.worn.any (granuleMeets p n) then 2 else 1

/-- Page mode (R360). -/
def State.isSw (s : State) (p : Nat) : Bool := isDev p && s.swPages.contains (p / 65536)

/-! ## Translation -/

/-- One level of the table: lowest index bit, index bits, and whether a leaf or a table may stand here (R386). -/
structure Level where
  shift : Nat
  bits : Nat
  leaf : Bool
  table : Bool
  deriving DecidableEq, Repr

/-- Levels 0 to 3 (R386, R388). -/
def levels : List Level :=
  [⟨39, 13, false, true⟩, ⟨30, 9, true, true⟩, ⟨21, 9, true, true⟩, ⟨16, 5, true, false⟩]

/-- Size in bytes of the table of the next level (R386). -/
def nextTable (l : Level) : Nat := if l.shift == 21 then 256 else 4096

/-- A leaf's page lies inside a region of R355, and outside the pool cache. -/
def State.pageMapped (s : State) (pa size : Nat) : Bool :=
  pa + size ≤ (768 - s.mgmt.pcsize.toNat) * 2 ^ 30 || (0x010000000000 ≤ pa && pa + size ≤ 0x030000000000)

/-- What a translation gives: the physical address and the rights of its page (R387). -/
structure Frame where
  pa : Nat
  r : Bool
  w : Bool
  x : Bool
  deriving DecidableEq, Repr

/-- The walk from a table at `root` (R386 to R388); an error is an XLAT subcode. -/
def State.walk (s : State) (va : Nat) : List Level → Nat → Except Byte Frame
  | [], _ => .error 4
  | l :: ls, root =>
    let e : Word := BitVec.ofNat 64 (leNat (cellsRead s.mem (root + 8 * (va / 2 ^ l.shift % 2 ^ l.bits)) 8))
    let pa := bitsAt e 8 40 * 256
    if !bitAt e 0 then .error 0
    else if bitsAt e 5 3 != 0 || bitsAt e 48 16 != 0 then .error 4
    else if bitAt e 1 then
      if !l.leaf || pa % 2 ^ l.shift != 0 || !s.pageMapped pa (2 ^ l.shift) then .error 4
      else .ok { pa := pa + va % 2 ^ l.shift, r := bitAt e 2, w := bitAt e 3, x := bitAt e 4 }
    else if !l.table || pa % nextTable l != 0 then .error 4
    else s.walk va ls pa

/-- Translation through the table of a slot (R386, R389); an error is an XLAT subcode (R380). -/
def State.frame (s : State) (slot : Fin 16) (va : Nat) : Except Byte Frame :=
  let t := s.slots[slot].troot
  if va ≥ 2 ^ 52 || !bitAt t 0 then .error 0 else s.walk va levels (bitsAt t 16 32 * 65536)

/-- What an access needs of a page (R387): an atomic and HST need both R and W. -/
inductive Need | read | write | both | exec
  deriving DecidableEq, Repr

def Need.writes : Need → Bool
  | .write => true
  | .both => true
  | _ => false

def Need.reads : Need → Bool
  | .read => true
  | .both => true
  | _ => false

/-- The rights of a frame against a need (R380). -/
def Frame.grant (f : Frame) (need : Need) : Except Byte Nat :=
  if need.reads && !f.r then .error 1
  else if need.writes && !f.w then .error 2
  else if need == .exec && !f.x then .error 3
  else .ok f.pa

/-- A held translation as a frame for an address of its page. -/
def Held.frame (h : Held) (va : Nat) : Frame := { pa := h.pa + va % 65536, r := h.r, w := h.w, x := h.x }

/-- Holds a translation, in place of an older one of the same page. -/
def State.hold (s : State) (slot : Fin 16) (va : Nat) (f : Frame) : State :=
  { s with tlb := { slot := slot, page := va / 65536, pa := f.pa - va % 65536, r := f.r, w := f.w, x := f.x } ::
      s.tlb.filter fun h => !(h.slot == slot && h.page == va / 65536) }

/-- Physical address of a virtual one, or the XLAT subcode (R380).  A translation that is held although the table
has changed since may still be used until it is invalidated: a free value (R389, R390, log 12). -/
def State.xlate (s : State) (slot : Fin 16) (va : Nat) (need : Need) : State × Except Byte Nat :=
  let walk := s.frame slot va
  let use := fun (s : State) => match walk with
    | .ok f => (s.hold slot va f, f.grant need)
    | .error e => (s, .error e)
  match s.tlb.find? fun h => h.slot == slot && h.page == va / 65536 with
  | none => use s
  | some h =>
    if (match walk with | .ok f => f == h.frame va | .error _ => false) then (s, (h.frame va).grant need)
    else if Config.keepsLine s.fresh then ({ s with fresh := s.fresh + 1 }, (h.frame va).grant need)
    else use { s with fresh := s.fresh + 1 }

/-! ## The address check -/

/-- Role of a bank (R32). -/
def Core.role (c : Core) (b : Nat) : Nat := bitsAt c.bankrole (2 * b) 2

/-- Banks that a team owns on a core: the BANKOWN of its members there (R35). -/
def State.teamBanks (s : State) (team : Option Nat) (c : CoreId) : IWord :=
  match (s.core c).ctx.toList.find? fun y => y.team.isSome && y.team == team with
  | some y => y.bankown
  | none => 0

/-- check_bank of R34, for the own core and for a cluster peer. -/
def State.bankOk (s : State) (w : Who) (c : CoreId) (b : Nat) : Bool :=
  (s.core c).role b == 1 &&
    (if c == w.core then (s.ctxOf w).bankown.getLsbD b else (s.teamBanks (s.ctxOf w).team c).getLsbD b)

/-- check_addr of R164, for a naturally aligned size: the place of the access. -/
def State.checkAddr (s : State) (w : Who) (a : Word) (n : Nat) (need : Need) : Except Stop (State × Nat) :=
  let v := a.toNat
  if v % n != 0 then trap Cause.align 0 a
  else if v < 0x200000 then
    if s.bankOk w w.core (v / 65536) then .ok (s, scratchPlace w.core v) else trap Cause.addr 0 a
  else if 0x01000000 ≤ v && v < 0x02000000 then
    let c := clusterMate w.core ((v - 0x01000000) / 2 ^ 21)
    if s.bankOk w c (v % 2 ^ 21 / 65536) then .ok (s, scratchPlace c (v % 2 ^ 21)) else trap Cause.addr 0 a
  else if v < 0x0001000000000000 then trap Cause.addr 0 a
  else
    match s.xlate (s.ctxOf w).slot v need with
    | (s1, .ok p) => .ok (s1, p)
    | (_, .error e) => trap Cause.xlat e a

/-! ## L1 copies -/

/-- The core whose L1 may hold a line: the accessing core, or its home member in a fused cluster (R349, R354). -/
def State.l1Home (s : State) (c : CoreId) (p : Nat) : CoreId :=
  if s.fused.getLsbD (c.val / 8) then clusterMate c ((p / 128 % 8) ^^^ (p / 1024 % 8)) else c

/-- A core with a CACHE bank keeps lines (R349). -/
def Core.caches (c : Core) : Bool := (List.range 32).any fun b => c.role b == 0

/-- Ways of a core's L1: its CACHE banks (R349). -/
def Core.ways (c : Core) : Nat := ((List.range 32).filter fun b => c.role b == 0).length

/-- The home slice recalls a line that another core's L1 owns: the owner writes it back (R351).  Memory has the bytes
already. -/
def State.recall (s : State) (c : CoreId) (line : Nat) : State :=
  if s.dirty.isEmpty then s else { s with dirty := s.dirty.filter fun d => !(d.1 == line && d.2 != c) }

/-- The home slices recall every owned line of coherent pages that a range meets (R351, R360). -/
def State.recallRange (s : State) (p n : Nat) : State :=
  if !isDev p || s.dirty.isEmpty then s
  else { s with dirty := s.dirty.filter fun d => !(p / 128 ≤ d.1 && d.1 ≤ (p + n - 1) / 128 && !s.isSw (128 * d.1)) }

/-- A copy leaves a core's L1; a dirty one is written back (R349, R360). -/
def State.evict (s : State) (c : CoreId) (l : L1Line) : State :=
  let s1 := s.writeBack c l
  { s1.modCore c fun k => { k with l1 := k.l1.filter fun m => m.line != l.line } with
    dirty := s1.dirty.filter fun d => !(d.1 == l.line && d.2 == c) }

/-- A line leaves a core's L1. -/
def State.evictLine (s : State) (c : CoreId) (line : Nat) : State :=
  match (s.core c).l1.find? fun l => l.line == line with
  | some l => s.evict c l
  | none => { s with dirty := s.dirty.filter fun d => !(d.1 == line && d.2 == c) }

/-- The other lines that stand in the set of a line in a core's L1: copies of software-managed lines, and owned lines of
coherent pages (R349).  A clean line of a coherent page is not listed, since its bytes are the memory's. -/
def State.setMates (s : State) (c : CoreId) (line : Nat) : List Nat :=
  (((s.core c).l1.map (·.line)) ++ (s.dirty.filter fun d => d.2 == c).map (·.1)).eraseDups.filter fun l =>
    l != line && l % 512 == line % 512

/-- A core's L1 holds a line. -/
def State.inL1 (s : State) (c : CoreId) (line : Nat) : Bool :=
  s.dirty.contains (line, c) || (s.core c).l1.any fun l => l.line == line

/-- A line that misses takes a way of its set: a full set gives up a line, and one with room may have to, since clean lines of
coherent pages stand in it too.  Which line leaves is not architectural (R349, log 12). -/
def State.makeRoom (s : State) (c : CoreId) (line : Nat) : State :=
  if !(s.core c).caches || s.inL1 c line then s
  else
    match s.setMates c line with
    | [] => s
    | m :: ms =>
      let s1 := { s with fresh := s.fresh + 1 }
      if ms.length + 1 < (s.core c).ways && Config.keepsLine s.fresh then s1
      else s1.evictLine c ((m :: ms).getD (Config.victim s.fresh % (ms.length + 1)) m)

/-- Whether a copy is still there is a free value each time that it is looked for (log 12). -/
def State.probe (s : State) (c : CoreId) (p : Nat) : State × Option L1Line :=
  match (s.core c).l1.find? fun l => l.line == p / 128 with
  | none => (s, none)
  | some l =>
    let s1 := { s with fresh := s.fresh + 1 }
    if Config.keepsLine s.fresh then (s1, some l) else (s1.evict c l, none)

/-- Puts a copy into an L1 that keeps lines.  A line with a poisoned granule is not kept (log 12). -/
def State.fill (s : State) (c : CoreId) (l : L1Line) : State :=
  if (s.core c).caches && !s.poisoned (128 * l.line) 128 then
    s.modCore c fun k => { k with l1 := l :: k.l1.filter fun m => m.line != l.line }
  else s

/-- The copy of the line of a place in a core's L1. -/
def State.copyOf (s : State) (c : CoreId) (p : Nat) : Option L1Line := (s.core c).l1.find? fun l => l.line == p / 128

/-- A scalar read of storage by a core, through its L1 (R303, R349, R351, R360). -/
def State.coreRead (s : State) (c : CoreId) (p n : Nat) : State × List Byte :=
  if isDev p then
    let h := s.l1Home c p
    if s.isSw p then
      match s.copyOf h p with
      | some l => (s, (l.bytes.drop (p % 128)).take n)
      | none =>
        ((s.makeRoom h (p / 128)).fill h { line := p / 128, dirty := false, bytes := s.rawRead (p / 128 * 128) 128 },
          s.rawRead p n)
    else ((s.recall h (p / 128)).makeRoom h (p / 128), s.rawRead p n)
  else (s, s.rawRead p n)

/-- DIRTYLIM of a core (R24). -/
def Core.limit (c : Core) : Nat := c.dirtylim.toNat

/-- Number of dirty lines of a core (R352). -/
def State.dirtyCount (s : State) (c : CoreId) : Nat := (s.dirty.filter fun d => d.2 == c).length

/-- The oldest dirty line of a core is written back (R166); the core keeps a clean copy of it. -/
def State.writeOldest (s : State) (c : CoreId) : State :=
  match s.dirty.find? fun d => d.2 == c with
  | none => s
  | some (line, _) =>
    let s1 := { s with dirty := s.dirty.filter fun d => !(d.1 == line && d.2 == c) }
    match (s.core c).l1.find? fun l => l.line == line && l.dirty with
    | some l =>
      (s1.writeBack c l).modCore c fun k =>
        { k with l1 := k.l1.map fun m => if m.line == line then { m with dirty := false } else m }
    | none => s1

/-- The oldest dirty lines of a core are written back, at most `n`, until it has no more than `most` (R166, R352). -/
def State.drainDirty (s : State) (c : CoreId) (most : Nat) : Nat → State
  | 0 => s
  | n + 1 => if s.dirtyCount c ≤ most then s else (s.writeOldest c).drainDirty c most n

/-- A line becomes dirty in a core's L1, after the oldest ones have made room for it (R166, R351, R352). -/
def State.markDirty (s : State) (c : CoreId) (line : Nat) : State :=
  if !(s.core c).caches || s.dirty.contains (line, c) then s
  else
    let s1 := s.drainDirty c ((s.core c).limit - 1) (s.dirtyCount c)
    { s1 with dirty := s1.dirty ++ [(line, c)] }

/-- `bs` with the bytes `v` put at an offset. -/
def patchBytes (bs : List Byte) (off : Nat) (v : List Byte) : List Byte :=
  bs.take off ++ v ++ bs.drop (off + v.length)

/-- A scalar write of storage by a core (R349, R351, R360).  A store to a software-managed line with a poisoned granule goes to
memory at once. -/
def State.corePut (s : State) (c : CoreId) (p : Nat) (bs : List Byte) : State :=
  if isDev p then
    let h := s.l1Home c p
    if s.isSw p then
      let old := s.copyOf h p
      if (s.core h).caches && (old.isSome || !s.poisoned (p / 128 * 128) 128) then
        let bytes := match old with
          | some l => l.bytes
          | none => s.rawRead (p / 128 * 128) 128
        ((s.makeRoom h (p / 128)).markDirty h (p / 128)).modCore h fun k => { k with
          l1 := { line := p / 128, dirty := true, bytes := patchBytes bytes (p % 128) bs } :: k.l1.filter fun m =>
            m.line != p / 128 }
      else s.rawPut p bs
    else (((s.recall h (p / 128)).makeRoom h (p / 128)).rawPut p bs).markDirty h (p / 128)
  else s.rawPut p bs

/-- A context's store, which other members' commands read from now on (R299), and which is no atomic access (R297). -/
def State.coreWrite (s : State) (c : CoreId) (p : Nat) (bs : List Byte) : State :=
  ((s.corePut c p bs).unhide p bs.length fun _ => false).markPlain p bs.length

/-- A write at the home slice by an engine or another agent: it recalls an owned line of a coherent page, and passes
by the copies of a software-managed one (R351, R360).  It is one of an atomic access (R297). -/
def State.homePut (s : State) (p : Nat) (bs : List Byte) : State :=
  ((s.recallRange p bs.length).rawPut p bs).unhide p bs.length fun _ => false

/-- The same by an access that is not atomic. -/
def State.homeWrite (s : State) (p : Nat) (bs : List Byte) : State := (s.homePut p bs).markPlain p bs.length

/-! ## Pleat store buffers -/

/-- Bytes of a buffer over committed ones (R212). -/
def overlay (buf : List Host.Cell) (p : Nat) (bs : List Byte) : List Byte :=
  bs.mapIdx fun k b => match buf.find? fun c => c.1 == p + k with
    | some c => c.2
    | none => b

/-- Number of 128-byte lines that a buffer holds (R212). -/
def bufferLines (buf : List Host.Cell) : Nat := ((buf.map fun c => c.1 / 128).eraseDups).length

/-- Whether two ranges of places share a byte with a list of places. -/
def touches (ps : List Nat) (p n : Nat) : Bool := ps.any fun q => p ≤ q && q < p + n

/-- What a read by a position gives (R211 rule 4, R212): nothing when it rejects the position. -/
def State.posRead (s : State) (team : Nat) (r : Region) (k : Nat) (p : Nat) (bs : List Byte) : State × Option (List Byte) :=
  if (r.pos.take k).any fun q => touches (q.buf.map (·.1)) p bs.length then (s.rejectFrom team k, none)
  else
    let own := match r.pos[k]? with
      | some q => q.buf
      | none => []
    (s.modRegion team fun r => r.modPos k fun q => { q with reads := (List.range bs.length).map (p + ·) ++ q.reads },
      some (overlay own p bs))

/-- A buffered store by a position; a later position that has read its bytes is rejected at once (R211 rule 4, R212).
`none` when the buffer would overflow. -/
def State.posWrite (s : State) (team : Nat) (r : Region) (k : Nat) (p : Nat) (bs : List Byte) : Option State :=
  match r.pos[k]? with
  | none => some s
  | some q =>
    let buf := (bs.mapIdx fun j b => (p + j, b)).reverse ++ q.buf
    let whole := ((List.range (bs.length / 32 + 1)).map (p / 32 + ·)).filter (coversGranule p bs.length)
    if bufferLines buf > 256 then none
    else
      let s1 := s.modRegion team fun r => r.modPos k fun q => { q with buf := buf, whole := whole ++ q.whole }
      match (List.range r.pos.length).find? fun j => k < j && touches ((r.pos[j]?.map (·.reads)).getD []) p bs.length with
      | some j => some (s1.rejectFrom team j)
      | none => some s1

/-- One committed byte reaches memory.  The members' L1s give up their copies of its line, so that each member reads it (R212,
R313). -/
def State.commitByte (s : State) (cores : List CoreId) (b : Host.Cell) : State :=
  (cores.foldl (fun s c => if s.isSw b.1 then s.evictLine (s.l1Home c b.1) (b.1 / 128) else s) s).homeWrite b.1 [b.2]

/-- Writes a position's buffer to memory in program order (R212); granules that one of its writes covers whole are healed
(R357). -/
def State.writeBuffer (s : State) (cores : List CoreId) (q : Position) : State :=
  (q.buf.reverse.foldl (fun s b => s.commitByte cores b) s).heal q.whole.contains

/-- Cores of a team's members. -/
def Team.memberCores (t : Team) : List CoreId := (t.placedWho.map (·.core)).eraseDups

/-- A change of storage by a member's own stores: what its commands read of the bytes before stands, as `old` has it (R304). -/
def State.keepHides (s old : State) (x : Ctx) : State :=
  if old.hides.isEmpty then s
  else { s with hides := old.hides.filter (fun h => h.isOf x) ++ s.hides.filter fun h => !h.isOf x }

/-- Position 0's buffer overflows: the later positions are rejected, its buffer is committed, and its stores are
performed directly from then on (R212). -/
def State.overflowZero (s : State) (team : Nat) : State :=
  let s1 := s.rejectFrom team 1
  match s.teamAt team with
  | some t =>
    match t.region.bind fun r => r.pos[0]? with
    | some q =>
      ((s1.writeBuffer t.memberCores q).keepHides s1 ((t.whoOf 0).elim Ctx.reset s1.ctxOf)).modRegion team fun r =>
        r.modPos 0 fun q => { q with buf := [], whole := [], checks := [], direct := true }
    | none => s1
  | none => s1

/-- A read of storage on behalf of a context: through its L1 for a scalar access, at the home for an engine, and
through its store buffer in a Pleat position.  `none` when the read killed the position. -/
def State.readAs (s : State) (w : Who) (scalar : Bool) (p n : Nat) : State × Option (List Byte) :=
  let (s1, bs) := if scalar then s.coreRead w.core p n else (s.recallRange p n, s.rawRead p n)
  let x := s.ctxOf w
  match s.positionOf x with
  | some (t, r, _) => s1.posRead t.id r x.rank p bs
  | none => (s1, some bs)

/-- A store of a member to `n` bytes is about to be made, whose next command and epoch at the store are given: its unfinished
commands keep what the bytes hold now, as the member's own Pleat position reads it.  What commands that have all finished kept is
forgotten. -/
def State.hideAs (s : State) (x : Ctx) (before epoch p n : Nat) : State :=
  if x.queues.toList.all fun q => q.all fun c => c.phase == .done then
    if s.hides.isEmpty then s else { s with hides := s.hides.filter fun h => !h.isOf x }
  else
    let own := match s.positionOf x with
      | some (_, _, q) => q.buf
      | none => []
    { s with hides := s.hides ++ (overlay own p (s.rawRead p n)).mapIdx fun k b =>
        ({ team := x.team, rank := x.rank, before := before, epoch := epoch, place := p + k, old := b } : Hidden) }

/-- A scalar store of the context is about to be made. -/
def State.hideStore (s : State) (w : Who) (p n : Nat) : State :=
  let x := s.ctxOf w
  s.hideAs x x.order (x.clock[x.rank]?.getD 0).toNat p n

/-- What a command of a member reads of a byte: the oldest value that a later store of the member replaced, when no token orders
the command behind that store (R304). -/
def State.seenBy (s : State) (x : Ctx) (c : Cmd) (p : Nat) (b : Byte) : Byte :=
  match s.hides.find? fun h => h.isOf x && h.place == p && c.order < h.before && (c.clock[x.rank]?.getD 0).toNat < h.epoch with
  | some h => h.old
  | none => b

/-- A store by the context that goes to storage at once, behind whose bytes its unfinished commands keep the older ones. -/
def State.scalarPut (s : State) (w : Who) (p n : Nat) (f : State → State) : State :=
  (f (s.hideStore w p n)).keepHides (s.hideStore w p n) (s.ctxOf w)

/-- A write of storage on behalf of a context.  In a Pleat position writes to device memory are buffered; those to scratch are
visible at once and stay (R211 to R213, R313).  `none` when a position p ≥ 1 stops because its buffer is full. -/
def State.writeAs (s : State) (w : Who) (scalar : Bool) (p : Nat) (bs : List Byte) : Option State :=
  let direct := fun (s : State) =>
    if scalar then s.scalarPut w p bs.length fun s => s.coreWrite w.core p bs else s.homeWrite p bs
  let x := s.ctxOf w
  match s.positionOf x with
  | some (t, r, q) =>
    if q.direct || !isDev p then some (direct s)
    else
      let s0 := if scalar then s.hideStore w p bs.length else s.unhide p bs.length fun h => !h.isOf x
      match s0.posWrite t.id r x.rank p bs with
      | some s1 => some s1
      | none => if x.rank == 0 then some (direct (s.overflowZero t.id)) else none
  | none => some (direct s)

/-! ## Race detection -/

/-- Width in bits of a format (R21). -/
def fmtWidth (fmt wc : Nat) : Nat :=
  if fmt == 0xFE then (if wc == 1 then 4 else if wc == 2 then 6 else 8)
  else match fmt / 32 with
    | 0 => 1
    | 1 => 4
    | 2 => 6
    | 3 => 8
    | 4 => 16
    | 5 => 32
    | _ => 64

/-- Whether a format has a scale plane (R21). -/
def fmtScaled (fmt : Nat) (usc : Bool) : Bool :=
  fmt == 0xFE || !usc && [0x21, 0x22, 0x23, 0x41, 0x42, 0x61, 0x62, 0x63].contains fmt

def Obj.width (o : Obj) : Nat := fmtWidth o.fmt.toNat o.wc.toNat
def Obj.scaled (o : Obj) : Bool := fmtScaled o.fmt.toNat o.usc
def Obj.dim (o : Obj) (k : Nat) : Nat := if k < o.ndim then bitsAt o.dims (16 * k) 16 else 1
def Obj.tile (o : Obj) (k : Nat) : Nat := if k < o.ndim then bitsAt o.tiles (16 * k) 16 else 1

/-- Number of tiles of an object (R315). -/
def Obj.tileCount (o : Obj) : Nat :=
  (List.range 4).foldl (fun n k => n * ((o.dim k + o.tile k - 1) / o.tile k)) 1

/-- Tile of an element of a coherence object (R315). -/
def Obj.tileOf (o : Obj) (e : Nat) : Option Nat :=
  let d0 := o.dim 0
  let d1 := o.dim 1
  let d2 := o.dim 2
  let d3 := o.dim 3
  if e < d0 * d1 * d2 * d3 then
    let nk := fun k => (o.dim k + o.tile k - 1) / o.tile k
    some ((((e / (d0 * d1 * d2) / o.tile 3) * nk 2 + e / (d0 * d1) % d2 / o.tile 2) * nk 1
      + e / d0 % d1 / o.tile 1) * nk 0 + e % d0 / o.tile 0)
  else none

/-- Tiles of an object that `n` bytes from an address of its space touch (R315, R366). -/
def Obj.tilesAt (o : Obj) (a n : Nat) : List Nat :=
  let w := o.width
  let base := o.base.toNat
  let lo := (Nat.max a base - base) * 8 / w
  let hi := if a + n ≤ base then 0 else Nat.min o.size.toNat (((a + n - base) * 8 + w - 1) / w)
  let own := (List.range (hi - lo)).filterMap fun k => o.tileOf (lo + k)
  let sc := o.scale.toNat
  let blo := (Nat.max a sc - sc) / 4
  let bhi := if a + n ≤ sc then 0 else Nat.min ((o.size.toNat + 31) / 32) ((a + n - sc + 3) / 4)
  let scales := if o.scaled then (List.range (bhi - blo)).filterMap fun k => o.tileOf (32 * (blo + k)) else []
  (own ++ scales).eraseDups

/-- Own node number as NODE gives it (R364). -/
def State.ownNode (s : State) : BitVec 11 := 0#1 ++ s.mgmt.stnid

/-- Detection-enabled objects and tiles of a context's launch that a byte range touches, among the objects that a test picks. -/
def State.touchedBy (s : State) (x : Ctx) (pick : Obj → Bool) (a n : Nat) : List (Nat × Nat) :=
  match s.launchOf x with
  | none => []
  | some l =>
    (l.objs.mapIdx fun k o => (k, o)).flatMap fun e =>
      match e.2 with
      | some o => if o.detect && pick o then (o.tilesAt a n).map fun t => (e.1, t) else []
      | none => []

/-- What an access to an address touches: device-memory objects of this package, or scratch regions (R314). -/
def State.touched (s : State) (x : Ctx) (va n : Nat) : List (Nat × Nat) :=
  if 0x0001000000000000 ≤ va then s.touchedBy x (fun o => o.kind == 1 && o.node == s.ownNode) va n
  else if va < 0x02000000 then s.touchedBy x (fun o => o.kind == 2) (va % 2 ^ 21) n
  else []

/-- What an access to an element touches: a device-memory object may be another package's (R314). -/
def State.touchedRef (s : State) (x : Ctx) (r : ElemRef) (n : Nat) : List (Nat × Nat) :=
  match r.key with
  | .pool _ => []
  | .dev _ _ =>
    if r.scratch then s.touchedBy x (fun o => o.kind == 2) r.addr n
    else s.touchedBy x (fun o => o.kind == 1 && o.node == r.node) r.addr n

def Tile.fresh (team obj num : Nat) : Tile :=
  { team := team, obj := obj, num := num, wvalid := false, wrank := 0, wepoch := 0, rd := Clock.zero }

/-- Entry of a clock. -/
def Clock.at (v : Clock) (r : Nat) : Nat := (v[r]?.getD 0).toNat

/-- join of R318. -/
def Clock.join (a b : Clock) : Clock := Vector.ofFn fun i => if a[i].toNat < b[i].toNat then b[i] else a[i]

/-- A race: the kind of R320, and the rank of the earlier access. -/
structure Race where
  kind : Nat
  other : Nat
  deriving DecidableEq, Repr

/-- check_read and check_write of R319. -/
def Tile.check (t : Tile) (x : Nat) (v : Clock) (write : Bool) : Except Race Tile :=
  if t.wvalid && t.wrank != x && t.wepoch.toNat > v.at t.wrank then .error ⟨if write then 0 else 1, t.wrank⟩
  else if write then
    match (List.range 64).find? fun y => y != x && (t.rd.at y) > v.at y with
    | some y => .error ⟨2, y⟩
    | none => .ok { t with wvalid := true, wrank := x, wepoch := BitVec.ofNat 32 (v.at x), rd := Clock.zero }
  else .ok { t with rd := t.rd.setIfInBounds x (BitVec.ofNat 32 (v.at x)) }

/-- A race found: object, tile and what R320 reports of it. -/
structure Found where
  obj : Nat
  tile : Nat
  race : Race
  deriving DecidableEq, Repr

/-- Checks an access of a rank against one tile of a die's table. -/
def State.checkTile (s : State) (die : Fin 8) (team obj num x : Nat) (v : Clock) (write : Bool) : Except Found State :=
  let d := s.dies[die]
  let t := (d.tiles.find? fun t => t.team == team && t.obj == obj && t.num == num).getD (Tile.fresh team obj num)
  match t.check x v write with
  | .error r => .error ⟨obj, num, r⟩
  | .ok t' =>
    let rest := d.tiles.filter fun t => !(t.team == team && t.obj == obj && t.num == num)
    .ok { s with dies := s.dies.set die { d with tiles := t' :: rest } }

/-- Checks an access against every tile it touches; a failure leaves every entry as it was (R319). -/
def State.checkTiles (s : State) (die : Fin 8) (team x : Nat) (v : Clock) (write : Bool) :
    List (Nat × Nat) → Except Found State
  | [] => .ok s
  | (o, t) :: rest =>
    match s.checkTile die team o t x v write with
    | .error f => .error f
    | .ok s1 => s1.checkTiles die team x v write rest

/-- Checks the accesses of a position as rank 0's (R321). -/
def State.checkPosition (s : State) (t : Team) (v : Clock) : List (Nat × Nat × Bool) → Except Found State
  | [] => .ok s
  | (o, n, wr) :: rest =>
    match s.checkTile t.die t.id o n 0 v wr with
    | .error f => .error f
    | .ok s1 => s1.checkPosition t v rest

/-- Detection for the tiles that an access on behalf of a context touches, with a clock (R314, R319).  Inside a Pleat position
the access is rank 0's with its clock at the window's start: it is noted, to be checked when the window commits, but an
unbuffered write is checked at once (R321). -/
def State.detectTiles (s : State) (w : Who) (v : Clock) (ts : List (Nat × Nat)) (write buffered : Bool) : Except Found State :=
  let x := s.ctxOf w
  match ts, s.teamOf x with
  | [], _ => .ok s
  | _, none => .ok s
  | ts, some t =>
    match s.positionOf x with
    | some (_, r, q) =>
      if write && !buffered || q.direct then s.checkTiles t.die t.id 0 r.clock write ts
      else .ok (s.modRegion t.id fun _ => r.modPos x.rank fun q =>
        { q with checks := q.checks ++ ts.map fun e => (e.1, e.2, write) })
    | none => s.checkTiles t.die t.id x.rank v write ts

/-- Detection for an access to an address. -/
def State.detect (s : State) (w : Who) (v : Clock) (va n : Nat) (write buffered : Bool) : Except Found State :=
  s.detectTiles w v (s.touched (s.ctxOf w) va n) write buffered

/-- Two byte ranges share a byte. -/
def meetsRange (a b : Nat × Nat) : Bool := a.1 < b.1 + b.2 && b.1 < a.1 + a.2

/-- An 8-byte aligned load of an element that no access but atomics and flag adds has written counts as atomic (R297, log 56). -/
def State.atomicLoad (s : State) (p n : Nat) (need : Need) : Bool :=
  need == .read && n == 8 && p % 8 == 0 && !(s.plain.any (meetsRange (p, 8)))

/-- Lines of 128 bytes that byte ranges of device memory meet. -/
def rangeLines (ps : List (Nat × Nat)) : List Nat :=
  ps.flatMap fun p => if isDev p.1 then (List.range ((p.1 + p.2 + 127) / 128 - p.1 / 128)).map (p.1 / 128 + ·) else []

/-- Before a write that position 0's buffer has no room for, its accesses are checked and its buffer is committed (R212, R321). -/
def State.roomFor (s : State) (w : Who) (ps : List (Nat × Nat)) : Except Found State :=
  let x := s.ctxOf w
  match s.positionOf x with
  | some (t, r, q) =>
    if x.rank != 0 || q.direct || (((q.buf.map fun (c : Host.Cell) => c.1 / 128) ++ rangeLines ps).eraseDups).length ≤ 256 then .ok s
    else
      match s.checkPosition t r.clock q.checks with
      | .error f => .error f
      | .ok s1 => .ok (s1.overflowZero t.id)
  | none => .ok s

/-- MMX, subcode RACE, with the layout of R320. -/
def raceTrap (f : Found) : Trap :=
  { cause := Cause.mmx, sub := 1,
    val := BitVec.ofNat 64 (f.obj % 65536 + f.tile % 2 ^ 32 * 2 ^ 16 + f.race.other * 2 ^ 48 + f.race.kind * 2 ^ 54) }

/-! ## Scalar accesses -/

/-- A request of another context stands before an access to a device line: its lease, or a request that came first.  The
holder's own accesses proceed (R176).  `req` is the number of a PST, PLD or PATOM and `cmd` the issue order of a command whose
engine makes the access, none for a scalar access; with no context `req` is the number of a request of another package. -/
def State.behindLease (s : State) (w : Option Who) (req : Option Nat) (p : Nat) (cmd : Option Nat := none) : Bool :=
  let here := s.lineq.filter fun l => l.phys == p / 128
  let own := fun (l : LineReq) => match w with
    | some w => !l.inbound && l.who == w
    | none => l.inbound && l.req == req
  isDev p && !(here.any fun l => own l && l.stop.any fun c => s.cycle < c)
    && (here.takeWhile fun l => !(l.access && own l && l.req == req && l.cmd == cmd)).any fun l => !own l && (match l.stop with
      | some c => s.cycle < c
      | none => s.standing l)

/-- A scalar access waits behind a line lease. -/
def State.leasedByOther (s : State) (w : Who) (p : Nat) : Bool := s.behindLease (some w) none p

/-- An access that proceeds leaves its place in the queue. -/
def State.leaveQueue (s : State) (w : Who) : State :=
  if s.lineq.any fun l => l.access && l.who == w && l.req.isNone && l.cmd.isNone then
    { s with lineq := s.lineq.filter fun l => !(l.access && l.who == w && l.req.isNone && l.cmd.isNone) }
  else s

/-- Whether this package itself homes an element. -/
def State.servesRef (s : State) (r : ElemRef) : Bool :=
  match r.key with
  | .pool _ => false
  | .dev _ _ => r.node == s.ownNode

/-- Bytes from an element on, as places with their numbers of bytes, for an element that this package homes; a part that does
not translate has no place. -/
def State.refPlaces (s : State) (core : CoreId) (slot : Fin 16) (r : ElemRef) (n : Nat) : List (Nat × Nat) :=
  if !s.servesRef r then []
  else if r.scratch then [(scratchPlace core r.addr, n)]
  else (List.range n).filterMap fun k => match s.frame slot (r.addr + k) with
    | .ok f => some (f.pa, 1)
    | .error _ => none

/-- Elements that a request writes, with their bytes. -/
def Req.targets (r : Req) : List (ElemRef × Nat) :=
  match r.kind with
  | .pst bs f => [(r.ref, bs.length), (f, 8)]
  | .patom _ _ wide _ _ => [(r.ref, if wide then 8 else 4)]
  | .rowWrite d sc => (r.ref, d.length) :: if sc.2.isEmpty then [] else [({ r.ref with addr := sc.1 }, sc.2.length)]
  | .rowFlag _ => [(r.ref, 8)]
  | .rowAtom _ wide _ _ => [(r.ref, if wide then 8 else 4)]
  | .pieceWrite d => [(r.ref, d.length)]
  | _ => []

/-- A request to a switch, which the slot events answer (R419). -/
def Req.isSlot (r : Req) : Bool := match r.kind with
  | .slotAlloc => true
  | .slotContrib => true
  | .slotChunk _ _ _ _ => true
  | _ => false

/-- A chunk of a conversion (R424). -/
def Req.isChunk (r : Req) : Bool := match r.kind with
  | .chunk _ _ => true
  | .slotChunk _ _ _ _ => true
  | _ => false

/-- A request of a context's own instruction. -/
def Req.scalar (r : Req) : Bool := r.cmd.isNone && r.conv.isNone

/-- Where this package notes what it has written of another's device memory (R297). -/
def farPlace (r : ElemRef) : Nat := 2 ^ 64 * (r.node.toNat + 1) + r.addr

/-- An access of this package that is not atomic writes elements of another's device memory (R297). -/
def State.markFar (s : State) (r : ElemRef) (n : Nat) : State :=
  match r.key with
  | .pool _ => s
  | .dev _ _ => if s.servesRef r || n == 0 then s else s.markPlain (farPlace r) n

/-- A read of an element counts as atomic: 8 aligned bytes that no access but atomics and flag adds has written, as far as this
package knows (R297, log 56). -/
def State.atomicElem (s : State) (core : CoreId) (slot : Fin 16) (r : ElemRef) (n : Nat) : Bool :=
  n == 8 && match r.key with
    | .pool _ => false
    | .dev _ _ =>
      if s.servesRef r then match s.refPlaces core slot r n with
        | p :: _ => s.atomicLoad p.1 8 .read
        | [] => false
      else r.addr % 8 == 0 && !(s.plain.any (meetsRange (farPlace r, 8)))

/-- A PST or PATOM of the context to an object of this package has yet to reach these bytes, under whichever of their names
(R169, R300). -/
def State.underWay (s : State) (w : Who) (p n : Nat) : Bool :=
  s.reqs.any fun r => r.scalar && r.who == w && r.team == (s.ctxOf w).team &&
    r.targets.any fun t => (s.refPlaces w.core r.slot t.1 t.2).any fun q => meetsRange q (p, n)

/-- What every scalar access does before it takes effect: address check, and a stall behind another's line lease or behind
the context's own posted stores to the bytes (R164, R169, R176). -/
def State.accessLine (s : State) (w : Who) (a : Word) (n : Nat) (need : Need) : Except Stop (State × Nat) :=
  match s.checkAddr w a n need with
  | .error e => .error e
  | .ok (s1, p) =>
    if s1.leasedByOther w p then .error (.queue { who := w, line := a, phys := p / 128, stop := none, access := true, req := none, inbound := false })
    else if s1.underWay w p n then .error (.stall .stall)
    else .ok (s1.leaveQueue w, p)

/-- An access that is performed at its home meets the poison there (R165, R171). -/
def State.atomicAccess (s : State) (w : Who) (a : Word) (n : Nat) : Except Stop (State × Nat) :=
  match s.accessLine w a n .both with
  | .error e => .error e
  | .ok (s1, p) => if s1.poisoned p n then trap Cause.ecc (s1.eccSub p n) a else .ok (s1, p)

/-- A load or store of a software-managed page finds its line in the L1; else it meets the poison of memory (R165, R357).
Whether a copy is still there is settled here. -/
def State.accessHome (s : State) (w : Who) (a : Word) (n : Nat) (need : Need) : Except Stop (State × Nat) :=
  match s.accessLine w a n need with
  | .error e => .error e
  | .ok (s1, p) =>
    match if s1.isSw p then s1.probe (s1.l1Home w.core p) p else (s1, none) with
    | (s2, some _) => .ok (s2, p)
    | (s2, none) => if s2.poisoned p n then trap Cause.ecc (s2.eccSub p n) a else .ok (s2, p)

/-- The same with detection, for an access that is not an atomic one of R297 (R314, R319). -/
def State.access (s : State) (w : Who) (a : Word) (n : Nat) (need : Need) : Except Stop (State × Nat) :=
  match s.accessHome w a n need with
  | .error e => .error e
  | .ok (s1, p) =>
    if s1.atomicLoad p n need then .ok (s1, p)
    else
      match s1.detect w (s1.ctxOf w).clock a.toNat n need.writes (isDev p) with
      | .error f => .error (.trap (raceTrap f))
      | .ok s2 => if need.writes then (match s2.roomFor w [(p, n)] with
          | .error f => .error (.trap (raceTrap f))
          | .ok s3 => .ok (s3, p)) else .ok (s2, p)

/-- A scalar load of `n` bytes (R167). -/
def State.load (s : State) (w : Who) (a : Word) (n : Nat) : Except Stop (State × List Byte) :=
  match s.access w a n .read with
  | .error e => .error e
  | .ok (s1, p) =>
    match s1.readAs w true p n with
    | (s2, some bs) => .ok (s2, bs)
    | (s2, none) => .error (.goto s2)

/-- A position p ≥ 1 whose buffer would overflow stops (R212). -/
def State.overflowStop (s : State) (w : Who) : State :=
  match s.positionOf (s.ctxOf w) with
  | some (t, _, _) => s.stopPosition w t.id (s.ctxOf w).rank false
  | none => s

/-- A scalar store (R167), with the rights it needs (R387). -/
def State.store (s : State) (w : Who) (a : Word) (bs : List Byte) (need : Need) : Except Stop State :=
  match s.access w a bs.length need with
  | .error e => .error e
  | .ok (s1, p) =>
    match s1.writeAs w true p bs with
    | some s2 => .ok s2
    | none => .error (.goto (s.overflowStop w))

end Sys2Proof.Machine
end

