-- ==== Sys2Proof/Machine/Handle.lean ====
section
/-! DEFINITION. Handles: the checks of every element access (R21 to R23), the handle instructions (R154 to R161),
groups (R162) and the allotment (R163). -/

namespace Sys2Proof.Machine

/-! ## Element accesses -/

/-- HANDLE subcodes (R154). -/
def Sub.inval : Byte := 1
def Sub.range : Byte := 2
def Sub.noent : Byte := 3
def Sub.badplace : Byte := 4
def Sub.rights : Byte := 5

/-- FORMAT subcodes (R61, R184). -/
def Sub.code : Byte := 0
def Sub.pair : Byte := 1
def Sub.auxbad : Byte := 2
def Sub.qdst : Byte := 3
def Sub.cbent : Byte := 4

/-- DETAIL of a fault about an element: object index, and the offset modulo 2^36 (R379, R382). -/
def elemDetail (obj : Nat) (e : Int) : Word := BitVec.ofNat 64 (obj + (e % 2 ^ 36).toNat * 65536)

/-- Placement code of a view on an axis (R19, R23). -/
def viewCode (v : BitVec 16) (a : Nat) : Nat := bitsAt v (4 * a) 4

/-- Size of a mesh axis, 0 if unused (R364). -/
def Obj.axisSize (o : Obj) (a : Nat) : Nat := bitsAt o.msize (8 * a) 8

/-- This package's member index on an axis (R364). -/
def Obj.member (o : Obj) (a : Nat) : Nat := bitsAt o.midx (8 * a) 8

/-- A placement state of R23. -/
def placementOk (c : Nat) : Bool := c ≤ 4 || 8 ≤ c && c ≤ 10

/-- check_view of R22 and R23. -/
def viewOk (v : BitVec 16) (o : Obj) : Bool :=
  (List.range 4).all fun a => if o.axisSize a == 0 then viewCode v a == 15 else placementOk (viewCode v a) || viewCode v a == 15

/-- FMT, USC and WC as R21 permits them. -/
def fmtOk (fmt wc : Nat) (usc : Bool) : Bool :=
  if fmt == 0xFE then wc != 0 && !usc
  else wc == 0 && [0x01, 0x21, 0x22, 0x23, 0x41, 0x42, 0x61, 0x62, 0x63, 0x64, 0x81, 0x82, 0xA1, 0xA2, 0xC1].contains fmt

def hUsc (h : HandleWord) : Bool := bitAt h 92
def hWc (h : HandleWord) : Nat := bitsAt h 94 2

/-- elem_offset of R22: the object's entry and the element offset, or the trap with DETAIL's layout. -/
def elemOffset (get : Nat → Option Obj) (h : HandleWord) (idx : List Nat) (rd wr : Bool) : Except Trap (Obj × Nat) :=
  let n := hObj h
  if !hVal h then .error ⟨Cause.handle, Sub.inval, elemDetail n 0⟩
  else
    match get n with
    | none => .error ⟨Cause.handle, Sub.noent, elemDetail n 0⟩
    | some o =>
      if !viewOk (hView h) o then .error ⟨Cause.handle, Sub.badplace, elemDetail n 0⟩
      else if !fmtOk (hFmt h).toNat (hWc h) (hUsc h) then .error ⟨Cause.format, Sub.code, (hFmt h).setWidth 64⟩
      else
        let go := (idx.zip (List.range 4)).foldl (fun (r : Except Int Int) p =>
          match r with
          | .error e => .error e
          | .ok e => if p.1 ≥ hDim h p.2 then .error e else .ok (e + p.1 * hStr h p.2)) (.ok (hOff h : Int))
        match go with
        | .error e => .error ⟨Cause.handle, Sub.range, elemDetail n e⟩
        | .ok e =>
          if e < 0 || e ≥ o.size.toNat then .error ⟨Cause.handle, Sub.range, elemDetail n e⟩
          else if rd && !(hRd h && o.rd) || wr && !(hWr h && o.wr) then .error ⟨Cause.handle, Sub.rights, elemDetail n e⟩
          else .ok (o, e.toNat)

/-! ## Handle instructions -/

/-- Writes a handle register whole. -/
def Ctx.wh (x : Ctx) (n : HReg) (v : HandleWord) : Ctx := { x with h := x.h.set n.toNat v n.isLt }

/-- Reads a handle register. -/
def Ctx.rh (x : Ctx) (n : HReg) : HandleWord := x.h[n.toNat]'n.isLt

/-- Address of HLD and HST (R155). -/
def handleAddr (base : Word) (o : Byte) : Word := base + sext64 o <<< 5

def execHld (h : HReg) (a : SReg) (o : Byte) (s : State) : Out :=
  s.run (.hld h a o) [a] fun x =>
    match s.load s.who (handleAddr (x.rs a) o) 32 with
    | .error e => .error e
    | .ok (s1, bs) => .ok (s1.retire (s1.me.wh h (BitVec.ofNat 256 (leNat bs))) 4)

def execHst (g : HReg) (a : SReg) (o : Byte) (s : State) : Out :=
  s.run (.hst g a o) [a] fun x =>
    match s.store s.who (handleAddr (x.rs a) o) (leBytes 32 (x.rh g).toNat) .both with
    | .error e => .error e
    | .ok s1 => .ok (s1.retire (s1.progressed s1.me) 4)

/-- Values that HSET accepts for a field (R156). -/
def hsetOk (f : HField) (v : Word) : Bool :=
  match f with
  | .str0 | .str1 | .str2 | .str3 => -(8388608 : Int) ≤ v.toInt && v.toInt < 8388608
  | .flg => v.toNat < 256 && !bitAt v 5
  | _ => v.toNat < 2 ^ f.pos.2

def execHset (f : HField) (h : HReg) (a : SReg) (s : State) : Out :=
  s.run (.hset f h a) [a] fun x =>
    let v := x.rs a
    if !hsetOk f v then trap Cause.handle Sub.range v
    else .ok (s.retire (x.wh h (putBits (x.rh h) f.pos.1 f.pos.2 v.toNat)) 4)

/-- A handle as its fields read: the reserved bit FLG[5] reads as zero (R5, R20).  HLD may have loaded it (R155). -/
def shownHandle (h : HandleWord) : HandleWord := putBits h 93 1 0

/-- The value of a handle field as HGET gives it (R5, R157). -/
def hgetVal (f : HField) (h : HandleWord) : Word :=
  if f.signed then sext64 (h.extractLsb' f.pos.1 24) else BitVec.ofNat 64 (bitsAt (shownHandle h) f.pos.1 f.pos.2)

def execHget (f : HField) (g : HReg) (d : SReg) (s : State) : Out :=
  s.compute (.hget f g d) [d] d fun x => hgetVal f (x.rh g)

def execHmov (h g : HReg) (s : State) : Out := s.run (.hmov h g) [] fun x => .ok (s.retire (x.wh h (x.rh g)) 4)

/-- A handle with another OFF (R159, R160). -/
def withOff (h : HandleWord) (o : Int) : HandleWord := putBits h 32 48 o.toNat

def execHslice (h g : HReg) (a : SReg) (k : BitVec 2) (s : State) : Out :=
  s.run (.hslice h g a k) [a] fun x =>
    let v := x.rs a
    let w := x.rh g
    let st := bitsAt v 0 16
    let n := bitsAt v 16 16
    let o : Int := hOff w + st * hStr w k.toNat
    if !hVal w then trap Cause.handle Sub.inval v
    else if bitsAt v 32 32 != 0 || st + n > hDim w k.toNat then trap Cause.handle Sub.range v
    else if o < 0 || o ≥ 2 ^ 48 then trap Cause.handle Sub.range v
    else .ok (s.retire (x.wh h (putBits (withOff w o) (96 + 16 * k.toNat) 16 n)) 4)

def execHadv (h : HReg) (a : SReg) (k : BitVec 2) (s : State) : Out :=
  s.run (.hadv h a k) [a] fun x =>
    let v := x.rs a
    let w := x.rh h
    let o : Int := hOff w + v.toInt * hStr w k.toNat
    if !hVal w then trap Cause.handle Sub.inval v
    else if o < 0 || o ≥ 2 ^ 48 then trap Cause.handle Sub.range v
    else .ok (s.retire (x.wh h (withOff w o)) 4)

/-- The entry's default view (R161). -/
def defaultView (n : Nat) (o : Obj) : HandleWord :=
  let flg := 1 + (if o.rd then 2 else 0) + (if o.wr then 4 else 0) + (if o.usc then 16 else 0) + 64 * o.wc.toNat
  let dims := (List.range 4).foldl (fun v k => v + o.dim k * 2 ^ (16 * k)) 0
  let strs := (List.range 4).foldl (fun v k => v + (if k < o.ndim then bitsAt o.strides (24 * k) 24 else 0) * 2 ^ (24 * k)) 0
  BitVec.ofNat 256 (n + 0xFFFF * 2 ^ 16 + o.fmt.toNat * 2 ^ 80 + flg * 2 ^ 88 + dims * 2 ^ 96 + strs * 2 ^ 160)

def execHobj (h : HReg) (n : BitVec 14) (s : State) : Out :=
  s.run (.hobj h n) [] fun x =>
    match s.objOf x n.toNat with
    | none => trap Cause.handle Sub.noent (n.setWidth 64)
    | some o => .ok (s.retire (x.wh h (defaultView n.toNat o)) 4)

/-! ## Groups and the allotment -/

/-- Group rank of a team rank in a mask, or all ones (R48, R162). -/
def groupRank (m : Word) (k : Nat) : Word :=
  if m.getLsbD k then BitVec.ofNat 64 ((List.range k).filter fun j => m.getLsbD j).length else BitVec.allOnes 64

/-- Rank of a context in its team, as TEAMID holds it (R31). -/
def Ctx.teamRank (x : Ctx) : Nat := bitsAt x.teamid 32 6

def execGrank (d : SReg) (g : Byte) (s : State) : Out :=
  s.compute (.grank d g) [d] d fun x => groupRank (s.groupMask x g) x.teamRank

def execGsize (d : SReg) (g : Byte) (s : State) : Out :=
  s.compute (.gsize d g) [d] d fun x => BitVec.ofNat 64 (popcount (s.groupMask x g))

/-- The allotment changes, and the registers that a grow exposes read zero (R16, R163). -/
def Ctx.setAllot (x : Ctx) (n : BitVec 7) : Ctx :=
  { x with allot := n, s := Vector.ofFn fun k : Fin 64 => if x.allot.toNat ≤ k.val && k.val < n.toNat then 0 else x.s[k] }

def execRega (n : BitVec 7) (s : State) : Out := s.run (.rega n) [] fun x => .ok (s.retire (x.setAllot n) 4)

end Sys2Proof.Machine
end

