-- ==== Sys2Proof/Machine/Issue.lean ====
section
/-! DEFINITION. An issue cycle: the choice of a context (R337), what a context meets at an instruction boundary
(debug halts R399, SAFETO and its budget R394, hang detection R391 to R393), and the fetch of its words (R97 to R100). -/

namespace Sys2Proof.Machine

/-! ## Time and the agenda (log 1) -/

/-- The time of a turn passes and the turn leaves the agenda. -/
def State.tick (s : State) (t : Turn) (rest : List Turn) : State :=
  { s with cycle := s.cycle + t.cycles, gtc := s.gtc + BitVec.ofNat 64 t.ns, agenda := rest }

/-- A context is stalled in an instruction, which issues again when the stall may have ended (R337). -/
def Ctx.stalled (x : Ctx) : Bool := x.run == .active && (x.blocked == some .stall || x.blocked == some .drain)

/-- The turn that comes next: the head of the agenda; with none, the instruction that the context that issued last is stalled
in, or else an issue cycle of its core. -/
def State.turn (s : State) : Turn × List Turn :=
  match s.agenda with
  | t :: rest => (t, rest)
  | [] => ({ ns := 0, cycles := 1, move := if s.me.stalled then .retry s.who else .issue s.who.core }, [])

/-! ## The choice of a context -/

/-- CLASS of a context's slot, as its team was placed with it (R324, R337). -/
def State.classOf (s : State) (x : Ctx) : Nat := match s.teamOf x with
  | some t => t.cls
  | none => bitsAt s.slots[x.slot].scfg 0 2

/-- Candidates issue: ACTIVE, and neither stalled nor blocked (R337). -/
def Ctx.candidate (x : Ctx) : Bool := x.run == .active && x.blocked.isNone

/-- A debugger's role change holds its context as a stalled MTC would (R33, R400). -/
def Core.roleHeld (k : Core) (j : CtxNo) : Bool := k.dbg.roles.any fun r => r.1 == j

/-- Context numbers after the last issuer, wrapping (R337). -/
def rotation (last : CtxNo) : List CtxNo := [last + 1, last + 2, last + 3, last]

/-- The element of a list with the smallest key, the first of several. -/
def firstLeast (key : CtxNo → Nat) : List CtxNo → Option CtxNo
  | [] => none
  | c :: cs =>
    match firstLeast key cs with
    | none => some c
    | some d => if key d < key c then some d else some c

/-- The context that issues on a core (R337). -/
def State.choose (s : State) (c : CoreId) : Option CtxNo :=
  let k := s.core c
  let cand := (rotation k.lastIssuer).filter fun j => k.ctx[j].candidate && !k.roleHeld j
  let late := cand.filter fun j => 64 ≤ k.ctx[j].wait
  let best := if late.isEmpty then
      cand.filter fun j => cand.all fun i => s.classOf k.ctx[i] ≤ s.classOf k.ctx[j]
    else late.filter fun j => late.all fun i => k.ctx[i].wait ≤ k.ctx[j].wait
  firstLeast (fun j => k.ctx[j].since) best

/-- The counters of R337 after a context has issued `n` words, one in each cycle. -/
def State.chosen (s : State) (c : CoreId) (j : CtxNo) (n : Nat) : State :=
  s.modCore c fun k => { k with lastIssuer := j, ctx := Vector.ofFn fun i : Fin 4 =>
    let x := k.ctx[i]
    if i == j then { x with wait := 0, since := s.cycle + n }
    else if x.candidate && !k.roleHeld i then { x with wait := x.wait + n } else x }

/-! ## Hang detection -/

/-- Wait kind and operand of the wait a context is blocked in (R392). -/
def Ctx.hangKind (x : Ctx) : Nat × Nat :=
  match x.blocked with
  | some (.wait i) | some (.released i _) =>
    match i with
    | .bwait b _ => (1, b.toNat)
    | .gbar g => (2, g.toNat)
    | .tkpop f => (3, f.code.toNat)
    | .tkpush f => (4, f.code.toNat)
    | .qwait q _ => (5, q.code.toNat)
    | .emit q _ => (6, q.code.toNat)
    | .emitr q _ _ => (6, q.code.toNat)
    | .launch _ _ _ => (8, 0)
    | .pleat _ _ _ => (10, 0)
    | _ => (9, 0)
  | some .lineLease => (7, 0)
  | some (.remote _) => (9, 0)
  | some .drain => (9, 0)
  | some (.conversion _ _) => (9, 0)
  | _ => (0, 0)

/-- The image of a barrier (R36). -/
def Barrier.image (b : Barrier) : BitVec 128 :=
  0#32 ++ b.arrb ++ b.expb ++ 0#8 ++ b.arra ++ b.expa ++ 0#6 ++ boolBit b.err ++ boolBit b.ph

/-- Commands queued and not completed (R204 PEND). -/
def Ctx.pendOf (x : Ctx) (q : Fin 5) : Nat := x.queues[q].length

/-- An unreported fault of a queue (R204 FLT). -/
def Ctx.fltOf (x : Ctx) (q : Queue) : Bool := x.faults.any fun f => f.queue == q

def allQueues : List Queue := [.ldq, .mxq, .vxq, .stq, .nxq]

/-- The hang record of R393. -/
def State.hangRecord (s : State) (w : Who) (pc : Word) (kind opnd : Nat) : BitVec 512 :=
  let x := s.ctxOf w
  let bar := if kind == 1 then ((s.core w.core).bar[opnd]?.map Barrier.image).getD 0 else 0
  let flt := allQueues.foldl (fun n q => if x.fltOf q then n + 2 ^ q.num.val else n) 0
  BitVec.ofNat 512 (leNat (leBytes 8 s.gtc.toNat ++ leBytes 4 (s.ctxid w).toNat ++ leBytes 4 (bitsAt x.teamid 0 32)
    ++ leBytes 8 pc.toNat ++ leBytes 1 kind ++ leBytes 1 opnd ++ leBytes 1 x.teamRank ++ leBytes 1 x.slot.val
    ++ allQueues.flatMap (fun q => leBytes 1 (x.pendOf q.num)) ++ leBytes 1 flt
    ++ x.tok.toList.flatMap (fun f => leBytes 1 f.length) ++ leBytes 16 bar.toNat ++ leBytes 8 0))

/-- The progress counter has reached HANGT (R392). -/
def State.hangDue (s : State) (x : Ctx) : Bool := x.hangt != 0 && x.hangt.toNat ≤ s.progressOf x

/-- The HANG trap with its record and its event (R392, R393, R438). -/
def State.hang (s : State) (w : Who) : State :=
  let x := s.ctxOf w
  let k := x.hangKind
  let r := s.hangRecord w x.pc k.1 k.2
  let s1 := { s with lineq := s.lineq.filter fun l => l.inbound || l.who != w || l.stop.isSome,
                     loads := s.loads.filter fun l => l.who != w }.logEvent (s.srcOf w) .hang [r.extractLsb' 0 64, r.extractLsb' 64 64]
  { s1 with mgmt := { s1.mgmt with hangs := r :: s1.mgmt.hangs } }.deliver w
    { cause := Cause.hang, sub := 0, val := BitVec.ofNat 64 (k.1 + 256 * k.2) }

/-! ## The pre-emption budget (R394) -/

/-- BUDGET has reached 0 before the member has arrived, and SAFETO has not been raised for this request. -/
def Ctx.safetoDue (x : Ctx) : Bool := x.pend && x.budget == 0 && x.past.isNone

/-- SAFETO at the member's next instruction, once per request. -/
def State.safeto (s : State) (w : Who) : State :=
  (s.modCtx w fun x => { x with past := some 0 }).deliver w { cause := Cause.safeto, sub := 0, val := 4096 }

/-- The member has issued 4,096 further instructions without arriving. -/
def Ctx.overdue (x : Ctx) : Bool := match x.past with
  | some k => x.pend && 4096 ≤ k
  | none => false

/-- What one issued instruction takes from the budget. -/
def Ctx.spend (x : Ctx) : Ctx :=
  if !x.pend then x
  else match x.past with
    | some k => { x with past := some (k + 1) }
    | none => { x with budget := x.budget - 1 }

/-! ## Debug halts (R399) -/

/-- Sets the reason of a context's halt in DSTAT (R398). -/
def DebugBlock.because (d : DebugBlock) (j : CtxNo) (r : Nat) : DebugBlock :=
  { d with reason := putBits d.reason (2 * j.val) 2 r }

/-- The context halts at an instruction boundary.  A wait it was blocked in has had no effect and is executed again
after the halt, unless its team is being swapped, which keeps the wait. -/
def State.haltCtx (s : State) (w : Who) (reason : Nat) : State :=
  let x := s.ctxOf w
  let swapping := (s.teamOf x).any fun t => t.phase == .quiescing || t.phase == .stopped
  let keep := match x.blocked with
    | some (.wait _) | some .stall | some .drain | some .lineLease => if swapping then x.blocked else none
    | b => b
  let s1 := { s with loads := if keep.isSome then s.loads else s.loads.filter fun l => l.who != w }
  (s1.setCtx w { s.holdProgress x with run := .halted, blocked := keep, step := .none }).modCore w.core fun k =>
    { k with dbg := k.dbg.because w.ctx reason }

/-- An enabled breakpoint names the word at the PC. -/
def DebugBlock.matches (d : DebugBlock) (pc : Word) : Bool :=
  d.dbpa.toList.any fun b => bitAt b 0 && bitsAt b 2 50 == bitsAt pc 2 50

/-! ## Fetch -/

/-- A byte string's word at an offset. -/
def wordAt (bs : List Byte) (off : Nat) : IWord := BitVec.ofNat 32 (leNat ((bs.drop off).take 4))

/-- One word of the instruction stream (R99, R100): from the words fetched ahead, the instruction cache or memory,
where these differ as a free value chooses (log 12); an error is a cause and a subcode. -/
def State.fetchWord (s : State) (w : Who) (va : Nat) : Except (Byte × Byte) (State × IWord) :=
  if va < 0x0001000000000000 then .error (Cause.xlat, 0)
  else
    match s.xlate (s.ctxOf w).slot va .exec with
    | (_, .error e) => .error (Cause.xlat, e)
    | (s1, .ok p) =>
      if s1.poisoned p 4 then .error (Cause.ecc, s1.eccSub p 4)
      else
        let line := p / 128
        let now := s1.rawRead (line * 128) 128
        let held := match (s1.ctxOf w).ahead with
          | some (l, bs) => if l == line then [bs] else []
          | none => []
        let cached := ((s1.core w.core).icache.filter fun e => e.1 == line).map (·.2)
        let pick := fun (r : State × List Byte) bs =>
          if wordAt bs (p % 128) == wordAt r.2 (p % 128) then r
          else ({ r.1 with fresh := r.1.fresh + 1 }, if Config.keepsLine r.1.fresh then bs else r.2)
        let r := (cached ++ held).foldl pick (s1, now)
        let s2 := if cached.isEmpty then
            r.1.modCore w.core fun k => { k with icache := ((line, now) :: k.icache).take 512 }
          else r.1
        .ok (s2.modCtx w fun x => { x with ahead := some (line, r.2) }, wordAt r.2 (p % 128))

/-- `n` words in a row; an error names the failing word's address. -/
def State.fetchWords (s : State) (w : Who) (va : Nat) : Nat → Except Trap (State × List IWord)
  | 0 => .ok (s, [])
  | n + 1 =>
    match s.fetchWord w va with
    | .error (c, e) => .error { cause := c, sub := e, val := BitVec.ofNat 64 va }
    | .ok (s1, v) =>
      match s1.fetchWords w (va + 4) n with
      | .error t => .error t
      | .ok (s2, vs) => .ok (s2, v :: vs)

/-- The words of the instruction at the PC: the first one says how many (R97). -/
def State.fetch (s : State) (w : Who) : Except Trap (State × List IWord) :=
  let pc := (s.ctxOf w).pc.toNat
  match s.fetchWords w pc 1 with
  | .error t => .error t
  | .ok (s1, ws) =>
    match s1.fetchWords w (pc + 4) (wordCount (ws.headD 0) - 1) with
    | .error t => .error t
    | .ok (s2, vs) => .ok (s2, ws ++ vs)

/-! ## The cycle -/

/-- What an issue cycle comes to: a next state without an instruction, or an instruction to execute. -/
inductive Issue
  | done (s : State)
  | run (i : Instr) (s : State)

/-- Fetches and decodes for the context that `who` names (R99, R103, R119). -/
def State.decodeAt (s : State) : Issue :=
  match s.fetch s.who with
  | .error t => .done (s.deliver s.who t)
  | .ok (s1, ws) =>
    match decodeWords ws with
    | .ok i => .run i s1
    | .error _ => .done (s1.deliver s.who { cause := Cause.illegal, sub := 0, val := (ws.headD 0).setWidth 64 })

/-- The instruction boundary of a chosen context: a halt, SAFETO, an end, a hang, or the next instruction. -/
def State.boundary (s : State) (w : Who) : Issue :=
  let x := s.ctxOf w
  let d := (s.core w.core).dbg
  let fresh := x.blocked.isNone
  if fresh && x.step == .issued then .done (s.haltCtx w 2)
  else if fresh && x.step == .none && d.hreq.getLsbD w.ctx.val then .done (s.haltCtx w 0)
  else if fresh && x.step == .none && d.matches x.pc then .done (s.haltCtx w 3)
  else if fresh && x.overdue then .done (s.endMember w)
  else if fresh && x.safetoDue then .done (s.safeto w)
  else if s.hangDue x then .done (s.hang w)
  else
    let y := if fresh then { x.spend with step := if x.step == .armed then .issued else x.step } else { x with blocked := none }
    { s.setCtx w y with who := w }.decodeAt

/-- The issue of a context with the counters of R337: an instruction holds the issue slot for all its words. -/
def State.issueCtx (s : State) (w : Who) : Issue :=
  match s.boundary w with
  | .done s1 => .done (s1.chosen w.core w.ctx 1)
  | .run i s1 => .run i (s1.chosen w.core w.ctx (encode i).length)

/-- An issue cycle of a core; nothing issues while the package is halted (R401). -/
def State.issue (s : State) (c : CoreId) : Issue :=
  if s.mgmt.pkghlt then .done s
  else
    match s.choose c with
    | none => .done { s with who := { core := c, ctx := s.who.ctx } }
    | some j => s.issueCtx { core := c, ctx := j }

/-- The instruction that a context is stalled in issues again, when the stall may have ended; the context is a candidate from
then on (R337). -/
def State.issueAgain (s : State) (w : Who) : Issue :=
  if s.mgmt.pkghlt || !(s.ctxOf w).stalled || (s.core w.core).roleHeld w.ctx then .done s
  else (s.modCtx w fun x => { x with since := s.cycle }).boundary w

/-- After an instruction: a context that was stepped halts again once the instruction has completed or trapped (R399). -/
def State.afterIssue (s : State) (w : Who) : State :=
  let x := s.ctxOf w
  if x.step == .issued && x.blocked.isNone && x.run != .free then s.haltCtx w 2 else s

end Sys2Proof.Machine
end

