-- ==== Sys2Proof/Machine/LoadStore.lean ====
section
/-! DEFINITION. Scalar loads and stores, atomics, ordering, cache maintenance and line leases (R164 to R178), and
MODESW (R183). -/

namespace Sys2Proof.Machine

/-! ## Loads and stores (R167, R168) -/

/-- Bytes of a size code. -/
def sizeBytes (z : Size) : Nat := match z with
  | .b => 1 | .h => 2 | .w => 4 | .d => 8

/-- A load of `n` bytes at the address that `f` computes, zero-extended to Sd. -/
def State.loadOp (s : State) (i : Instr) (regs : List SReg) (d : SReg) (n : Nat) (f : Ctx → Word) : Out :=
  s.run i regs fun x =>
    match s.load s.who (f x) n with
    | .error e => .error e
    | .ok (s1, bs) => .ok (s1.retire (s1.me.ws d (BitVec.ofNat 64 (leNat bs))) 4)

/-- A store of the low `n` bytes of Sv at the address that `f` computes. -/
def State.storeOp (s : State) (i : Instr) (regs : List SReg) (v : SReg) (n : Nat) (f : Ctx → Word) : Out :=
  s.run i regs fun x =>
    match s.store s.who (f x) (leBytes n (x.rs v).toNat) .write with
    | .error e => .error e
    | .ok s1 => .ok (s1.retire (s1.progressed s1.me) 4)

/-- Address of the immediate-offset forms (R167). -/
def offAddr (a : SReg) (i : BitVec 12) (x : Ctx) : Word := x.rs a + sext64 i

/-- Address of the indexed forms (R168). -/
def indexAddr (z : Size) (a b : SReg) (x : Ctx) : Word := x.rs a + x.rs b <<< z.code.toNat

def execLdb (d a : SReg) (i : BitVec 12) (s : State) : Out := s.loadOp (.ldb d a i) [d, a] d 1 (offAddr a i)
def execLdh (d a : SReg) (i : BitVec 12) (s : State) : Out := s.loadOp (.ldh d a i) [d, a] d 2 (offAddr a i)
def execLdw (d a : SReg) (i : BitVec 12) (s : State) : Out := s.loadOp (.ldw d a i) [d, a] d 4 (offAddr a i)
def execLdd (d a : SReg) (i : BitVec 12) (s : State) : Out := s.loadOp (.ldd d a i) [d, a] d 8 (offAddr a i)
def execStb (v a : SReg) (i : BitVec 12) (s : State) : Out := s.storeOp (.stb v a i) [v, a] v 1 (offAddr a i)
def execSth (v a : SReg) (i : BitVec 12) (s : State) : Out := s.storeOp (.sth v a i) [v, a] v 2 (offAddr a i)
def execStw (v a : SReg) (i : BitVec 12) (s : State) : Out := s.storeOp (.stw v a i) [v, a] v 4 (offAddr a i)
def execStd (v a : SReg) (i : BitVec 12) (s : State) : Out := s.storeOp (.std v a i) [v, a] v 8 (offAddr a i)
def execLdx (z : Size) (d a b : SReg) (s : State) : Out :=
  s.loadOp (.ldx z d a b) [d, a, b] d (sizeBytes z) (indexAddr z a b)
def execStx (z : Size) (v a b : SReg) (s : State) : Out :=
  s.storeOp (.stx z v a b) [v, a, b] v (sizeBytes z) (indexAddr z a b)

/-! ## Releases (R172, R187) -/

/-- The oldest deferred PST fault in program order (R187). -/
def oldestDeferred : List Deferred → Option Deferred
  | [] => none
  | d :: ds =>
    match oldestDeferred ds with
    | none => some d
    | some e => if e.order < d.order then some e else some d

/-- Reports a deferred fault at the issuing instruction, which has no effect (R187).  A Pleat position p ≥ 1 stops instead
(R214), and the fault stays to be reported. -/
def State.reportDeferred (s : State) (w : Who) (d : Deferred) : State :=
  let t : Trap := { cause := d.cause, sub := d.sub, val := d.addr }
  match s.positionOf (s.ctxOf w) with
  | some (_, _, _) =>
    if (s.ctxOf w).rank != 0 then s.deliver w t else (s.modCtx w fun x => { x with deferred := x.deferred.erase d }).deliver w t
  | none => (s.modCtx w fun x => { x with deferred := x.deferred.erase d }).deliver w t

/-- A PST that is not acknowledged, or a request of the replay queue (R172, R186). -/
def Req.holdsRelease (r : Req) (w : Who) : Bool :=
  r.scalar && r.who == w && (match r.kind with
    | .pst _ _ => true
    | .slotAlloc => false
    | .slotContrib => false
    | _ => r.attempts != 0)

/-- PSTs and the replay queue hold a release of scope SYS (R172, R307). -/
def State.releaseHeld (s : State) (w : Who) : Bool :=
  (s.reqs.any fun r => r.team == (s.ctxOf w).team && r.holdsRelease w)
    || (s.ctxOf w).queues.toList.any fun q => q.any fun c => c.waits.any fun e => e.attempts != 0

/-- An unfinished command that writes an object or adds to a flag: CWR, CSCAT to an object, CFLAG (R307). -/
def Cmd.remoteWrite (c : Cmd) : Bool :=
  let op := bitsAt (tF c.bits 0) 0 8
  c.phase != .done && (op == 0x04 || op == 0x07 && bitAt (tF c.bits 0) 10 || op == 0x0A)

/-- Remote writes that the context's copy queues have yet to finish (R307).  One that cannot start, since a fault of its queue is
unreported, is not waited for (R383, log 29). -/
def Ctx.copiesOut (x : Ctx) : Bool :=
  [Queue.ldq, Queue.stq].any fun q => x.queues[q.num].any fun c => c.remoteWrite && !(c.phase == .queued && x.faults.any fun f => f.queue == q)

/-- The same for those that were queued before a command (R180, R307). -/
def Ctx.copiesBefore (x : Ctx) (c : Cmd) : Bool :=
  [Queue.ldq, Queue.stq].any fun q => x.queues[q.num].any fun d =>
    d.order < c.order && d.remoteWrite && !(d.phase == .queued && x.faults.any fun f => f.queue == q)

/-- A PST or PATOM of the context to this package is not performed yet: no acknowledgement from another place stands between
it and the observers of this package (R172 to R174, R294). -/
def State.localOut (s : State) (w : Who) : Bool :=
  s.reqs.any fun r => r.scalar && r.who == w && r.team == (s.ctxOf w).team && r.targets.any fun t => s.servesRef t.1

/-- A release of scope SYS: it waits for every earlier PST, CWR and flag add and for the replay queue; then it reports the oldest
deferred fault (R172, R187, R307, log 29). -/
def State.releaseSys (s : State) (w : Who) : Except Stop Unit :=
  let x := s.ctxOf w
  if s.releaseHeld w || x.copiesOut then .error (.stall .drain)
  else
    match oldestDeferred x.deferred with
    | some d => .error (.goto (s.reportDeferred w d))
    | none => .ok ()

/-- A release of a narrower scope waits for the context's posted stores to this package only (R172). -/
def State.releaseLocal (s : State) (w : Who) : Except Stop Unit :=
  if s.localOut w then .error (.stall .drain) else .ok ()

/-- A seal by a command is a release of the scope that its axis spans: on one that spans packages the command waits for its
context's earlier PSTs, CWRs and flag adds and for the replay queue, else for its PSTs to this package (R180, R307, R311). -/
def State.sealWaits (s : State) (w : Who) (c : Cmd) (wide : Bool) : Bool :=
  if wide then s.releaseHeld w || (s.ctxOf w).copiesBefore c else s.localOut w

/-- The release side of an order at a scope (R172). -/
def State.releaseAt (s : State) (w : Who) (rel : Bool) (sc : Scope) : Except Stop Unit :=
  if !rel then .ok () else if sc == .sys then s.releaseSys w else s.releaseLocal w

def orderReleases (o : Order) : Bool := match o with
  | .rel | .ar => true
  | _ => false

/-! ## Atomics (R170, R171) -/

/-- The new value of an atomic on `n` bytes, if it writes one (R170). -/
def atomNew (op : AtomOp) (n : Nat) (old x e : Word) : Option Word :=
  let w := 8 * n
  let cut := fun (v : Word) => v &&& BitVec.ofNat 64 (2 ^ w - 1)
  let sg := fun (v : Word) => if n == 4 then (v.extractLsb' 0 32).toInt else v.toInt
  match op with
  | .add => some (cut (old + x))
  | .min => some (cut (if sg x < sg old then x else old))
  | .max => some (cut (if sg old < sg x then x else old))
  | .and => some (cut (old &&& x))
  | .or => some (cut (old ||| x))
  | .xor => some (cut (old ^^^ x))
  | .swap => some (cut x)
  | .cas => if cut old == cut e then some (cut x) else none

/-- A read-modify-write at the home of a place; the old value (R171, R351, R360). -/
def State.rmw (s : State) (p : Nat) (op : AtomOp) (n : Nat) (x e : Word) : State × Word :=
  let old := BitVec.ofNat 64 (leNat (s.rawRead p n))
  match atomNew op n old x e with
  | some v => (s.homePut p (leBytes n v.toNat), old)
  | none => (s.recallRange p n, old)

/-- A scalar atomic (R170). -/
def State.atomic (s : State) (i : Instr) (op : AtomOp) (w : Bool) (o : Order) (sc : Scope) (d a b : SReg) : Out :=
  s.run i [d, a, b] fun x =>
    let n := if w then 4 else 8
    match s.atomicAccess s.who (x.rs a) n with
    | .error e => .error e
    | .ok (s1, p) =>
      match s1.releaseAt s.who (orderReleases o) sc with
      | .error e => .error e
      | .ok _ =>
        let old := (s1.rmw p op n (x.rs b) (x.rs d)).2
        let s2 := s1.scalarPut s.who p n fun s => (s.rmw p op n (x.rs b) (x.rs d)).1
        .ok (s2.retire (s2.progressed (s2.me.ws d old)) 4)

def execAadd (w : Bool) (o : Order) (z : Scope) (d a b : SReg) (s : State) : Out :=
  s.atomic (.aadd w o z d a b) .add w o z d a b
def execAmin (w : Bool) (o : Order) (z : Scope) (d a b : SReg) (s : State) : Out :=
  s.atomic (.amin w o z d a b) .min w o z d a b
def execAmax (w : Bool) (o : Order) (z : Scope) (d a b : SReg) (s : State) : Out :=
  s.atomic (.amax w o z d a b) .max w o z d a b
def execAand (w : Bool) (o : Order) (z : Scope) (d a b : SReg) (s : State) : Out :=
  s.atomic (.aand w o z d a b) .and w o z d a b
def execAor (w : Bool) (o : Order) (z : Scope) (d a b : SReg) (s : State) : Out :=
  s.atomic (.aor w o z d a b) .or w o z d a b
def execAxor (w : Bool) (o : Order) (z : Scope) (d a b : SReg) (s : State) : Out :=
  s.atomic (.axor w o z d a b) .xor w o z d a b
def execAswap (w : Bool) (o : Order) (z : Scope) (d a b : SReg) (s : State) : Out :=
  s.atomic (.aswap w o z d a b) .swap w o z d a b
def execAcas (w : Bool) (o : Order) (z : Scope) (d a b : SReg) (s : State) : Out :=
  s.atomic (.acas w o z d a b) .cas w o z d a b

/-! ## Ordering (R173, R174) -/

/-- FENCE orders accesses, which this model performs one at a time in any case (log 4) but for posted stores and what the engines
write of other packages, for which a REL or FULL fence waits as a release of its scope does (R307, log 29), and FULL discards the words fetched ahead (R100). -/
def execFence (k : FenceKind) (z : Scope) (s : State) : Out :=
  s.run (.fence k z) [] fun x =>
    match s.releaseAt s.who (k != .acq) z with
    | .error e => .error e
    | .ok _ =>
      let y := if k == .full && z == .sys then { x with ahead := none } else x
      .ok (s.retire y 4)

/-- LDA: the load, outside detection (R174, R314). -/
def execLda (z : Scope) (n : Size) (d a : SReg) (s : State) : Out :=
  s.run (.lda z n d a) [d, a] fun x =>
    match s.accessHome s.who (x.rs a) (sizeBytes n) .read with
    | .error e => .error e
    | .ok (s1, p) =>
      let r := s1.coreRead s.who.core p (sizeBytes n)
      .ok (r.1.retire (r.1.me.ws d (BitVec.ofNat 64 (leNat r.2))) 4)

/-- STL: the store, after a release at its scope (R174, R314). -/
def execStl (z : Scope) (n : Size) (a v : SReg) (s : State) : Out :=
  s.run (.stl z n a v) [a, v] fun x =>
    match s.accessHome s.who (x.rs a) (sizeBytes n) .write with
    | .error e => .error e
    | .ok (s1, p) =>
      match s1.releaseAt s.who true z with
      | .error e => .error e
      | .ok _ =>
        let s2 := s1.scalarPut s.who p (sizeBytes n) fun s =>
          (s.corePut s.who.core p (leBytes (sizeBytes n) (x.rs v).toNat)).unhide p (sizeBytes n) fun _ => false
        .ok (s2.retire (s2.progressed s2.me) 4)

/-! ## FLUSHD (R175) -/

/-- Every leaf of a slot's table: virtual address, physical address and size (R386, R388). -/
def State.leavesFrom (s : State) (va : Nat) : List Level → Nat → List (Nat × Nat × Nat)
  | [], _ => []
  | l :: ls, root =>
    (List.range (2 ^ l.bits)).flatMap fun k =>
      let e : Word := BitVec.ofNat 64 (leNat (cellsRead s.mem (root + 8 * k) 8))
      let pa := bitsAt e 8 40 * 256
      let va' := va + k * 2 ^ l.shift
      if !bitAt e 0 || bitsAt e 5 3 != 0 || bitsAt e 48 16 != 0 then []
      else if bitAt e 1 then
        if !l.leaf || pa % 2 ^ l.shift != 0 || !s.pageMapped pa (2 ^ l.shift) then [] else [(va', pa, 2 ^ l.shift)]
      else if !l.table || pa % nextTable l != 0 then []
      else s.leavesFrom va' ls pa

/-- Every mapping of a slot. -/
def State.leaves (s : State) (slot : Fin 16) : List (Nat × Nat × Nat) :=
  let t := s.slots[slot].troot
  if bitAt t 0 then s.leavesFrom 0 levels (bitsAt t 16 32 * 65536) else []

/-- Whether a physical line is named by some address of [b, b + c) in device global memory. -/
def lineIn (ls : List (Nat × Nat × Nat)) (b c line : Nat) : Bool :=
  ls.any fun e =>
    let off := 128 * line - e.2.1
    e.2.1 ≤ 128 * line && off < e.2.2 && 0x0001000000000000 ≤ e.1 + off && e.1 + off < b + c && b < e.1 + off + 128

/-- Cores whose L1 FLUSHD covers: the own one, or the whole fused cluster (R354). -/
def State.l1Cores (s : State) (c : CoreId) : List CoreId :=
  if s.fused.getLsbD (c.val / 8) then (List.range 8).map (clusterMate c) else [c]

/-- A core's lines in a set are written back, and dropped when `inv` (R175). -/
def State.flushLines (s : State) (c : CoreId) (hit : Nat → Bool) (inv : Bool) : State :=
  let ls := (s.core c).l1.filter fun l => hit l.line
  let s1 := ls.foldl (fun s l => s.writeBack c l) s
  let s2 := { s1 with dirty := s1.dirty.filter fun d => !(d.2 == c && hit d.1) }
  s2.modCore c fun k => { k with
    l1 := if inv then k.l1.filter fun l => !hit l.line
      else k.l1.map fun l => if hit l.line then { l with dirty := false } else l }

def execFlushd (inv : Bool) (a b : SReg) (s : State) : Out :=
  s.run (.flushd inv a b) [a, b] fun x =>
    let base := (x.rs a).toNat
    let n := (x.rs b).toNat
    if n == 0 then .ok (s.retire x 4)
    else if base + n > 2 ^ 64 then trap Cause.addr 0 (x.rs a)
    else
      let held := (s.l1Cores s.who.core).any fun c => !(s.core c).l1.isEmpty
      let ls := if held || !s.dirty.isEmpty || !(s.core s.who.core).icache.isEmpty then s.leaves x.slot else []
      let hit := lineIn ls base n
      let s1 := (s.l1Cores s.who.core).foldl (fun s c => s.flushLines c hit inv) s
      let s2 := s1.modCore s.who.core fun k => { k with icache := k.icache.filter fun e => !hit e.1 }
      .ok (s2.retire s2.me 4)

/-! ## Line leases (R176, R177) -/

/-- LEASE subcodes (R177). -/
def Sub.nested : Byte := 1
def Sub.nolease : Byte := 2
def Sub.expired : Byte := 3
def Sub.region : Byte := 4
def Sub.zeromax : Byte := 5
def Sub.wrong : Byte := 6

/-- A lease whose counter has reached zero ends and sets the expired mark (R177). -/
def State.settleLease (s : State) (w : Who) : State :=
  match s.leaseOf w with
  | some l =>
    if l.stop.any fun c => c ≤ s.cycle then (s.endLease w).modCtx w fun x => { x with expired := true } else s
  | none => s

/-- The line of an address. -/
def lineOf (a : Word) : Word := a &&& ~~~(127#64)

/-- Whether a request is the oldest for its line and no lease on the line is current (R176), and no bank role change waits on
the core whose L1 would hold the line (R350, R354). -/
def State.grantable (s : State) (l : LineReq) : Bool :=
  let same := s.lineq.filter fun k => k.phys == l.phys
  (same.all fun k => match k.stop with
    | some c => c ≤ s.cycle
    | none => true) &&
    (match same.find? fun k => k.stop.isNone && s.standing k with
      | some k => k.who == l.who && !k.inbound && !k.access
      | none => false) &&
    (s.core (s.l1Home l.who.core (128 * l.phys))).roleChanges.isEmpty

/-- A granted lease starts its counter, and LLEASE completes (R176). -/
def State.grantLine (s : State) (w : Who) : State :=
  let x := s.ctxOf w
  let grant := fun (l : LineReq) =>
    if l.who == w && l.stop.isNone && !l.access && !l.inbound then { l with stop := some (s.cycle + x.leasemax.toNat) } else l
  { s with lineq := s.lineq.map grant }.setCtx w
    { x with run := .active, blocked := none, pc := pcAfter x.pc 4, since := s.cycle }

def execLlease (a : SReg) (s : State) : Out :=
  s.run (.llease a) [a] fun x0 =>
    let v := x0.rs a
    let s0 := s.settleLease s.who
    if v.extractLsb' 0 7 != 0 then trap Cause.align 0 v
    else if v.toNat < 0x0001000000000000 then trap Cause.lease Sub.region v
    else
      match s0.checkAddr s.who v 1 .write with
      | .error e => .error e
      | .ok (s1, p) =>
        if (s1.leaseOf s.who).isSome then trap Cause.lease Sub.nested v
        else if s1.isSw p then trap Cause.lease Sub.region v
        else if s1.me.leasemax == 0 then trap Cause.lease Sub.zeromax v
        else
          let l : LineReq := { who := s.who, line := v, phys := p / 128, stop := none, access := false, req := none, inbound := false }
          let s2 := { s1 with lineq := s1.lineq ++ [l] }
          if s2.grantable l then .ok (s2.grantLine s.who)
          else .error (.goto (s2.block s.who .lineLease))

def execLlrel (a : SReg) (s : State) : Out :=
  s.run (.llrel a) [a] fun x0 =>
    let v := lineOf (x0.rs a)
    let s1 := s.settleLease s.who
    let x := s1.me
    if x.expired then
      .error (.goto ((s1.modCtx s.who fun x => { x with expired := false }).deliver s.who
        { cause := Cause.lease, sub := Sub.expired, val := v }))
    else
      match s1.leaseOf s.who with
      | none => trap Cause.lease Sub.nolease v
      | some l =>
        if l.line != v then trap Cause.lease Sub.wrong v
        else if s1.localOut s.who then .error (.stall .drain)
        else
          let s2 := s1.endLease s.who
          .ok (s2.retire s2.me 4)

/-- A queued line lease is granted when the previous one has ended (R176). -/
def execLineLeaseGrant (who : Who) (s : State) : Out :=
  match (s.ctxOf who).blocked, s.lineq.find? fun l => l.who == who && l.stop.isNone && !l.access with
  | some .lineLease, some l => if s.grantable l then .next (s.grantLine who) else .next s
  | _, _ => .next s

/-- A line lease counter reaches zero (R177). -/
def execLineLeaseExpiry (who : Who) (s : State) : Out := .next (s.settleLease who)

/-- The store that would exceed DIRTYLIM proceeds after the oldest dirty line is written back (R166). -/
def execDirtyLineWriteback (core : CoreId) (s : State) : Out :=
  if (s.core core).limit ≤ s.dirtyCount core then .next (s.writeOldest core) else .next s

/-! ## MODESW (R183) -/

/-- Physical pages of `n` pages of virtual memory, or the first that fails, with its XLAT subcode. -/
def State.pagesOf (s : State) (slot : Fin 16) (va : Nat) : Nat → Except (Nat × Byte) (State × List Nat)
  | 0 => .ok (s, [])
  | n + 1 =>
    if va < 0x0001000000000000 then .error (va, 0)
    else
      match s.xlate slot va .write with
      | (_, .error e) => .error (va, e)
      | (s1, .ok p) =>
        match s1.pagesOf slot (va + 65536) n with
        | .error e => .error e
        | .ok (s2, ps) => .ok (s2, p / 65536 :: ps)

/-- Every core writes back its dirty lines of some pages and invalidates them (R183). -/
def State.purgePages (s : State) (ps : List Nat) : State :=
  let hit := fun (line : Nat) => ps.contains (line / 512)
  let ls := (List.finRange 512).flatMap fun c => ((s.core c).l1.filter fun l => hit l.line && l.dirty).map fun l => (c, l)
  let s1 := ls.foldl (fun s l => s.writeBack l.1 l.2) s
  { s1 with
    cores := s1.cores.map fun c => if c.l1.isEmpty then c else { c with l1 := c.l1.filter fun l => !hit l.line },
    dirty := s1.dirty.filter fun d => !hit d.1 }

def execModesw (hw : Bool) (a b : SReg) (s : State) : Out :=
  s.run (.modesw hw a b) [a, b] fun x =>
    let va := (x.rs a).toNat
    let n := (x.rs b).toNat
    if n == 0 then .ok (s.retire x 4)
    else if va % 65536 != 0 then trap Cause.align 0 (x.rs a)
    else if n % 65536 != 0 then trap Cause.align 0 (x.rs b)
    else
      match s.pagesOf x.slot va (n / 65536) with
      | .error (v, e) => trap Cause.xlat e (BitVec.ofNat 64 v)
      | .ok (s1, all) =>
        let ps := all.filter fun p => s1.swPages.contains p == hw
        if s1.lineq.any fun l => ps.contains (l.phys / 512) && (l.stop.any fun c => s1.cycle < c) then
          .error (.stall .stall)
        else
          let s2 := s1.purgePages ps
          let s3 := { s2 with swPages := if hw then s2.swPages.filter fun p => !ps.contains p else ps.eraseDups ++ s2.swPages }
          .ok (s3.retire s3.me 4)

end Sys2Proof.Machine
end

