-- ==== Sys2Proof/Machine/Barrier.lean ====
section
/-! DEFINITION. Barriers, clocks and the reporting of engine faults: what the wait instructions and the engines share
(R36 to R41, R193, R194, R197, R317, R318). -/

namespace Sys2Proof.Machine

/-! ## Barriers -/

/-- The completion test after an update (R37). -/
def Barrier.settle (b : Barrier) : Barrier :=
  let ready := if b.expa == 0 then b.expb != 0 else b.arra == b.expa
  if ready && b.expb.ult b.arrb then { b with err := true }
  else if ready && b.arrb == b.expb then { b with arrb := 0, arra := 0, expb := 0, ph := !b.ph, done := true }
  else b

/-- A credit of landed bytes (R37). -/
def Barrier.credit (b : Barrier) (n : Nat) : Barrier := { b with arrb := b.arrb + BitVec.ofNat 32 n }.settle

/-- An arrival that is not discarded, or ERR (R37, R197). -/
def Barrier.arriveRaw (b : Barrier) : Barrier :=
  if b.arra.toNat + 1 > b.expa.toNat then { b with err := true } else { b with arra := b.arra + 1 }

def Barrier.arrive (b : Barrier) : Barrier := b.arriveRaw.settle

/-- BARR and BEXP (R197). -/
def Barrier.barr (b : Barrier) (v : IWord) : Barrier := { b with expb := b.expb + v }.arriveRaw.settle
def Barrier.bexp (b : Barrier) (v : IWord) : Barrier := { b with expb := b.expb + v }.settle

/-- BINIT (R196): one update under R37. -/
def Barrier.init (b : Barrier) (n : Byte) : Barrier :=
  { b with expa := n, arra := 0, expb := 0, arrb := 0, err := false }.settle

def Core.barAt (c : Core) (k : BitVec 6) : Barrier := c.bar[k.toNat]'k.isLt

def State.modBar (s : State) (c : CoreId) (k : BitVec 6) (f : Barrier → Barrier) : State :=
  s.modCore c fun d => { d with bar := d.bar.set k.toNat (f (d.barAt k)) k.isLt }

/-- A barrier update by a command or a launch, with the clock it carries (R318). -/
def State.updateBar (s : State) (c : CoreId) (k : BitVec 6) (v : Clock) (f : Barrier → Barrier) : State :=
  s.modBar c k fun b => f { b with clock := b.clock.join v }

/-! ## Clocks -/

/-- EPOCH (R320, R322). -/
def epochTrap : Trap := { cause := Cause.mmx, sub := 3, val := 0 }

/-- Adds 1 to the context's own epoch, or traps (R318, R322). -/
def Ctx.advanceClock (x : Ctx) : Except Stop Ctx :=
  let e := x.clock.at x.rank
  if e + 1 ≥ 2 ^ 32 then .error (.trap epochTrap)
  else .ok { x with clock := x.clock.setIfInBounds x.rank (BitVec.ofNat 32 (e + 1)) }

def Ctx.joinClock (x : Ctx) (v : Clock) : Ctx := { x with clock := x.clock.join v }

/-! ## Waits and fault reports -/

/-- Blocks in a wait instruction, which has had no effect (R193). -/
def blockWait {α : Type} (i : Instr) : Except Stop α := .error (.wait (.wait i))

/-- Unreported fault that is earliest in issue order among those of a kind (R194). -/
def earliestFault (p : EngFault → Bool) : List EngFault → Option EngFault
  | [] => none
  | f :: fs =>
    match earliestFault p fs with
    | none => if p f then some f else none
    | some g => if p f && f.order < g.order then some f else some g

/-- Reports an engine fault at the issuing instruction, which has no effect (R194, R383). -/
def State.reportFault (s : State) (w : Who) (f : EngFault) : State :=
  (s.modCtx w fun x => { x with faults := x.faults.erase f }).deliver w { cause := f.cause, sub := f.sub, val := f.val }

/-- Traps with the earliest unreported fault of a kind, if there is one. -/
def State.reportIf (s : State) (w : Who) (p : EngFault → Bool) : Except Stop Unit :=
  match earliestFault p (s.ctxOf w).faults with
  | some f => .error (.goto (s.reportFault w f))
  | none => .ok ()

/-- A wait instruction completes: the progress counter starts again (R391). -/
def State.complete (s : State) (x : Ctx) (n : Nat) : State := s.retire (s.progressed x) n

/-- A barrier outside BAROWN (R36, R379). -/
def checkBar (i : Instr) (x : Ctx) (b : BitVec 6) : Except Stop Unit :=
  if x.barown.getLsbD b.toNat then .ok () else .error (.trap (privTrap i))

/-- A context that is blocked in a wait issues its instruction again. -/
def State.wake (s : State) (w : Who) : State :=
  { s.modCtx w fun x => { x with run := .active, blocked := none, since := s.cycle } with who := w }

end Sys2Proof.Machine
end

