-- ==== Sys2Proof/Machine/Template.lean ====
section
/-! DEFINITION. Templates, their CRC, build registers and engine issue (R42 to R44, R104 to R108, R205 to R207, R255,
R339). -/

namespace Sys2Proof.Machine

/-! ## CRC-32C (R283, R339) -/

/-- Eight steps of the reflected CRC register. -/
def crcBits : Nat → Nat → Nat
  | 0, c => c
  | n + 1, c => crcBits n (if c % 2 == 1 then (c / 2) ^^^ 0x82F63B78 else c / 2)

def crcByte (c : Nat) (b : Byte) : Nat := crcBits 8 (c ^^^ b.toNat)

/-- The CRC register over a byte string; the match has each value computed before the next byte. -/
def crcBytes : List Byte → Nat → Nat
  | [], c => c
  | b :: bs, c =>
    match crcByte c b with
    | 0 => crcBytes bs 0
    | n + 1 => crcBytes bs (n + 1)

/-- CRC-32C of a byte string. -/
def crc32c (bs : List Byte) : IWord := BitVec.ofNat 32 (crcBytes bs 0xFFFFFFFF ^^^ 0xFFFFFFFF)

/-- The 129 bytes of a template in its plane's CRC. -/
def Template.bytes (t : Template) : List Byte :=
  if t.valid then 1 :: leBytes 128 t.bits.toNat else 0 :: List.replicate 128 0

/-- CRC-32C over the contents of a plane: template by template (R339). -/
def Plane.computed (p : Plane) : IWord :=
  BitVec.ofNat 32 (p.tmpl.toList.foldl (fun c t => crcBytes t.bytes c) 0xFFFFFFFF ^^^ 0xFFFFFFFF)

/-- A plane with one template replaced; its CRC covers the change (R43, R205). -/
def Plane.put (p : Plane) (t : BitVec 6) (v : Template) : Plane :=
  let q := p.tmpl.set t.toNat v t.isLt
  { tmpl := q, crc := { p with tmpl := q }.computed }

def Plane.at (p : Plane) (t : BitVec 6) : Template := p.tmpl[t.toNat]'t.isLt

def State.modPlanes (s : State) (c : CoreId) (e : Engine) (f : PlanePair → PlanePair) : State :=
  s.modCore c fun k => { k with planes := k.planes.set e.num (f k.planes[e.num]) }

/-! ## Patch words (R104) -/

def pTidx (w : IWord) : BitVec 6 := w.extractLsb' 26 6
def pFsel (w : IWord) : Nat := bitsAt w 20 6
def pIss (w : IWord) : Bool := bitAt w 19
def pKeep (w : IWord) : Bool := bitAt w 18
def pReg (w : IWord) : Bool := bitAt w 17
def pVal (w : IWord) : Nat := bitsAt w 0 16

/-- Registers that a packet's patch words name, in packet order (R15, R103). -/
def patchRegs (ws : List IWord) : List SReg := (ws.filter pReg).map fun w => w.extractLsb' 0 6

/-- The amendment of a patch word (R43 step 2). -/
def amend (x : Ctx) (w : IWord) (t : TemplateBits) : TemplateBits :=
  if pReg w then tPut t (pFsel w) 4 (x.rs (w.extractLsb' 0 6)).toNat else tPut t (pFsel w) 1 (pVal w)

/-- What the hardware writes into a template as it is queued: F2, and for the copy and network engines F60 to F62
(R42, R255). -/
def capture (x : Ctx) (q : Queue) (t : TemplateBits) : TemplateBits :=
  let t1 := tPut t 2 1 (bitsAt x.fpc 0 16)
  match q with
  | .mxq | .vxq => t1
  | _ => tPut (tPut t1 60 2 (bitsAt x.bkoff 0 32)) 62 1 (bitsAt x.bklim 0 8)

/-- A queued command as it is issued. -/
def Cmd.new (t : TemplateBits) (ser order : Nat) (v : Clock) : Cmd :=
  { bits := t, ser := ser % 512, order := order, clock := v, phase := .queued, row := 0, checked := false, credited := 0, bytes := 0,
    flags := 0, waits := [], pushed := [], idx := [], cores := [], conv := [], link := 0, placed := [],
    acked := [], tries := [], dues := [], msg := none }

/-- One patch word's steps 1, 2 and 4 (R43).  An issued CRED is counted among those of its group (R281).  A build register is loaded from the active plane as it stood at the end of the
previous cycle (R108). -/
def applyPatch (q : Queue) (before : Plane) (x : Ctx) (w : IWord) : Ctx :=
  let t := pTidx w
  let base := match x.build[q.num] with
    | some (k, b) => if k == t then b else (before.at t).bits
    | none => (before.at t).bits
  let b := amend x w base
  if pIss w then
    let bits := capture x q b
    let cred := (q == .ldq || q == .stq) && bitsAt (tF bits 0) 0 8 == 0x09
    let g : Byte := BitVec.ofNat 8 (tN bits 28 4)
    { x with
      build := x.build.set q.num none
      queues := x.queues.set q.num (x.queues[q.num] ++
        [{ Cmd.new bits x.sers[q.num] x.order x.clock with link := if cred then countOf x.creds g + 1 else 0 }])
      creds := if cred then countUp x.creds g else x.creds
      sers := x.sers.set q.num (x.sers[q.num] + 1)
      order := x.order + 1 }
  else { x with build := x.build.set q.num (some (t, b)) }

/-- The KEEP amendment of a patch word (R43 step 3). -/
def keepOf (x : Ctx) (k : CtxNo) (w : IWord) : Option Keep :=
  if !pKeep w then none
  else if pReg w then some { ctx := k, tidx := pTidx w, fsel := pFsel w, n := 4, val := (x.rs (w.extractLsb' 0 6)).toNat }
  else some { ctx := k, tidx := pTidx w, fsel := pFsel w, n := 1, val := pVal w }

/-- An amended plane; its CRC covers the change (R43). -/
def Plane.keep (p : Plane) (k : Keep) : Plane :=
  let old := p.at k.tidx
  p.put k.tidx { old with bits := tPut old.bits k.fsel k.n k.val }

/-- The amendments of the current cycle so far. -/
def PlanePair.now (p : PlanePair) (cycle : Nat) : Kept :=
  match p.kept with
  | some l => if l.cycle == cycle then l else { cycle := cycle, before := p.active, base := p.active, made := [] }
  | none => { cycle := cycle, before := p.active, base := p.active, made := [] }

/-- The planes change places: build registers of the same cycle still load from the plane that was active before, and later
amendments apply to the new one (R108). -/
def PlanePair.switched (p : PlanePair) (cycle : Nat) : PlanePair :=
  { active := p.staging, staging := p.active, kept := some { p.now cycle with base := p.staging, made := [] } }

/-- More amendments of a cycle: those of one cycle are applied in ascending context number (R108). -/
def PlanePair.amended (p : PlanePair) (l : Kept) (ks : List Keep) : PlanePair :=
  if ks.isEmpty then p
  else
    let made := l.made ++ ks
    let ordered := (List.finRange 4).flatMap fun j => made.filter fun k => k.ctx == j
    { p with active := ordered.foldl Plane.keep l.base, kept := some { l with made := made } }

/-- Position in a packet of the first patch word that names an empty template (R106). -/
def emptyAt (p : Plane) (ws : List IWord) : Option Nat := ws.findIdx? fun w => !(p.at (pTidx w)).valid

/-- ENGINE subcodes (R381). -/
def Sub.badop : Byte := 1
def Sub.badbar : Byte := 2
def Sub.badtok : Byte := 3
def Sub.badfld : Byte := 4
def Sub.badaddr : Byte := 5
def Sub.blkpart : Byte := 6
def Sub.badep : Byte := 7
def Sub.badslot : Byte := 8
def Sub.fpx : Byte := 9
def Sub.barerr : Byte := 10
def Sub.joinflt : Byte := 11

/-- A packet whose checks have passed: it waits for room, then is applied in one step (R43, R106, R318). -/
def State.applyPacket (s : State) (i : Instr) (q : Queue) (ws : List IWord) : Except Stop State :=
  let x := s.me
  let core := s.core s.who.core
  if x.queues[q.num].length + issCount ws > 32 then blockWait i
  else
    let pl := core.planes[q.engine.num]
    match emptyAt pl.active ws with
    | some k => trap Cause.engine Sub.badop (BitVec.ofNat 64 (k + 256 * (pTidx (ws[k]?.getD 0)).toNat))
    | none =>
      let l := pl.now s.cycle
      match (ws.foldl (applyPatch q l.before) x).advanceClock with
      | .error e => .error e
      | .ok y =>
        let s1 := s.modPlanes s.who.core q.engine fun p => p.amended l (ws.filterMap (keepOf x s.who.ctx))
        .ok (s1.complete y i.size)

/-! ## Instructions -/

def execEmit (q : Queue) (ws : List IWord) (s : State) : Out :=
  s.run (.emit q ws) (patchRegs ws) fun _ => s.applyPacket (.emit q ws) q ws

/-- Loads `n` patch words (R107). -/
def State.loadWords (s : State) (w : Who) (a : Word) : Nat → Except Stop (State × List IWord)
  | 0 => .ok (s, [])
  | n + 1 =>
    match s.load w a 4 with
    | .error e => .error e
    | .ok (s1, bs) =>
      match s1.loadWords w (a + 4) n with
      | .error e => .error e
      | .ok (s2, ws) => .ok (s2, BitVec.ofNat 32 (leNat bs) :: ws)

def execEmitr (q : Queue) (a : SReg) (c : Byte) (s : State) : Out :=
  s.run (.emitr q a c) [a] fun x =>
    if bitsAt (x.rs a) 0 2 != 0 then trap Cause.align 0 (x.rs a)
    else
      match s.loadWords s.who (x.rs a) c.toNat with
      | .error e => .error e
      | .ok (s1, ws) =>
        if !packetOk ws then .error (.trap (illegal (.emitr q a c)))
        else
          match checkRegs x (patchRegs ws) with
          | .error e => .error e
          | .ok _ => s1.applyPacket (.emitr q a c) q ws

def execTmpld (e : Engine) (t : BitVec 6) (a : SReg) (s : State) : Out :=
  s.run (.tmpld e t a) [a] fun x =>
    match s.load s.who (x.rs a) 128 with
    | .error e => .error e
    | .ok (s1, bs) =>
      let v : TemplateBits := BitVec.ofNat 1024 (leNat bs)
      let new : Template := if tF v 0 == 0 then Template.empty else { valid := true, bits := v }
      .ok ((s1.modPlanes s.who.core e fun p => { p with staging := p.staging.put t new }).advance 4)

/-- An engine's number (R114). -/
def engineNum (e : Engine) : Word := e.code.setWidth 64

def execTmpsw (e : Engine) (s : State) : Out :=
  s.run (.tmpsw e) [] fun _ =>
    let p := (s.core s.who.core).planes[e.num]
    if p.staging.crc != p.staging.computed then trap Cause.tmpl 0 (engineNum e)
    else .ok ((s.modPlanes s.who.core e fun p => p.switched s.cycle).advance 4)

def execTmprd (e : Engine) (t : BitVec 6) (d a : SReg) (s : State) : Out :=
  s.compute (.tmprd e t d a) [d, a] d fun x =>
    let p := (s.core s.who.core).planes[e.num]
    let v := (if bitAt (x.rs a) 6 then p.staging else p.active).at t
    BitVec.ofNat 64 ((tF v.bits (bitsAt (x.rs a) 0 6)).toNat + if v.valid then 65536 else 0)

end Sys2Proof.Machine
end

