-- ==== Sys2Proof/Machine/Sync.lean ====
section
/-! DEFINITION. Barrier, token and queue instructions (R195 to R204). -/

namespace Sys2Proof.Machine

/-! ## Barriers -/

def execBinit (b : BitVec 6) (n : Byte) (s : State) : Out :=
  s.run (.binit b n) [] fun x =>
    match checkBar (.binit b n) x b with
    | .error e => .error e
    | .ok _ => .ok ((s.modBar s.who.core b fun v => v.init n).advance 4)

/-- BARR and BEXP: one update, and the barrier's clock joins the issuer's, which then advances (R197, R318). -/
def State.barUpdate (s : State) (i : Instr) (b : BitVec 6) (a : SReg) (f : Barrier → IWord → Barrier) : Out :=
  s.run i [a] fun x =>
    match checkBar i x b, s.releaseLocal s.who with
    | .error e, _ => .error e
    | _, .error e => .error e
    | .ok _, .ok _ =>
      match x.advanceClock with
      | .error e => .error e
      | .ok y => .ok ((s.updateBar s.who.core b x.clock fun v => f v ((x.rs a).extractLsb' 0 32)).retire y 4)

def execBarr (b : BitVec 6) (a : SReg) (s : State) : Out := s.barUpdate (.barr b a) b a Barrier.barr
def execBexp (b : BitVec 6) (a : SReg) (s : State) : Out := s.barUpdate (.bexp b a) b a Barrier.bexp

/-- A faulted command on which a BWAIT depends: it names the barrier with credit enable (R194). -/
def faultNames (b : BitVec 6) (f : EngFault) : Bool := bitAt f.f1 10 && f.f1.extractLsb' 4 6 == b

def execBwait (b : BitVec 6) (p : Bool) (s : State) : Out :=
  s.run (.bwait b p) [] fun x =>
    match checkBar (.bwait b p) x b with
    | .error e => .error e
    | .ok _ =>
      let v := (s.core s.who.core).barAt b
      if v.err then trap Cause.engine Sub.barerr (b.setWidth 64)
      else
        match s.reportIf s.who (faultNames b) with
        | .error e => .error e
        | .ok _ => if v.ph != p then .ok (s.complete (x.joinClock v.clock) 4) else blockWait (.bwait b p)

/-- BTEST (R199): Sd is checked first, and S(d + 1) does not exist for d = 63.  It takes the
barrier's clock once a phase has completed (R318). -/
def execBtest (d : SReg) (b : BitVec 6) (s : State) : Out :=
  s.run (.btest d b) [d] fun x =>
    if d == 63 || d.toNat + 1 ≥ x.allot.toNat then trap Cause.regbound 0 (BitVec.ofNat 64 (d.toNat + 1))
    else
      match checkBar (.btest d b) x b with
      | .error e => .error e
      | .ok _ =>
        let v := (s.core s.who.core).barAt b
        let y := (x.ws d (v.image.extractLsb' 0 64)).ws (d + 1) (v.image.extractLsb' 64 64)
        .ok (s.retire (if v.done then y.joinClock v.clock else y) 4)

/-! ## Group barrier (R200) -/

/-- Ranks of a mask. -/
def ranksOf (m : Word) : List Nat := (List.range 64).filter fun k => m.getLsbD k

/-- A member is blocked in its next GBAR g, or has been released from it. -/
def Ctx.inGbar (x : Ctx) (g : Byte) : Bool :=
  match x.blocked with
  | some (.wait (.gbar h)) => h == g
  | some (.released (.gbar h) _) => h == g
  | _ => false

/-- A member has executed its k-th GBAR g, or counts as arrived (R200, R378). -/
def State.gbarArrived (s : State) (t : Team) (g : Byte) (k r : Nat) : Bool :=
  t.hasLeft r ||
    match t.whoOf r with
    | some w =>
      let y := s.ctxOf w
      k ≤ countOf y.gbars g || (k == countOf y.gbars g + 1 && y.inGbar g)
    | none => false

/-- Clock of a rank: its context's, or its final one (R318). -/
def State.rankClock (s : State) (t : Team) (r : Nat) : Clock :=
  match t.whoOf r with
  | some w => (s.ctxOf w).clock
  | none => ((t.finals.find? fun f => f.1 == r).map (·.2)).getD Clock.zero

/-- Join of the clocks of ranks. -/
def State.joinRanks (s : State) (t : Team) (rs : List Nat) : Clock :=
  rs.foldl (fun v r => v.join (s.rankClock t r)) Clock.zero

/-- The context's own part of a completed GBAR (R200, R318). -/
def Ctx.passGbar (x : Ctx) (g : Byte) (v : Clock) : Except Stop Ctx :=
  match (x.joinClock v).advanceClock with
  | .error e => .error e
  | .ok y => .ok { y with gbars := countUp y.gbars g }

/-- Members that wait at the same GBAR are released (R200). -/
def State.releaseGbar (s : State) (t : Team) (g : Byte) (rs : List Nat) (v : Clock) : State :=
  rs.foldl (fun s r =>
    match t.whoOf r with
    | some w => s.modCtx w fun y => if y.blocked == some (.wait (.gbar g)) then { y with blocked := some (.released (.gbar g) v) } else y
    | none => s) s

def execGbar (g : Byte) (s : State) : Out :=
  s.run (.gbar g) [] fun x =>
    let m := s.groupMask x g
    match s.teamOf x with
    | none => trap Cause.priv 0 (g.setWidth 64)
    | some t =>
      if !m.getLsbD x.rank then trap Cause.priv 0 (g.setWidth 64)
      else
        let others := (ranksOf m).filter fun r => r != x.rank
        let k := countOf x.gbars g + 1
        if s.localOut s.who then .error (.stall .drain)
        else if others.all (s.gbarArrived t g k) then
          let v := s.joinRanks t (ranksOf m)
          match x.passGbar g v with
          | .error e => .error e
          | .ok y => .ok ((s.complete y 4).releaseGbar t g others v)
        else blockWait (.gbar g)

/-! ## Tokens (R201) -/

/-- Queue that supplies a FIFO, and the push-after bit of F1 towards it (R40, R42). -/
def fifoSource (f : Fifo) : Queue × Nat := match f with
  | .lm => (.ldq, 3) | .ml => (.mxq, 2) | .mv => (.mxq, 3) | .vm => (.vxq, 2) | .vs => (.vxq, 3) | .sv => (.stq, 2)

/-- A faulted command on which a TKPOP of an empty FIFO depends: the oldest of the supplying queue that has a push into it to
make (R194). -/
def faultPushes (x : Ctx) (f : Fifo) (e : EngFault) : Bool :=
  let q := fifoSource f
  e.queue == q.1 && bitAt e.f1 q.2 &&
    x.queues[q.1.num].all fun c => !(bitAt (tF c.bits 1) q.2) || c.pushed.contains f || decide (e.order < c.order)

def execTkpop (f : Fifo) (s : State) : Out :=
  s.run (.tkpop f) [] fun x =>
    match x.tok[f.num] with
    | v :: rest => .ok (s.complete ({ x with tok := x.tok.set f.num rest }.joinClock v) 4)
    | [] =>
      match s.reportIf s.who (faultPushes x f) with
      | .error e => .error e
      | .ok _ => blockWait (.tkpop f)

def execTkpush (f : Fifo) (s : State) : Out :=
  s.run (.tkpush f) [] fun x =>
    if s.localOut s.who then .error (.stall .drain)
    else if x.tok[f.num].length < 16 then
      match { x with tok := x.tok.set f.num (x.tok[f.num] ++ [x.clock]) }.advanceClock with
      | .error e => .error e
      | .ok y => .ok (s.complete y 4)
    else blockWait (.tkpush f)

/-! ## Queues (R203, R204) -/

def execQwait (q : Queue) (n : BitVec 6) (s : State) : Out :=
  s.run (.qwait q n) [] fun x =>
    match s.reportIf s.who fun f => f.queue == q with
    | .error e => .error e
    | .ok _ => if x.pendOf q.num ≤ n.toNat then .ok (s.complete x 4) else blockWait (.qwait q n)

/-- FIFOs into a queue from its left and right neighbours (R40, R204). -/
def fifosInto (q : Queue) : Option Fifo × Option Fifo := match q with
  | .ldq => (none, some .ml) | .mxq => (some .lm, some .vm) | .vxq => (some .mv, some .sv)
  | .stq => (some .vs, none) | .nxq => (none, none)

/-- FIFOs from a queue towards its left and right neighbours (R40, R41). -/
def fifosFrom (q : Queue) : Option Fifo × Option Fifo := match q with
  | .ldq => (none, some .lm) | .mxq => (some .ml, some .mv) | .vxq => (some .vm, some .vs)
  | .stq => (some .sv, none) | .nxq => (none, none)

def Ctx.tokCount (x : Ctx) : Option Fifo → Nat
  | some f => x.tok[f.num].length
  | none => 0

/-- The snapshot of QSTAT (R204). -/
def Ctx.qstat (x : Ctx) (q : Queue) : Word :=
  let f := fifosInto q
  let b := x.build[q.num]
  BitVec.ofNat 64 (x.pendOf q.num + (if x.fltOf q then 64 else 0) + x.tokCount f.1 * 2 ^ 8 + x.tokCount f.2 * 2 ^ 16
    + (match b with | some (t, _) => 2 ^ 32 + t.toNat * 2 ^ 33 | none => 0))

def execQstat (q : Queue) (d : SReg) (s : State) : Out := s.compute (.qstat q d) [d] d fun x => x.qstat q

end Sys2Proof.Machine
end

