-- ==== Sys2Proof/Machine/Target.lean ====
section
/-! DEFINITION. The fabric: which station carries a request (R405), what this package does as the target of one (R190,
R384, R401, R418, R474), and leases as the package holds them (R191, R369). -/

namespace Sys2Proof.Machine

/-! ## Messages and stations -/

/-- A message leaves the package. -/
def State.send (s : State) (m : Msg) : State := { s with outbox := s.outbox ++ [m] }

/-- A station is live (R405). -/
def Station.live (t : Station) : Bool := t.state == .up || t.state == .train && t.wasUp

/-- The first live station of plane routing (R405). -/
def State.planeFrom (s : State) (dst : BitVec 11) (page : Nat) : Option (Fin 64) :=
  let p := page % 64 + bitsAt dst 0 6
  ((List.finRange 64).map fun k => (⟨(p + k.val) % 64, by omega⟩ : Fin 64)).find? fun k =>
    s.stations[k].live && !s.stations[k].lane

/-- plane(dst, page) of R405: the station of a request, or none. -/
def State.planeOf (s : State) (dst : BitVec 11) (page : Nat) : Option (Fin 64) :=
  let names := fun (e : Word) => bitAt e 0 && !bitAt dst 10 && e.extractLsb' 1 10 == dst.extractLsb' 0 10
  match s.mgmt.dlroute.toList.find? names with
  | some e =>
    let k : Fin 64 := ⟨bitsAt e 11 6 % 64, by omega⟩
    if s.stations[k].live then some k else s.planeFrom dst page
  | none => s.planeFrom dst page

/-- This package as a reporting station (R475). -/
def State.ownStation (s : State) : BitVec 12 := 0#2 ++ s.mgmt.stnid

/-- The node of an object is this package (R364). -/
def State.isOwn (s : State) (node : BitVec 11) : Bool := node == s.ownNode

/-! ## Requests -/

/-- Target page of an element (R405). -/
def ElemRef.page (r : ElemRef) : Nat := r.addr / 65536

/-- Station of a request: none is needed inside the package. -/
def State.stationFor (s : State) (r : ElemRef) : Option (Fin 64) := s.planeOf r.node r.page

/-- No live station carries the request (R405). -/
def State.noRoute (s : State) (r : ElemRef) : Bool := !s.servesRef r && (s.stationFor r).isNone

/-- ROUTE naming this package's own station (R475). -/
def State.ownRoute (s : State) : FarFault := .route s.ownStation

/-- An earlier request of the package to a page of a package, fetches of pages included, is unanswered on another station (R405). -/
def State.pageRemaps (s : State) (id : Nat) (node : BitVec 11) (page : Nat) (k : Option (Fin 64)) : Bool :=
  (s.reqs.any fun q =>
      !q.isSlot && q.id < id && q.ref.node == node && q.ref.page == page && q.station.isSome && q.station != k)
    || s.cache.any fun c => c.page == page && c.fetch.any fun f => f.id < id && f.node == node && f.station.isSome && f.station != k

def State.remapWaits (s : State) (id : Nat) (r : ElemRef) (k : Option (Fin 64)) : Bool := s.pageRemaps id r.node r.page k

/-- A request is sent at once on its station, unless the station retrains (R412) or an earlier one must be answered first
(R405); one without a live station is not sent. -/
def State.sendsNow (s : State) (id : Nat) (r : ElemRef) (k : Option (Fin 64)) : Bool :=
  (match k with
    | some k => s.stations[k].state != .train
    | none => s.servesRef r) && !s.remapWaits id r k

/-- The station that R405 gives a request now; a request within the package needs none. -/
def State.viaOf (s : State) (r : ElemRef) : Option (Fin 64) := if s.servesRef r then none else s.stationFor r

/-- A chunk of a conversion of which eight earlier ones are in flight waits for them (R424). -/
def State.chunkWaits (s : State) (q : Req) : Bool :=
  q.isChunk && 8 ≤ (s.reqs.filter fun r => r.isChunk && r.conv == q.conv && r.id < q.id).length

/-- A request to a switch goes out on its plane's station. -/
def State.routedSlot (s : State) (q : Req) : Req :=
  { q with sent := (q.station.any fun k => s.stations[k].state == .up) && !s.chunkWaits q }

/-- A request takes its station, and goes out on it if it may. -/
def State.routed (s : State) (q : Req) : Req :=
  { q with station := s.viaOf q.ref, sent := s.sendsNow q.id q.ref (s.viaOf q.ref) && !s.chunkWaits q }

/-- A fetch as it is sent (R364, R404, R405). -/
def State.newFetch (s : State) (page : Nat) (node : BitVec 11) (tag : Word) : Fetch :=
  let k := s.planeOf node page
  { id := s.nextId, node := node, captag := tag, station := k,
    sent := (k.any fun k => s.stations[k].state == .up) && !s.pageRemaps s.nextId node page k }

/-- A page's fetch that waited to be sent goes out on the station that R405 now gives it (R405, R412). -/
def State.resendFetch (s : State) (c : CachePage) : CachePage :=
  { c with fetch := c.fetch.map fun f =>
      if f.sent then f
      else
        let k := s.planeOf f.node c.page
        { f with station := k, sent := (k.any fun k => s.stations[k].state == .up) && !s.pageRemaps f.id f.node c.page k } }

/-- Requests and page fetches that waited to be sent go out on the station that R405 now gives them, in their order (R405,
R412). -/
def State.sendWaiting (s : State) : State :=
  if s.reqs.all (·.sent) && s.cache.all fun c => c.fetch.all (·.sent) then s
  else { s with
    cache := s.cache.map s.resendFetch,
    reqs := s.reqs.map fun (q : Req) =>
      if q.sent then q
      else if q.isSlot then s.routedSlot q
      else s.routed q }

def State.addReq (s : State) (r : Req) : State := { s with reqs := s.reqs ++ [r], nextId := s.nextId + 1 }

def State.modReq (s : State) (id : Nat) (f : Req → Req) : State :=
  { s with reqs := s.reqs.map fun r => if r.id == id then f r else r }

/-- A request is over: it leaves its place behind a line lease, and requests that waited for it are sent. -/
def State.dropReq (s : State) (id : Nat) : State :=
  { s with reqs := s.reqs.filter fun r => r.id != id,
           lineq := s.lineq.filter fun l => l.inbound || l.req != some id }.sendWaiting

/-- Requests that a test picks are over. -/
def State.dropReqs (s : State) (gone : Req → Bool) : State :=
  if s.reqs.any gone then { s with reqs := s.reqs.filter fun r => !gone r }.sendWaiting else s

def State.reqAt (s : State) (id : Nat) : Option Req := s.reqs.find? fun r => r.id == id

/-! ## Spans -/

/-- `n` bytes from an address, cut at 64 KiB page boundaries: address and length of each part. -/
def pageParts (va n : Nat) : List (Nat × Nat) :=
  if n == 0 then []
  else (List.range ((va + n - 1) / 65536 - va / 65536 + 1)).map fun k =>
    let lo := Nat.max va ((va / 65536 + k) * 65536)
    let hi := Nat.min (va + n) ((va / 65536 + k + 1) * 65536)
    (lo, hi - lo)

/-- Places of the parts of a range in device global memory, or the first address that fails with its XLAT subcode. -/
def State.spans (s : State) (slot : Fin 16) (need : Need) : List (Nat × Nat) → State × Except (Nat × Byte) (List (Nat × Nat))
  | [] => (s, .ok [])
  | (va, n) :: rest =>
    if va < 0x0001000000000000 then (s, .error (va, 0))
    else
      match s.xlate slot va need with
      | (s1, .error e) => (s1, .error (va, e))
      | (s1, .ok p) =>
        match s1.spans slot need rest with
        | (s2, .ok ps) => (s2, .ok ((p, n) :: ps))
        | (s2, .error e) => (s2, .error e)

/-- Bytes of a list of spans. -/
def State.readSpans (s : State) (ps : List (Nat × Nat)) : List Byte := ps.flatMap fun p => s.rawRead p.1 p.2

/-- The home slices recall the owned lines of a list of spans before an agent without an L1 reads them (R351). -/
def State.recallSpans (s : State) (ps : List (Nat × Nat)) : State := ps.foldl (fun s p => s.recallRange p.1 p.2) s

/-- Writes bytes over a list of spans at their homes. -/
def State.writeSpans (s : State) : List (Nat × Nat) → List Byte → State
  | [], _ => s
  | (p, n) :: ps, bs => (s.homeWrite p (bs.take n)).writeSpans ps (bs.drop n)

def State.spansPoisoned (s : State) (ps : List (Nat × Nat)) : Bool := ps.any fun p => s.poisoned p.1 p.2

/-- The ECC fault of spans that meet poison, or an error that cannot be corrected (R380). -/
def State.spansEcc (s : State) (ps : List (Nat × Nat)) : FarFault := .ecc (ps.any fun p => s.eccSub p.1 p.2 == 2)

/-! ## Serving requests -/

/-- An address that does not translate at the target is logged, and the request answered receiver-not-ready (R384). -/
def State.refuse (s : State) (va : Nat) : State × Answer := (s.logEvent s.unitSrc .xlatrefuse [BitVec.ofNat 64 va], .rnr)

/-- Places that byte ranges of an object name in this package: the range of an element, and that of the scale words of its
blocks.  A scratch region lies in the window of a core (R366). -/
def State.refSpans (s : State) (core : CoreId) (slot : Fin 16) (scratch : Bool) (ranges : List (Nat × Nat)) (need : Need) :
    State × Except Nat (List (Nat × Nat)) :=
  if scratch then (s, .ok (ranges.map fun a => (scratchPlace core a.1, a.2)))
  else
    match s.spans slot need (ranges.flatMap fun a => pageParts a.1 a.2) with
    | (s1, .ok ps) => (s1, .ok ps)
    | (s1, .error e) => (s1, .error e.1)

/-- Entry of the lease table for an object of this package (R474). -/
def State.leaseEntry (s : State) (k : ObjKey) : Option LeaseEntry :=
  match k with
  | .dev _ b => s.leases.find? fun e => e.base == b
  | .pool _ => none

/-- A token below the highest granted, or 0, is refused (R185, R309). -/
def State.fences (s : State) (r : ElemRef) : Bool :=
  match r.token with
  | none => false
  | some t => t == 0 || (s.leaseEntry r.key).any fun e => t.toNat < e.token.toNat

/-- Another package's lease on the object is current (R308, R474). -/
def State.leasedAway (s : State) (r : ElemRef) (src : BitVec 11) : Bool :=
  r.token.isSome && (s.leaseEntry r.key).any fun e =>
    s.gtc.toNat < e.stop.toNat && (match e.holder with
      | some h => h != src
      | none => false)

/-- A write with its flag, and of a block with its scale words in one access (R64): a flag that is not homed here is refused,
both tokens are checked before either is performed, and the flag add follows the data (R418). -/
def State.serveWrite (s : State) (core : CoreId) (slot : Fin 16) (src : BitVec 11) (r : ElemRef) (data : List Byte)
    (scale : Option (Nat × List Byte)) (flag : Option ElemRef) : State × Answer :=
  let refs := r :: flag.toList
  let words := (scale.map (·.2)).getD []
  let ranges := (r.addr, data.length) :: (scale.map fun p => (p.1, p.2.length)).toList
  if flag.any fun f => !s.servesRef f then (s, .fault .handle)
  else if refs.any s.fences then (s, .fault .fenced)
  else if refs.any fun e => s.leasedAway e src then (s, .rnr)
  else
    match s.refSpans core slot r.scratch ranges .write with
    | (s1, .error va) => s1.refuse va
    | (s1, .ok ps) =>
      if data.length + words.length ≤ 8 && s1.spansPoisoned ps then (s1, .fault (s1.spansEcc ps))
      else
        match flag with
        | none => (s1.writeSpans ps (data ++ words), .ack)
        | some f =>
          match s1.refSpans core slot f.scratch [(f.addr, 8)] .both with
          | (s2, .error va) => s2.refuse va
          | (s2, .ok fs) =>
            if s2.spansPoisoned fs then (s2, .fault (s2.spansEcc fs))
            else
              let s3 := s2.writeSpans ps (data ++ words)
              let p := (fs.head?.map (·.1)).getD 0
              ((s3.rmw p .add 8 1 0).1, .ack)

/-- A read of byte ranges in one access (R64, R384). -/
def State.serveRead (s : State) (core : CoreId) (slot : Fin 16) (scratch : Bool) (ranges : List (Nat × Nat)) :
    State × Except Answer (List Byte) :=
  match s.refSpans core slot scratch ranges .read with
  | (s1, .error va) =>
    let q := s1.refuse va
    (q.1, .error q.2)
  | (s1, .ok ps) => if s1.spansPoisoned ps then (s1, .error (.fault (s1.spansEcc ps))) else (s1.recallSpans ps, .ok (s1.readSpans ps))

/-- An atomic at the home of an object (R190). -/
def State.serveAtomic (s : State) (core : CoreId) (slot : Fin 16) (src : BitVec 11) (r : ElemRef) (op : AtomOp) (n : Nat)
    (x e : Word) : State × Answer :=
  if s.fences r then (s, .fault .fenced)
  else if s.leasedAway r src then (s, .rnr)
  else
    match s.refSpans core slot r.scratch [(r.addr, n)] .both with
    | (s1, .error va) => s1.refuse va
    | (s1, .ok ps) =>
      if s1.spansPoisoned ps then (s1, .fault (s1.spansEcc ps))
      else
        let p := (ps.head?.map (·.1)).getD 0
        let q := s1.rmw p op n x e
        (q.1, .data q.2 ((atomNew op n q.2 x e).getD q.2))

/-- Nanoseconds of a lease term in µs (R191). -/
def termNs (term : Word) : Word := term * 1000

/-- LTERM as a term in µs; 0 is taken as 5,000 (R361). -/
def State.ownTerm (s : State) : Word :=
  let t := bitsAt s.mgmt.lterm 0 32
  BitVec.ofNat 64 (if t == 0 then 5000 else t)

/-- A lease request or extension at this package as holding package (R191, R308, R474). -/
def State.serveLease (s : State) (src : BitVec 11) (base term : Word) : State × Answer :=
  let stop := s.gtc + termNs term
  match s.leases.find? fun e => e.base == base with
  | none =>
    if 1024 ≤ s.leases.length then (s, .rnr)
    else ({ s with leases := s.leases ++ [{ base := base, stop := stop, token := 1, holder := some src }] }, .grant stop 1 0)
  | some e =>
    let current := e.holder.isSome && s.gtc.toNat < e.stop.toNat
    if current && e.holder != some src then (s, .rnr)
    else
      let t := if current then e.token else e.token + 1
      ({ s with leases := s.leases.map fun f => if f.base == base then { f with stop := stop, token := t, holder := some src } else f },
        .grant stop t 0)

/-- A release at this package as holding package; its entry and token stay (R474). -/
def State.serveRelease (s : State) (src : BitVec 11) (base : Word) : State × Answer :=
  ({ s with leases := s.leases.map fun e => if e.base == base && e.holder == some src then { e with holder := none } else e },
    .released)

/-! ## Requests from the fabric -/

/-- A device-memory element of this package as a message names it, or a flag element of the node that the message names. -/
def remoteRef (node : BitVec 11) (base addr : Word) (fenced : Bool) (token : Word) : ElemRef :=
  { key := .dev node base, node := node, scratch := false, addr := addr.toNat, token := if fenced then some token else none,
    captag := 0 }

/-- An answer leaves on the station that R405 gives for the requester. -/
def State.answerTo (s : State) (dest : BitVec 11) (page : Nat) (a : Answer) : State :=
  s.send (.reply dest (s.planeOf dest page) a)

/-- The direct lane that names a destination is quiescing or quiesced (R416). -/
def State.quietLane (s : State) (dst : BitVec 11) : Bool :=
  match s.mgmt.dlroute.toList.find? fun (e : Word) => bitAt e 0 && !bitAt dst 10 && e.extractLsb' 1 10 == dst.extractLsb' 0 10 with
  | some e =>
    let k : Fin 64 := ⟨bitsAt e 11 6 % 64, by omega⟩
    s.stations[k].state == .quiescing || s.stations[k].state == .quiesced
  | none => false

/-- An answer to the source of a request for another station travels back by the rules of R405 (R414). -/
def State.relayBack (s : State) (src : BitVec 11) (page : Nat) (a : Answer) : State :=
  s.send (.relayAnswer src (s.planeOf src page) a)

/-- A request received on a direct lane for another station is relayed on the road that R405 gives, with its relay count raised,
and a record is kept of it; one that has been relayed three times, or finds no road, is answered ROUTE with the own station;
one whose lane is quiescing or quiesced, or which a link in KEYEXH carries, is answered receiver-not-ready (R411, R414, R416). -/
def State.relayOn (s : State) (via : Fin 64) (src dst : BitVec 11) (page count : Nat) : State :=
  if s.stations[via].state == .keyexh then s.relayBack src page .rnr
  else if 3 ≤ count then s.relayBack src page (.fault (.route s.ownStation))
  else if s.quietLane dst then s.relayBack src page .rnr
  else
    match s.planeOf dst page with
    | some k =>
      let r : RelayRec := { id := s.nextId, src := src, page := page, station := k }
      { s with relays := s.relays ++ [r], nextId := s.nextId + 1 }.send (.relay dst k (count + 1))
    | none => s.relayBack src page (.fault (.route s.ownStation))

/-- RELAY_REQUEST: a request for another station; the answer to one that this package has relayed, which ends its record; or another
answer for another station, which goes on by the same rules (R414). -/
def execRelayRequest (dst : Relay) (page count : Nat) (s : State) : Out :=
  match dst with
  | .request via src dst => .next (s.relayOn via src dst page count)
  | .answer id a =>
    match s.relays.find? fun r => r.id == id with
    | some r => .next ({ s with relays := s.relays.filter fun q => q.id != id }.relayBack r.src r.page a)
    | none => .next s
  | .passing _ dst a => if dst == s.ownNode then .next s else .next (s.relayBack dst page a)

/-! ## Leases that the package holds -/

def State.holdOf (s : State) (k : ObjKey) : Option Hold := s.holds.find? fun h => h.key == k

/-- LGUARD in ns (R361). -/
def State.guardNs (s : State) : Nat := bitsAt s.mgmt.lguard 0 16

/-- The lease is held until the GTC passes its end (R191). -/
def State.heldNow (s : State) (k : ObjKey) : Option Hold :=
  (s.holdOf k).bind fun h => if 0 < h.count && s.gtc.toNat < h.stop.toNat then some h else none

/-- The lease is current: until LGUARD before its end (R369). -/
def State.leaseCurrent (s : State) (k : ObjKey) : Bool :=
  (s.heldNow k).any fun h => s.gtc.toNat + s.guardNs < h.stop.toNat

/-- Token that the package holds for an object, or 0 (R182, R185). -/
def State.tokenOf (s : State) (k : ObjKey) : Word := ((s.heldNow k).map (·.token)).getD 0

/-- How an object is keyed (R367, R474). -/
def State.objKey (s : State) (o : Obj) : ObjKey :=
  if o.kind == 0 then .pool o.poolid else if o.kind == 1 then .dev o.node o.base else .dev s.ownNode o.base

/-- Node that homes an object (R364); a scratch region is this package's. -/
def State.homeOf (s : State) (o : Obj) : BitVec 11 := if o.kind == 2 then s.ownNode else o.node

/-- Byte of element `e`: an offset within a pool object, or an address (R366). -/
def Obj.byteOf (o : Obj) (e : Nat) : Nat := (if o.kind == 0 then 0 else o.base.toNat) + e * o.width / 8

/-- Address of the scale word of element `e`'s block (R366). -/
def Obj.scaleOf (o : Obj) (e : Nat) : Nat := o.scale.toNat + 4 * (e / 32)

/-- Reference to an element, with the token that a write carries (R185). -/
def State.elemRef (s : State) (o : Obj) (e : Nat) : ElemRef :=
  let k := s.objKey o
  { key := k, node := s.homeOf o, scratch := o.kind == 2, addr := o.byteOf e,
    token := if o.fenced then some (s.tokenOf k) else none, captag := o.captag }

/-! ## The pool cache (R368 to R372) -/

/-- A page of the pool cache; a page that is not listed is INVALID. -/
def State.cachePage (s : State) (id : Word) (page : Nat) : Option CachePage :=
  s.cache.find? fun c => c.poolid == id && c.page == page

def State.setPage (s : State) (p : CachePage) : State :=
  { s with cache := p :: s.cache.filter fun c => !(c.poolid == p.poolid && c.page == p.page) }

def State.dropPage (s : State) (id : Word) (page : Nat) : State :=
  { s with cache := s.cache.filter fun c => !(c.poolid == id && c.page == page) }

/-- Pages of a pool object become INVALID; reads that wait for a fill of one are served over the fabric. -/
def State.dropWhere (s : State) (k : ObjKey) (gone : PageState → Bool) : State :=
  match k with
  | .pool id =>
    let out := s.cache.filter fun c => c.poolid == id && gone c.state
    { s with cache := s.cache.filter fun c => !(c.poolid == id && gone c.state),
             reqs := s.reqs.map fun (r : Req) =>
               if r.fill && r.ref.key == k && out.any fun c => c.page == r.ref.page then s.routed { r with fill := false } else r }
  | .dev _ _ => s

/-- Every page of an object becomes INVALID. -/
def State.dropPages (s : State) (k : ObjKey) : State := s.dropWhere k fun _ => true

/-- A page that was read, or is being read, under a lease. -/
def PageState.leased (c : PageState) : Bool := match c with
  | .valid => true
  | .filling _ => true
  | _ => false

/-- Pages that hold the staged elements and scale words of a conversion (R425). -/
def State.stagePages (s : State) (c : Conv) : Nat :=
  match (s.launchAt c.launch).bind fun l => l.obj c.obj with
  | none => 0
  | some o => ((c.staged.foldl (fun n e => n + if 2 ^ 60 ≤ e.1 then 32 else o.width) 0) / 8 + 65535) / 65536

def State.stagedPages (s : State) : Nat := (s.convs.map s.stagePages).foldl (· + ·) 0

/-- The pages of the copies and of the staging are no more than PCSIZE gives (R368, R425). -/
def State.stagesWithin (s : State) : Bool := s.cache.length + s.stagedPages ≤ 16384 * bitsAt s.mgmt.pcsize 0 10

/-- Room for another page (R368, R369); no page is replaced. -/
def State.cacheRoom (s : State) : Bool := s.cache.length + s.stagedPages < 16384 * bitsAt s.mgmt.pcsize 0 10

/-- How a read of a pool page is served (R369). -/
inductive PoolPath
  | copy (p : CachePage)
  | fill
  | fabric
  deriving DecidableEq, Repr

def State.poolPath (s : State) (id : Word) (page : Nat) : PoolPath :=
  if !s.leaseCurrent (.pool id) then .fabric
  else
    match s.cachePage id page with
    | some c =>
      match c.state with
      | .valid => .copy c
      | .filling _ => .fill
      | .fetching => .fill
      | .ahead _ => .fill
    | none => if s.cacheRoom then .fill else .fabric

/-- A page that a read waits for is FILLING, and the whole page is fetched (R369). -/
def State.startFill (s : State) (id : Word) (page : Nat) (node : BitVec 11) (tag : Word) : State :=
  match (s.cachePage id page).map CachePage.state with
  | some (.filling _) => s
  | _ => { s with nextId := s.nextId + 1 }.setPage
      { poolid := id, page := page, state := .filling [], data := [], fetch := some (s.newFetch page node tag) }

/-- A page that is to be filled has no live station (R405). -/
def State.fillNoRoute (s : State) (id : Word) (page : Nat) (node : BitVec 11) : Bool :=
  match (s.cachePage id page).map CachePage.state with
  | some (.filling _) => false
  | _ => (s.planeOf node page).isNone

/-- One acknowledged write on a page's bytes. -/
def PageWrite.on (m : List Host.Cell) : PageWrite → List Host.Cell
  | .bytes off bs => cellsWrite m off bs
  | .add off v => cellsWrite m off (leBytes 8 ((leNat (cellsRead m off 8) + v.toNat) % 2 ^ 64))

/-- The copy takes an acknowledged write to one page (R370). -/
def State.copyWrite (s : State) (id : Word) (page : Nat) (w : PageWrite) : State :=
  match s.cachePage id page with
  | none => s
  | some c =>
    match c.state with
    | .valid => s.setPage { c with data := w.on c.data }
    | .filling l => s.setPage { c with state := .filling (l ++ [w]) }
    | _ => s.dropPage id page

/-- The copy takes acknowledged bytes from an offset of a pool object (R370). -/
def State.copyBytes (s : State) (id : Word) (off : Nat) (bs : List Byte) : State :=
  (pageParts off bs.length).foldl (fun s p =>
    s.copyWrite id (p.1 / 65536) (.bytes (p.1 % 65536) ((bs.drop (p.1 - off)).take p.2))) s

/-- A write to a page held AHEAD sets it INVALID (R370). -/
def State.dropAhead (s : State) (id : Word) (off n : Nat) : State :=
  let pages := (pageParts off n).map fun p => p.1 / 65536
  { s with cache := s.cache.filter fun c => !(c.poolid == id && pages.contains c.page && (match c.state with
      | .ahead _ => true
      | .fetching => true
      | _ => false)) }

end Sys2Proof.Machine
end

