-- ==== Sys2Proof/Machine/Command.lean ====
section
/-! DEFINITION. What the engines share: which command of a queue starts next (R39, R41, R222, R253, R383), the start
checks (R250, R256), engine addresses (R227, R260, R273), faults (R382, R383) and completion (R223, R254). -/

namespace Sys2Proof.Machine

/-! ## Queues -/

/-- FIFOs that a command's pop-before bits name, left first (R41); a missing neighbour gives none. -/
def Cmd.pops (c : Cmd) (q : Queue) : List Fifo :=
  let f := fifosInto q
  (if bitAt (tF c.bits 1) 0 then f.1.toList else []) ++ (if bitAt (tF c.bits 1) 1 then f.2.toList else [])

/-- FIFOs that its push-after bits name (R41). -/
def Cmd.pushes (c : Cmd) (q : Queue) : List Fifo :=
  let f := fifosFrom q
  (if bitAt (tF c.bits 1) 2 then f.1.toList else []) ++ (if bitAt (tF c.bits 1) 3 then f.2.toList else [])

/-- Pushes that a command still owes (R41). -/
def Cmd.owes (c : Cmd) (q : Queue) : List Fifo := (c.pushes q).filter fun f => !c.pushed.contains f

/-- A push-after that waits for room holds the rest of its queue (R41). -/
def Ctx.pushBlocked (x : Ctx) (q : Queue) (c : Cmd) : Bool :=
  c.phase == .done && (c.owes q).any fun f => 16 ≤ x.tok[f.num].length

/-- The head of a queue has finished and its pushes are due: nothing behind it starts until they have been made (R41). -/
def Ctx.pushDue (x : Ctx) (q : Queue) : Bool :=
  match x.queues[q.num] with
  | c :: _ => c.phase == .done && !(c.owes q).isEmpty
  | [] => false

/-- MSYNC and CSYNC hold every later command of their queue until they have completed (R268, R283). -/
def Cmd.isSync (c : Cmd) (q : Queue) : Bool :=
  let op := bitsAt (tF c.bits 0) 0 8
  match q with
  | .mxq => op == 0x0B
  | .ldq | .stq => op == 0x0D
  | _ => false

/-- Index of the first command of a queue that has not started. -/
def Ctx.nextIdx (x : Ctx) (q : Queue) : Option Nat := x.queues[q.num].findIdx? fun c => c.phase == .queued

/-- The command that an engine may take from a queue next: nothing starts behind an unreported fault, a push that
waits, or an MSYNC or CSYNC (R39, R41, R256, R383). -/
def Ctx.nextCmd (x : Ctx) (q : Queue) : Option (Nat × Cmd) :=
  let l := x.queues[q.num]
  match x.nextIdx q with
  | some k =>
    if x.fltOf q || x.pushDue q || (l.take k).any fun c => x.pushBlocked q c || c.isSync q then none
    else l[k]?.map fun c => (k, c)
  | none => none

/-- Every token that a command pops is there (R41). -/
def Ctx.tokensReady (x : Ctx) (q : Queue) (c : Cmd) : Bool := (c.pops q).all fun f => !x.tok[f.num].isEmpty

/-- Pops a command's tokens; the popper's clock joins theirs (R318). -/
def popTokens (x : Ctx) (v : Clock) : List Fifo → Ctx × Clock
  | [] => (x, v)
  | f :: fs =>
    match x.tok[f.num] with
    | t :: rest => popTokens { x with tok := x.tok.set f.num rest } (v.join t) fs
    | [] => popTokens x v fs

/-- Applies a change to command `k` of a queue. -/
def State.modCmd (s : State) (w : Who) (q : Queue) (k : Nat) (f : Cmd → Cmd) : State :=
  s.modCtx w fun x => { x with queues := x.queues.set q.num (x.queues[q.num].modify k f) }

/-- Removes command `k` from its queue. -/
def State.dropCmd (s : State) (w : Who) (q : Queue) (k : Nat) : State :=
  s.modCtx w fun x => { x with queues := x.queues.set q.num (x.queues[q.num].eraseIdx k) }

/-! ## Faults -/

/-- TRAPVAL of an engine fault (R382); FORMAT keeps its own layout (R252, R61). -/
def Cmd.trapval (c : Cmd) (q : Queue) (t : Trap) : Word :=
  if t.cause == Cause.format then t.val
  else BitVec.ofNat 64 (t.val.toNat % 2 ^ 52 + q.num.val * 2 ^ 52 + c.ser % 512 * 2 ^ 55)

/-- An ended member's context becomes FREE when its last command is gone (R378). -/
def State.settleEnded (s : State) (w : Who) : State :=
  let x := s.ctxOf w
  if x.ended && x.queues.toList.all (·.isEmpty) then
    match x.team with
    | some id => (s.modCtx w freeCtx).vacate id w.core
    | none => s.modCtx w freeCtx
  else s

/-- Cores that a CPYM no longer writes lose the team's banks if its members there have all left (R282). -/
def State.uncast (s : State) (w : Who) (c : Cmd) : State :=
  match (s.ctxOf w).team with
  | some id => c.cores.foldl (fun s d => s.vacate id d) s
  | none => s

/-- A request of a copy command. -/
def Req.ofCmd (r : Req) (w : Who) (q : Queue) (c : Cmd) : Bool :=
  r.who == w && r.cmd.any fun e => e.1 == q && e.2.1 == c.order

/-- Requests of a copy command are over. -/
def State.dropCmdReqs (s : State) (w : Who) (q : Queue) (c : Cmd) : State := s.dropReqs fun r => r.ofCmd w q c

/-- Command `k` of a queue retires as faulted: its flags are ORed into FPS, and the fault waits to be reported
(R251, R256, R383), and its request is over.  A fault of an ended member has nobody to be reported to (R378), nor has one of an iteration whose position
has been stopped or killed (R214). -/
def State.failCmd (s : State) (w : Who) (q : Queue) (k : Nat) (c : Cmd) (t : Trap) (fl : Flags) : State :=
  let s1 := ((s.dropCmd w q k).dropCmdReqs w q c).modCtx w fun x =>
    { x with fps := x.fps ||| fl.setWidth 64,
             faults := if x.ended || (s.deadPosition x).any fun p => p.order ≤ c.order then x.faults else
               { queue := q, order := c.order, f1 := tF c.bits 1, cause := t.cause, sub := t.sub, val := c.trapval q t }
                 :: x.faults }
  (s1.uncast w c).settleEnded w

/-- A fault of an engine with cause ENGINE (R381). -/
def engTrap (sub : Byte) (detail : Nat) : Trap := ⟨Cause.engine, sub, BitVec.ofNat 64 detail⟩

/-- BADFLD at a field (R382). -/
def badFld (f : Nat) : Trap := engTrap Sub.badfld f

/-- BADADDR or another fault about a byte address. -/
def badAddr (a : Int) : Trap := engTrap Sub.badaddr (a % 2 ^ 52).toNat

/-- Exceptions that a command enables (R27, R241). -/
def enabled (t : TemplateBits) (fl : Flags) : Bool := fl &&& (tF t 2).extractLsb' 4 5 != 0

/-- ENGINE, subcode FPX (R382). -/
def fpxTrap (fl : Flags) : Trap := engTrap Sub.fpx fl.toNat

/-- Leaves a list of checks by a fault when a condition holds. -/
def failIf (c : Bool) (t : Trap) : Except Trap Unit := if c then .error t else .ok ()

/-- Checks made one after another: the first failure is reported (R250, R256). -/
def checkAll : List (Bool × Trap) → Except Trap Unit
  | [] => .ok ()
  | (bad, t) :: rest => if bad then .error t else checkAll rest

/-! ## Start checks common to the engines (R250, R256 steps 2 and 3) -/

/-- Barrier that a command names (R42). -/
def Cmd.bar (c : Cmd) : BitVec 6 := (tF c.bits 1).extractLsb' 4 6

/-- BADBAR and BADTOK (R36, R41). -/
def commonChecks (x : Ctx) (q : Queue) (c : Cmd) : List (Bool × Trap) :=
  let f1 := tF c.bits 1
  let i := fifosInto q
  [(!x.barown.getLsbD c.bar.toNat, engTrap Sub.badbar 1),
   (bitAt f1 0 && i.1.isNone || bitAt f1 1 && i.2.isNone || bitAt f1 2 && (fifosFrom q).1.isNone
      || bitAt f1 3 && (fifosFrom q).2.isNone, engTrap Sub.badtok 1)]

/-- A bit range of a field that must be zero (R224, R258, R272, R285): field, lowest bit and number of bits. -/
def resCheck (t : TemplateBits) (r : Nat × Nat × Nat) : Bool × Trap := (bitsAt (tF t r.1) r.2.1 r.2.2 != 0, badFld r.1)

/-! ## Engine addresses -/

/-- Core and offset of an address in the local window or a cluster member's (R34, R227). -/
def windowOf (c : CoreId) (a : Int) : Option (CoreId × Nat) :=
  if 0 ≤ a && a < 0x200000 then some (c, a.toNat)
  else if 0x01000000 ≤ a && a < 0x02000000 then
    some (clusterMate c ((a.toNat - 0x01000000) / 2 ^ 21), (a.toNat - 0x01000000) % 2 ^ 21)
  else none

/-- Whether an engine access on behalf of a context may use a bank of a core: roles, and ownership by its team. -/
def State.portBank (s : State) (w : Who) (c : CoreId) (roles : List Nat) (b : Nat) : Bool :=
  b < 32 && roles.contains ((s.core c).role b) &&
    (if c == w.core then (s.ctxOf w).bankown.getLsbD b else (s.teamBanks (s.ctxOf w).team c).getLsbD b)

/-- SCRATCH and OPBUF (R32). -/
def anyPort : List Nat := [1, 2]
def opbufPort : List Nat := [2]

/-- Place of `n` bytes at an engine address in scratch, or the first failing byte's address (R227, R260, R273). -/
def State.portPlace (s : State) (w : Who) (roles : List Nat) (localOnly : Bool) (a : Int) (n : Nat) : Except Int Nat :=
  match windowOf w.core a with
  | none => .error a
  | some (c, off) =>
    if localOnly && c != w.core then .error a
    else
      let first := off / 65536
      let count := (off + n + 65535) / 65536 - first
      match ((List.range count).map (first + ·)).find? fun b => !s.portBank w c roles b with
      | some b => .error (a + (Nat.max off (65536 * b) - off : Nat))
      | none => .ok (scratchPlace c off)

/-- The same as an engine fault BADADDR. -/
def State.portAddr (s : State) (w : Who) (roles : List Nat) (localOnly : Bool) (a : Int) (n : Nat) : Except Trap Nat :=
  match s.portPlace w roles localOnly a n with
  | .ok p => .ok p
  | .error e => .error (badAddr e)

/-- A read by a command on behalf of a context, which does not observe the context's later stores (R304).  One that kills its
Pleat position still gives what storage holds: the command runs on and its results are discarded with the position (R211). -/
def State.portRead (s : State) (w : Who) (c : Cmd) (p n : Nat) : State × List Byte :=
  let seen := fun (bs : List Byte) => if s.hides.isEmpty then bs else bs.mapIdx fun k b => s.seenBy (s.ctxOf w) c (p + k) b
  match s.readAs w false p n with
  | (s1, some bs) => (s1, seen bs)
  | (s1, none) => (s1, seen (s.rawRead p n))

/-- A line lease, or an earlier request for one, that an access of a command to ranges of places stands behind: the line (R176). -/
def State.cmdBehind (s : State) (w : Who) (c : Cmd) (ps : List (Nat × Nat)) : Option Nat :=
  if s.lineq.isEmpty then none
  else (rangeLines ps).find? fun l => s.behindLease (some w) none (128 * l) (some c.order)

/-- An access of a command queues at the home slice of a line. -/
def State.cmdQueues (s : State) (w : Who) (c : Cmd) (l : Nat) : State :=
  s.queueAccess { who := w, line := 0, phys := l, stop := none, access := true, req := none, inbound := false, cmd := some c.order }

/-- An access of a command that proceeds leaves its place in the queue. -/
def State.cmdLeaves (s : State) (w : Who) (c : Cmd) : State :=
  if s.lineq.isEmpty then s
  else { s with lineq := s.lineq.filter fun l => l.inbound || l.who != w || l.cmd != some c.order }

/-- First poisoned byte of a list of accesses with their places, as the trap that it gives (R251, R270). -/
def State.payloadPoison (s : State) : List (Int × Nat) → List Nat → Option Trap
  | a :: as, p :: ps =>
    if s.poisoned p a.2 then
      let k := ((List.range a.2).find? fun k => s.poisoned (p + k) 1).getD 0
      some ⟨Cause.ecc, s.eccSub p a.2, BitVec.ofNat 64 ((a.1 + k) % 2 ^ 52).toNat⟩
    else s.payloadPoison as ps
  | _, _ => none

/-- MMX RACE of an engine command (R320, R382). -/
def engRace (f : Found) : Trap :=
  { cause := Cause.mmx, sub := 1,
    val := BitVec.ofNat 64 (f.obj % 65536 + f.tile % 65536 * 2 ^ 16 + f.race.other % 64 * 2 ^ 32 + f.race.kind * 2 ^ 38) }

/-- Detection for an engine access with the command's clock (R314, R319). -/
def State.portDetect (s : State) (w : Who) (c : Cmd) (va n : Nat) (write buffered : Bool) : Except Trap State :=
  match s.detect w c.clock va n write buffered with
  | .ok s1 => .ok s1
  | .error f => .error (engRace f)

/-- Detection for a list of accesses: address, bytes and whether it writes. -/
def State.detectAll (s : State) (w : Who) (c : Cmd) : List (Nat × Nat × Bool) → Except Trap State
  | [] => .ok s
  | (a, n, wr) :: rest =>
    match s.portDetect w c a n wr false with
    | .ok s1 => s1.detectAll w c rest
    | .error e => .error e

/-! ## Bank references (R33) -/

/-- Whether a byte interval of engine addresses meets a bank of a core. -/
def meetsBank (from' : CoreId) (lo hi : Int) (c : CoreId) (b : Nat) : Bool :=
  let hits := fun (base : Int) => lo < base + 65536 * (b + 1) && base + 65536 * b < hi
  (from' == c && hits 0) || (from'.val / 8 == c.val / 8 && hits (0x01000000 + (memberOf c) * 0x200000))

/-- Lowest and highest offset that counts and strides of a nest can give. -/
def nestSpan (levels : List (Nat × Int)) : Int × Int :=
  levels.foldl (fun r l => let d := ((l.1 - 1 : Nat) : Int) * l.2
    if d < 0 then (r.1 + d, r.2) else (r.1, r.2 + d)) (0, 0)

/-- Banks whose role differs between two images (R33). -/
def changedBanks (old new : Word) : List Nat := (List.range 32).filter fun b => bitsAt old (2 * b) 2 != bitsAt new (2 * b) 2

/-- Byte intervals that meet one of a list of banks of a core. -/
def meetsBanks (from' c : CoreId) (banks : List Nat) (refs : List (Int × Int)) : Bool :=
  banks.any fun b => refs.any fun r => meetsBank from' r.1 r.2 c b

/-- A command issued after a bank role change has begun on its core, and that references a changing bank, is held in
its queue until the change is complete (R33). -/
def State.heldBy (s : State) (w : Who) (c : Cmd) (refs : List (Int × Int)) : Bool :=
  (s.core w.core).roleChanges.any fun r => r.orders.getD w.ctx.val 0 ≤ c.order && meetsBanks w.core w.core r.banks refs

/-! ## Taking and completing a command -/

/-- What a start gives when its checks have passed: the next state, and what becomes of the command. -/
inductive Started
  /-- all its work is done -/
  | done (s : State) (bytes : Nat) (flags : Flags)
  /-- it goes on: its rows land, or it waits for the other side -/
  | running (s : State) (f : Cmd → Cmd)
  /-- it faults, with the flags of the work it did before -/
  | fault (s : State) (t : Trap) (flags : Flags)

/-- A running command has done all its work. -/
def State.doneCmd (s : State) (w : Who) (q : Queue) (k bytes : Nat) (fl : Flags) : State :=
  s.modCmd w q k fun c => { c with phase := .done, bytes := bytes, flags := c.flags ||| fl }

/-- A matrix command reads codebooks of the object of its F20: an MMA one of whose ports reads blocks that may be CB4 (R184, R258,
R265). -/
def readsCodebook (t : TemplateBits) : Bool :=
  let cb4 := fun (fmt : Nat) => fmt == 0x23 || fmt == 0x3F
  bitsAt (tF t 0) 0 8 == 0x01 && (cb4 (bitsAt (tF t 3) 0 8) || cb4 (bitsAt (tF t 3) 8 8))

/-- A queued command reads an object: a matrix command by its codebooks, a copy command by its source side. -/
def Cmd.readsObj (c : Cmd) (q : Queue) (obj : Nat) : Bool :=
  match q with
  | .mxq => (tF c.bits 20).toNat == obj && readsCodebook c.bits
  | .ldq | .stq => bitAt (tF c.bits 0) 9 && (tF c.bits 32).toNat == obj
  | _ => false

/-- A stalled CBLD holds back the readers of its object that were issued after it: they read the new codebook (R184). -/
def State.loadHolds (s : State) (w : Who) (q : Queue) (c : Cmd) : Bool :=
  !s.loads.isEmpty && s.loads.any fun l =>
    l.launch == (((s.teamOf (s.ctxOf w)).map (·.launch)).getD 0) && c.readsObj q l.obj && !l.before.contains (w, c.order)

/-- The command processor has stopped the copies of the context's team (R395). -/
def State.copiesStopped (s : State) (x : Ctx) : Bool := (s.teamOf x).any fun t => t.phase == .stopped

/-- The queues of an engine on its core, in ascending order of context and queue number (R222, R253). -/
def engineQueues (e : Engine) : List (CtxNo × Queue) :=
  (List.finRange 4).flatMap fun j => match e with
    | .copy => [(j, .ldq), (j, .stq)]
    | .matrix => [(j, .mxq)]
    | .vector => [(j, .vxq)]
    | .net => [(j, .nxq)]

/-- A PST or PATOM that the context issued before a command has yet to be performed in this package: the command's reads observe it
(R294, R304). -/
def State.storesBefore (s : State) (w : Who) (c : Cmd) : Bool :=
  s.reqs.any fun r => r.scalar && r.who == w && r.team == (s.ctxOf w).team && r.before ≤ c.order && r.targets.any fun t => s.servesRef t.1

/-- Whether the engine may take the next command of a queue: nothing holds it (R33, R184, `held`), its context's earlier stores
are performed, its tokens are there where the engine asks for them, and neither the package nor the context is halted (R399,
R401), nor its copies stopped. -/
def State.takes (s : State) (w : Who) (q : Queue) (held : Who → Queue → Cmd → Bool) (tokens : Cmd → Bool) : Bool :=
  let x := s.ctxOf w
  match x.nextCmd q with
  | none => false
  | some (_, c) =>
    !(s.mgmt.pkghlt || x.run == .halted || s.copiesStopped x || held w q c || s.loadHolds w q c || s.storesBefore w c || tokens c && !x.tokensReady q c)

/-- The queue that an engine of a core serves next: the first in rotation from the one after the queue last served whose
command it may take (R222, R253). -/
def State.nextQueue (s : State) (core : CoreId) (e : Engine) (held : Who → Queue → Cmd → Bool) (tokens : Cmd → Bool) :
    Option (CtxNo × Queue) :=
  let l := engineQueues e
  let k := (s.core core).served[e.num] + 1
  (l.drop k ++ l.take k).find? fun j => s.takes { core := core, ctx := j.1 } j.2 held tokens

/-- The engine has served a queue. -/
def State.serving (s : State) (w : Who) (q : Queue) : State :=
  s.modCore w.core fun k => { k with served := k.served.set q.engine.num ((engineQueues q.engine).idxOf (w.ctx, q)) }

/-- Command `k` of a queue starts: its tokens are popped, and its work begins. -/
def State.runCmd (s : State) (w : Who) (q : Queue) (k : Nat) (c : Cmd) (body : State → Nat → Cmd → Started) : State :=
  let (y, v) := popTokens (s.ctxOf w) c.clock (c.pops q)
  let c1 := { c with phase := .running, clock := v }
  let s1 := (s.setCtx w y).modCmd w q k fun _ => c1
  match body s1 k c1 with
  | .done s2 n fl => s2.doneCmd w q k n fl
  | .running s2 f => s2.modCmd w q k f
  | .fault s2 t fl => s2.failCmd w q k c1 t fl

/-- Takes the next command of a queue when the rotation has come to the queue and its operation is one of the event's: makes
its start checks, pops its tokens, and starts it.  A failed start check pops nothing. -/
def State.startCmd (s : State) (w : Who) (q : Queue) (mine : Nat → Bool) (held : Who → Queue → Cmd → Bool)
    (checks : Ctx → Cmd → Except Trap Unit) (body : State → Nat → Cmd → Started) : State :=
  let x := s.ctxOf w
  match x.nextCmd q with
  | none => s
  | some (k, c) =>
    if !mine (bitsAt (tF c.bits 0) 0 8) || s.nextQueue w.core q.engine held (fun _ => true) != some (w.ctx, q) then s
    else
      let s1 := s.serving w q
      match checks x c with
      | .error t => s1.failCmd w q k c t 0
      | .ok _ => s1.runCmd w q k c body

/-- Pushes tokens with the command's clock (R41, R318). -/
def pushTokens (x : Ctx) (v : Clock) (fs : List Fifo) : Ctx :=
  fs.foldl (fun x f => { x with tok := x.tok.set f.num (x.tok[f.num] ++ [v]) }) x

/-- The barrier update of a completion: one arrival with CRA, else a credit of bytes, on a core (R223, R254). -/
def State.finishBar (s : State) (core : CoreId) (c : Cmd) (rowCredits : Bool) : State :=
  if !bitAt (tF c.bits 1) 10 then s
  else if bitAt (tF c.bits 0) 8 then s.updateBar core c.bar c.clock Barrier.arrive
  else if rowCredits then s
  else s.updateBar core c.bar c.clock fun b => b.credit c.bytes

/-- Completion of the command at the head of a queue: flags, then tokens, then the barrier (R223, R254).  Each token goes as soon
as its FIFO has room; the command stays until all have gone (R41).  Nobody takes the tokens of a position that has been killed or has
stopped, whose FIFOs are empty when its rank goes on (R209, R211). -/
def State.retireCmd (s : State) (w : Who) (q : Queue) (c : Cmd) (rowCredits : Bool) : State :=
  let dead := (s.deadPosition (s.ctxOf w)).isSome
  let room := (c.owes q).filter fun f => dead || (s.ctxOf w).tok[f.num].length < 16
  let s1 := s.modCtx w fun x =>
    let y := { x with fps := x.fps ||| c.flags.setWidth 64 }
    if dead then y else pushTokens y c.clock room
  if room.length < (c.owes q).length then
    s1.modCmd w q 0 fun d => { d with phase := .done, flags := 0, pushed := d.pushed ++ room }
  else (((s1.dropCmd w q 0).finishBar w.core c rowCredits).uncast w c).settleEnded w

end Sys2Proof.Machine
end

