-- ==== Sys2Proof/Machine/Convert.lean ====
section
/-! DEFINITION. Seals and placement conversions (R179 to R182, R311, R312, R422 to R426). -/

namespace Sys2Proof.Machine

/-! ## Placement states -/

/-- Current state on an axis (R367). -/
def Obj.state (o : Obj) (a : Fin 4) : BitVec 4 := o.place.extractLsb' (4 * a.val) 4

/-- Sharded on a dimension, and a partial sum (R23). -/
def isShard (c : BitVec 4) : Bool := 1 ≤ c.toNat && c.toNat ≤ 4
def isPartial (c : BitVec 4) : Bool := 8 ≤ c.toNat && c.toNat ≤ 10

/-- A demand is reachable from the current state on an axis (R179, R423). -/
def Obj.reachable (o : Obj) (a : Fin 4) (c : BitVec 4) : Bool :=
  let cur := o.state a
  let even := !isShard c || o.dim (c.toNat - 1) % o.axisSize a == 0
  c == cur || even && (isPartial cur && (c == 0 || isShard c) || isShard cur && (c == 0 || isShard c) || cur == 0 && isShard c)

/-- Demand of a view on an axis (R179). -/
def demand (v : BitVec 16) (a : Fin 4) : BitVec 4 := v.extractLsb' (4 * a.val) 4

/-- Axes of the mesh on which a view demands another state than the current one. -/
def Obj.unmet (o : Obj) (v : BitVec 16) : List (Fin 4) :=
  (List.finRange 4).filter fun a => o.axisSize a != 0 && demand v a != 15 && demand v a != o.state a

/-- A conversion is in flight on the object at this member (R181). -/
def Obj.busy (o : Obj) : Bool := o.flight != 0

/-! ## Elements of a piece (R423) -/

/-- Element numbers whose index on a dimension lies in a range, in element order: every index tuple of the shape record. -/
def Obj.elemsWhere (o : Obj) (keep : Nat → Nat → Nat → Nat → Bool) : List Nat :=
  (List.range (o.dim 3)).flatMap fun i3 => (List.range (o.dim 2)).flatMap fun i2 => (List.range (o.dim 1)).flatMap fun i1 =>
    (List.range (o.dim 0)).filterMap fun i0 =>
      let st := fun (k : Nat) => if k < o.ndim then (o.strides.extractLsb' (24 * k) 24).toInt else 0
      if keep i0 i1 i2 i3 then some ((i0 * st 0 + i1 * st 1 + i2 * st 2 + i3 * st 3 : Int).toNat) else none

/-- Elements that member `k` of an axis of size `m` owns in a state (R423). -/
def Obj.owned (o : Obj) (c : BitVec 4) (m k : Nat) : List Nat :=
  if isShard c then
    let d := c.toNat - 1
    let lo := k * o.dim d / m
    let hi := (k + 1) * o.dim d / m
    o.elemsWhere fun i0 i1 i2 i3 =>
      let i := if d == 0 then i0 else if d == 1 then i1 else if d == 2 then i2 else i3
      lo ≤ i && i < hi
  else o.elemsWhere fun _ _ _ _ => true

/-- Elements that a member must receive for a conversion (R424). -/
def Obj.needed (o : Obj) (cur c : BitVec 4) (m k : Nat) : List Nat :=
  if m == 1 || cur == 0 then []
  else if isPartial cur then o.owned c m k
  else
    let mine := o.owned cur m k
    (o.owned c m k).filter fun e => !mine.contains e

/-- Scale words that go with elements (R64). -/
def Obj.blocksOf (o : Obj) (es : List Nat) : List Nat := if o.scaled then (es.map (· / 32)).eraseDups else []

/-- Runs of consecutive elements, at most `cap` in each: first element and number. -/
def runsOf (cap : Nat) : List Nat → List (Nat × Nat)
  | [] => []
  | e :: es =>
    match runsOf cap es with
    | (f, n) :: rest => if f == e + 1 && n < cap then (e, n + 1) :: rest else (e, 1) :: (f, n) :: rest
    | [] => [(e, 1)]

/-- Elements of a chunk of at most 65,536 bytes (R424). -/
def Obj.chunkElems (o : Obj) : Nat := 65536 * 8 / o.width

/-! ## The bytes of a piece -/

/-- Which bytes of a list of ranges of places are poisoned. -/
def State.poisonMap (s : State) (ps : List (Nat × Nat)) : List Bool :=
  ps.flatMap fun p => (List.range p.2).map fun k => s.poisoned (p.1 + k) 1

/-- A free byte for each poisoned one: no rule says what such a byte reads as (log 12). -/
def State.freeBytes (s : State) : List Bool → List Byte → State × List Byte
  | b :: bs, v :: vs =>
    let s1 : State := if b then { s with fresh := s.fresh + 1 } else s
    let r := s1.freeBytes bs vs
    (r.1, (if b then Config.freeByte s.fresh else v) :: r.2)
  | _, vs => (s, vs)

/-- `n` bytes of the member's own piece, and which of them are poisoned: of device memory, or of a pool object, whose pages are
read from the cache where it holds them and are `got` over the fabric where it does not (R369, R423).  A poisoned byte reads as
a free one: no rule says what the placement engine makes of it but for the block that it lies in (R62, log 12). -/
def State.pieceRead (s : State) (l : Launch) (o : Obj) (got : List (Nat × List Byte)) (a n : Nat) : State × List Byte × List Bool :=
  if o.kind == 0 then
    (s, (pageParts a n).flatMap fun p => match s.poolPath o.poolid (p.1 / 65536) with
      | .copy c => cellsRead c.data (p.1 % 65536) p.2
      | _ => ((got.find? fun g => g.1 == p.1 && g.2.length == p.2).map (·.2)).getD (List.replicate p.2 unlisted), [])
  else
    match s.spans l.slot .read (pageParts a n) with
    | (s1, .ok ps) =>
      let pm := s1.poisonMap ps
      let r := s1.freeBytes pm (s1.readSpans ps)
      (r.1, r.2, pm)
    | (s1, .error _) => (s1, [], [])

/-- Writes bytes of a piece in device memory; one that does not translate stays as it is (log 59). -/
def State.pieceWrite (s : State) (l : Launch) (a : Nat) (bs : List Byte) : State :=
  match s.spans l.slot .write (pageParts a bs.length) with
  | (s1, .ok ps) => s1.writeSpans ps bs
  | (s1, .error _) => s1

/-- Bytes of a run of elements with their scale words behind them (R64).  A block whose source data are poisoned is stored as a
poison block: its scale word gets FMTC = 0xFF (R62). -/
def State.runBytes (s : State) (l : Launch) (o : Obj) (got : List (Nat × List Byte)) (r : Nat × Nat) : State × List Byte :=
  let w := o.width
  let lo := r.1 * w / 8
  let hi := ((r.1 + r.2) * w + 7) / 8
  let (s1, bs, pm) := s.pieceRead l o got (o.byteOf 0 + lo) (hi - lo)
  let data := leBytes ((r.2 * w + 7) / 8) (leNat bs / 2 ^ (r.1 * w - 8 * lo) % 2 ^ (r.2 * w))
  if o.scaled then
    let (s2, sc, qm) := s1.pieceRead l o got (o.scaleOf r.1) (4 * ((r.2 + 31) / 32))
    let bad := fun (k : Nat) => ((pm.drop (4 * w * k)).take (4 * w) ++ (qm.drop (4 * k)).take 4).contains true
    (s2, data ++ sc.mapIdx fun k b => if k % 4 == 0 && bad (k / 4) then 0xFF else b)
  else (s1, data)

/-- One staged item reaches a piece in device memory: an element's bits, or a block's scale word (R425). -/
def State.placeItem (s : State) (l : Launch) (o : Obj) (it : Nat × Nat) : State :=
  if 2 ^ 60 ≤ it.1 then s.pieceWrite l (o.scaleOf (32 * (it.1 - 2 ^ 60))) (leBytes 4 it.2)
  else
    let w := o.width
    let lo := it.1 * w / 8
    let n := (it.1 * w + w + 7) / 8 - lo
    let a := o.byteOf 0 + lo
    match s.spans l.slot .read (pageParts a n) with
    | (s1, .error _) => s1
    | (s1, .ok ps) =>
      let old := leNat (s1.readSpans ps)
      let sh := it.1 * w - 8 * lo
      s1.pieceWrite l a (leBytes n (old - old / 2 ^ sh % 2 ^ w * 2 ^ sh + it.2 % 2 ^ w * 2 ^ sh))

/-- The bits of a staged item. -/
def Conv.item (c : Conv) (k : Nat) : Nat := ((c.staged.find? fun e => e.1 == k).map (·.2)).getD 0

/-- The bytes that a run of staged elements writes to a pool piece, with their offset; `old` gives what stands at its edges. -/
def Conv.runWrite (c : Conv) (o : Obj) (old : Nat → Byte) (r : Nat × Nat) : Nat × List Byte :=
  let w := o.width
  let lo := r.1 * w / 8
  let n := ((r.1 + r.2) * w + 7) / 8 - lo
  let a := o.byteOf 0 + lo
  let v := leNat ((List.range n).map fun k => old (a + k))
  let sh := r.1 * w - 8 * lo
  let bits := (List.range r.2).foldl (fun m k => m + c.item (r.1 + k) % 2 ^ w * 2 ^ (w * k)) 0
  (a, leBytes n (v - v / 2 ^ sh % 2 ^ (r.2 * w) * 2 ^ sh + bits * 2 ^ sh))

/-- The bytes of a run that it covers only in part: its first and its last. -/
def Obj.runEdges (o : Obj) (r : Nat × Nat) : List (Nat × Nat) :=
  let lo := r.1 * o.width
  let hi := (r.1 + r.2) * o.width
  (if lo % 8 == 0 then [] else [(o.byteOf 0 + lo / 8, 1)]) ++ if hi % 8 == 0 then [] else [(o.byteOf 0 + hi / 8, 1)]

/-- The items of an arriving chunk. -/
def Obj.chunkItems (o : Obj) (first : Nat) (data : List Byte) : List (Nat × Nat) :=
  let w := o.width
  let n := if o.scaled then data.length * 8 / (w + 1) else data.length * 8 / w
  let es := (elemsOf data w n).mapIdx fun k v => (first + k, v)
  if o.scaled then
    es ++ (elemsOf (data.drop (n * w / 8)) 32 (n / 32)).mapIdx fun k v => (2 ^ 60 + first / 32 + k, v)
  else es

/-! ## Members and domains -/

/-- The accepted launch and object whose mesh table names a domain and uses the axis (R426). -/
def State.domainObj (s : State) (key : ConvKey) : Option (Launch × Nat × Obj) :=
  s.launches.findSome? fun l =>
    if l.phase == .done then none
    else (l.objs.mapIdx fun k o => (k, o)).findSome? fun e =>
      match e.2 with
      | some o => if o.kind != 2 && o.axisSize key.axis != 0 && o.domain == key.domain then some (l, e.1, o) else none
      | none => none

def State.convOf (s : State) (key : ConvKey) : Option Conv := s.convs.find? fun c => c.key == key
def State.homeFor (s : State) (key : ConvKey) : Option Home := s.homes.find? fun h => h.key == key

def State.modConv (s : State) (key : ConvKey) (f : Conv → Conv) : State :=
  { s with convs := s.convs.map fun c => if c.key == key then f c else c }

def State.modHome (s : State) (key : ConvKey) (f : Home → Home) : State :=
  { s with homes := s.homes.map fun h => if h.key == key then f h else h }

/-- Station of a member of an axis. -/
def Obj.station (o : Obj) (a : Fin 4) (k : Nat) : BitVec 10 := (o.mesh[a])[k]?.getD 0

/-- This package is the conversion home: member 0 (R424). -/
def Obj.isHome (o : Obj) (a : Fin 4) : Bool := o.member a == 0

/-- A message to this package itself is taken from the outbox when its event comes; none when it has not been sent. -/
def State.takeOwn (s : State) (m : Msg) : Option State :=
  if s.outbox.contains m then some { s with outbox := s.outbox.erase m } else none

/-! ## Ends -/

/-- The ranges of a piece that a run of elements covers, with the scale words of its blocks (R64). -/
def Obj.runRanges (o : Obj) (r : Nat × Nat) : List (Nat × Nat) :=
  let lo := r.1 * o.width / 8
  (o.byteOf 0 + lo, ((r.1 + r.2) * o.width + 7) / 8 - lo) :: if o.scaled then [(o.scaleOf r.1, 4 * ((r.2 + 31) / 32))] else []

/-- Elements of a request that is not acknowledged, by PST, PATOM or a row that waits to be sent again (R370). -/
def State.unacked (s : State) : List (ElemRef × Nat) :=
  s.reqs.flatMap Req.targets ++
    s.cores.toList.flatMap fun k => k.ctx.toList.flatMap fun x => x.queues.toList.flatMap fun q => q.flatMap fun c =>
      c.waits.flatMap fun e => e.writes

/-- Whether an element's bytes meet a range of an object that is keyed by `k`. -/
def ElemRef.meets (e : ElemRef) (m : Nat) (k : ObjKey) (a n : Nat) : Bool := e.key == k && meetsRange (e.addr, m) (a, n)

/-- A request of the placement engine for a conversion.  The back-off and the limit of its retries are in no register (R186, log
59). -/
def State.convReq (s : State) (l : Launch) (obj : Nat) (key : ConvKey) (r : ElemRef) (k : ReqKind) : Req :=
  s.routed { id := s.nextId, who := { core := 0, ctx := 0 }, team := none, slot := l.slot, obj := obj, elem := 0, ref := r, kind := k,
             station := none, sent := false, fill := false, bkoff := Config.convBkoff, bklim := Config.convBklim, attempts := 0,
             due := none, pc := 0, conv := some key }

/-- Whether the bytes that the placement engine wants of a piece are there. -/
inductive Gather | ready | waits | lost
  deriving DecidableEq, Repr

/-- The worse of two. -/
def Gather.and : Gather → Gather → Gather
  | .lost, _ => .lost
  | _, .lost => .lost
  | .waits, _ => .waits
  | _, g => g

/-- One part of a pool piece is made ready, which lies in one page: its page is filled under a current lease, else the bytes are
asked for over the fabric (R369, R423); without a live station they are lost (R405, R425). -/
def State.gatherPart (s : State) (l : Launch) (c : Conv) (o : Obj) (p : Nat × Nat) : State × Gather :=
  let page := p.1 / 65536
  let r := { s.elemRef o 0 with addr := p.1, token := none }
  match s.poolPath o.poolid page with
  | .copy _ => (s, .ready)
  | .fill =>
    if s.fillNoRoute o.poolid page o.node then (s, .lost) else (s.startFill o.poolid page o.node o.captag, .waits)
  | .fabric =>
    if c.got.any fun g => g.1 == p.1 && g.2.length == p.2 then (s, .ready)
    else if s.reqs.any fun q => q.conv == some c.key && q.ref.addr == p.1 && q.kind == .pieceRead p.2 then (s, .waits)
    else if s.noRoute r then (s, .lost)
    else (s.addReq (s.convReq l c.obj c.key r (.pieceRead p.2)), .waits)

def State.gatherParts (s : State) (l : Launch) (c : Conv) (o : Obj) : List (Nat × Nat) → State × Gather
  | [] => (s, .ready)
  | p :: ps =>
    let (s1, g) := s.gatherPart l c o p
    let (s2, h) := s1.gatherParts l c o ps
    (s2, g.and h)

/-- The ranges of a piece that the placement engine is to read are made ready: no write to them is unacknowledged (R370), and
those of a pool piece are at hand (R423); a range of device memory that does not translate is lost (log 59). -/
def State.gather (s : State) (l : Launch) (c : Conv) (o : Obj) (ranges : List (Nat × Nat)) : State × Gather :=
  let parts := ranges.flatMap fun r => pageParts r.1 r.2
  if o.kind != 0 then
    match s.spans l.slot .read parts with
    | (s1, .ok _) => (s1, .ready)
    | (s1, .error _) => (s1, .lost)
  else if ranges.any fun r => s.unacked.any fun e => e.1.meets e.2 (.pool o.poolid) r.1 r.2 then (s, .waits)
  else s.gatherParts l c o parts.eraseDups

/-- A context goes on after a wait that an event has ended; a halted one stays halted. -/
def State.goOn (s : State) (w : Who) (b : Option Blocked) : State :=
  s.modCtx w fun x => { x with blocked := b, run := if x.run == .halted then .halted else .active, since := s.cycle }

/-- Contexts that run members of a launch. -/
def State.launchWho (s : State) (launch : Nat) : List Who :=
  (s.teams.filter fun t => t.launch == launch).flatMap Team.placedWho

/-- PLACETO at a PLD that waited for a conversion (R181, R379): object index and element offset of its handle. -/
def placetoTrap (x : Ctx) (i : Instr) (obj : Nat) : Trap :=
  match i with
  | .pld _ g _ j =>
    let h := x.rh g
    ⟨Cause.placeto, 0, elemDetail obj (hOff h + (x.rs j).toNat * hStr h 0)⟩
  | _ => ⟨Cause.placeto, 0, elemDetail obj 0⟩

/-- Commands of a queue that wait for a conversion go on, or fault with PLACETO (R277, R289). -/
def State.endConvQueue (s : State) (w : Who) (obj : Nat) (a : Fin 4) (num : IWord) (ok : Bool) (q : Queue) : State :=
  let waits := fun (c : Cmd) => c.conv.contains (obj, a, num)
  if ok then
    s.modCtx w fun x => { x with queues := x.queues.set q.num (x.queues[q.num].map fun c =>
      if waits c then { c with conv := c.conv.erase (obj, a, num) } else c) }
  else
    match (s.ctxOf w).queues[q.num].findIdx? waits with
    | none => s
    | some k =>
      match (s.ctxOf w).queues[q.num][k]? with
      | none => s
      | some c => s.failCmd w q k c ⟨Cause.placeto, 0, elemDetail obj (if q == .nxq then tN c.bits 30 2 else tN c.bits 34 3)⟩ 0

/-- Everything of a context that waits for a conversion goes on, or meets PLACETO. -/
def State.endConvWaits (s : State) (w : Who) (obj : Nat) (a : Fin 4) (num : IWord) (ok : Bool) : State :=
  let s1 := allQueues.foldl (fun s q => s.endConvQueue w obj a num ok q) s
  match (s1.ctxOf w).blocked with
  | some (.conversion i on) =>
    if !on.contains (obj, a, num) then s1
    else if !ok then (s1.goOn w none).deliver w (placetoTrap (s1.ctxOf w) i obj)
    else
      match on.erase (obj, a, num) with
      | [] => s1.goOn w (some .stall)
      | rest => s1.modCtx w fun x => { x with blocked := some (.conversion i rest) }
  | _ => s1

/-- A conversion ends at this member: its flight and seal end, and its status is recorded (R179, R182, R425). -/
def State.endConv (s : State) (c : Conv) (ok : Bool) (nan : Bool) (missing : Word) : State :=
  let bit : BitVec 4 := BitVec.twoPow 4 c.key.axis.val
  let s1 := ({ s with convs := s.convs.filter fun d => d.key != c.key } : State).dropReqs fun r => r.conv == some c.key
  let s2 := s1.modObj c.launch c.obj fun o => { o with
    begun := if o.begun.ult c.key.num then c.key.num else o.begun
    flight := o.flight &&& ~~~bit
    sealed := o.sealed &&& ~~~bit
    status := if ok then 2 else 3
    nan := nan
    axis := c.key.axis
    num := c.key.num
    missing := if ok then o.missing else missing
    place := match ok, c.start with
      | true, some (t, _) => putBits o.place (4 * c.key.axis.val) 4 t.toNat
      | _, _ => o.place }
  (s2.launchWho c.launch).foldl (fun s w => s.endConvWaits w c.obj c.key.axis c.key.num ok) s2

/-! ## Contributions (R424) -/

/-- An earlier conversion of the object has not ended here (R311). -/
def State.earlierConv (s : State) (c : Conv) : Bool :=
  s.convs.any fun d => d.launch == c.launch && d.obj == c.obj && d.sealed && d.key.num.ult c.key.num

/-- A chunk's failure is charged to the home, when this package is the home (R425). -/
def State.chargeHome (s : State) (key : ConvKey) : State := s.modHome key fun h => { h with missing := h.missing ||| 1 }

/-- The contribution has failed: it is not made again, and the failure is charged to the home, when this package is it. -/
def State.failContribution (s : State) (key : ConvKey) : State :=
  (s.modConv key fun c => { c with sent := true }).chargeHome key

/-- A read of the pool piece has failed: the contribution, or, after DONE, the writes to the piece, whose elements stay as they are
(log 17). -/
def State.losePiece (s : State) (key : ConvKey) : State :=
  if (s.convOf key).any fun c => c.ending.isSome then s.modConv key fun c => { c with staged := [] } else s.failContribution key

/-- The chunks of a contribution with the slot names of a reduction; a chunk whose plane has no live station fails (R419). -/
def State.sendSlots (s : State) (l : Launch) (o : Obj) (c : Conv) : List (Nat × Nat) → List Word → State
  | r :: rs, name :: names =>
    let (s1, bs) := s.runBytes l o c.got r
    let k : Fin 64 := ⟨name.toNat % 64, by omega⟩
    let i := o.member c.key.axis
    let q := { s1.convReq l c.obj c.key { s1.elemRef o 0 with token := none, captag := 0 } (.slotChunk name i r.1 bs) with station := some k }
    let s2 := if s1.stations[k].live then (s1.addReq (s1.routedSlot q)).send (.contrib name i bs) else s1.chargeHome c.key
    s2.sendSlots l o c rs names
  | _, _ => s

/-- Writes of elements to another member; without a live station they fail (R405). -/
def State.sendChunks (s : State) (l : Launch) (o : Obj) (c : Conv) (dest : BitVec 10) : List (Nat × Nat) → State
  | [] => s
  | r :: rs =>
    let (s1, bs) := s.runBytes l o c.got r
    let e : ElemRef := { key := .dev (dest.setWidth 11) c.key.domain, node := dest.setWidth 11, scratch := false, addr := o.byteOf r.1,
                         token := none, captag := 0 }
    let s2 := if s1.noRoute e then s1.chargeHome c.key else s1.addReq (s1.convReq l c.obj c.key e (.chunk r.1 bs))
    s2.sendChunks l o c dest rs

/-- Chunks of a reduction in the order of their slots, and the member that alone gets the result (R424). -/
def Obj.reduceChunks (o : Obj) (a : Fin 4) (t : BitVec 4) : List ((Nat × Nat) × Option Nat) :=
  let size := o.axisSize a
  let runs := fun (k : Nat) (d : Option Nat) => (runsOf o.chunkElems (o.owned t size k)).map fun r => (r, d)
  if isShard t then (List.range size).flatMap fun k => runs k (some k) else runs (o.member a) none

/-- Runs of elements that a member sends: to the slots of a reduction, or to each other member (R424). -/
def Obj.sentRuns (o : Obj) (a : Fin 4) (t : BitVec 4) (m : ConvMethod) : List (Option Nat × List (Nat × Nat)) :=
  let size := o.axisSize a
  let me := o.member a
  let runs := fun es => runsOf o.chunkElems es
  if size == 1 then []
  else match m with
    | .keep => []
    | .reduce _ => [(none, (o.reduceChunks a t).map (·.1))]
    | .exchange =>
      let mine := o.owned (o.state a) size me
      ((List.range size).filter (· != me)).map fun k =>
        let theirs := o.owned t size k
        (some k, runs (mine.filter theirs.contains))

/-- Bytes of its piece that a member reads to contribute (R424). -/
def Conv.readRanges (c : Conv) (o : Obj) : List (Nat × Nat) :=
  match c.start with
  | some (t, m) => (o.sentRuns c.key.axis t m).flatMap fun e => e.2.flatMap o.runRanges
  | none => []

/-- A member that has sealed and received START contributes once its earlier conversions have ended and its piece can be read
(R311, R369, R370, R424); nothing starts while the package is halted (R401).  A piece that cannot be read fails it (R425). -/
def State.contribute (s : State) (key : ConvKey) : State :=
  match s.convOf key with
  | none => s
  | some c =>
    match c.start, s.launchAt c.launch with
    | some (t, m), some l =>
      match l.obj c.obj with
      | none => s
      | some o =>
        if !c.sealed || c.sent || s.earlierConv c || s.mgmt.pkghlt then s
        else
          match s.gather l c o (c.readRanges o) with
          | (s1, .waits) => s1
          | (s1, .lost) => s1.failContribution key
          | (s1, .ready) =>
            (o.sentRuns key.axis t m).foldl (fun s e =>
              match e.1, m with
              | some k, _ => s.sendChunks l o c (o.station key.axis k) e.2
              | none, .reduce names => s.sendSlots l o c e.2 names
              | none, _ => s) (s1.modConv key fun c => { c with sent := true })
    | _, _ => s

/-- Every conversion of an object that may contribute now does. -/
def State.contributeAll (s : State) (launch obj : Nat) : State :=
  ((s.convs.filter fun c => c.launch == launch && c.obj == obj).map (·.key)).foldl State.contribute s

/-! ## Seals (R179, R180) -/

/-- This member's piece is sealed on an axis, with a target when a conversion is requested; a second seal for the same
conversion has no further effect, but its request still goes to the home. -/
def State.sealAxis (s : State) (launch obj : Nat) (a : Fin 4) (target : Option (BitVec 4)) : State :=
  match (s.launchAt launch).bind fun l => l.obj obj with
  | none => s
  | some o =>
    let sealedNow := s.convs.find? fun c => c.launch == launch && c.obj == obj && c.key.axis == a && c.sealed
    match sealedNow with
    | some c => if target.isSome then s.send (.seal c.key (o.station a 0) target) else s
    | none =>
      let num := o.begun + 1
      let key : ConvKey := { domain := o.domain, axis := a, num := num }
      let bit : BitVec 4 := BitVec.twoPow 4 a.val
      let s1 := s.modObj launch obj fun o => { o with
        begun := num, flight := o.flight ||| bit, sealed := o.sealed ||| bit, status := 1, nan := false, axis := a, num := num }
      let s2 : State := match s1.convOf key with
        | some _ => s1.modConv key fun c => { c with sealed := true, launch := launch, obj := obj }
        | none => { s1 with convs := s1.convs ++
            [{ key := key, launch := launch, obj := obj, sealed := true, start := none, sent := false, staged := [] }] }
      (s2.send (.seal key (o.station a 0) target)).contribute key

/-- Seals a list of axes one after another. -/
def State.sealAxes (s : State) (launch obj : Nat) (l : List (Fin 4 × Option (BitVec 4))) : State :=
  l.foldl (fun s e => s.sealAxis launch obj e.1 e.2) s

/-- The release that a seal waits for: SYS when the axis spans packages, else of this package (R180). -/
def State.releaseSeal (s : State) (w : Who) (o : Obj) (l : List (Fin 4 × Option (BitVec 4))) : Except Stop Unit :=
  if l.any fun e => 2 ≤ o.axisSize e.1 then s.releaseSys w
  else if l.isEmpty then .ok () else s.releaseLocal w

/-- The entry that a handle names for SEAL, PLACE and OBJQ: INVAL, then NOENT (R180, R182). -/
def State.handleObj (s : State) (x : Ctx) (h : HandleWord) : Except Stop Obj :=
  if !hVal h then trap Cause.handle Sub.inval (elemDetail (hObj h) 0)
  else
    match s.objOf x (hObj h) with
    | none => trap Cause.handle Sub.noent (elemDetail (hObj h) 0)
    | some o => .ok o

/-- Launch of a context, as its number. -/
def State.launchId (s : State) (x : Ctx) : Nat := ((s.teamOf x).map (·.launch)).getD 0

def execSeal (h : HReg) (m : BitVec 4) (s : State) : Out :=
  s.run (.seal h m) [] fun x =>
    let hw := x.rh h
    match s.handleObj x hw with
    | .error e => .error e
    | .ok o =>
      let axes := (List.finRange 4).filter fun a => m.getLsbD a.val
      if axes.any fun a => o.axisSize a == 0 then trap Cause.handle Sub.badplace (elemDetail (hObj hw) 0)
      else
        let l := axes.map fun a => (a, (none : Option (BitVec 4)))
        match s.releaseSeal s.who o l with
        | .error e => .error e
        | .ok _ => .ok ((s.sealAxes (s.launchId x) (hObj hw) l).advance 4)

def execPlace (h : HReg) (m : BitVec 4) (s : State) : Out :=
  s.run (.place h m) [] fun x =>
    let hw := x.rh h
    match s.handleObj x hw with
    | .error e => .error e
    | .ok o =>
      let axes := (List.finRange 4).filter fun a => m.getLsbD a.val
      let go := axes.filter fun a => demand (hView hw) a != 15 && demand (hView hw) a != o.state a
      if (axes.any fun a => o.axisSize a == 0) || go.any fun a => !o.reachable a (demand (hView hw) a) then
        trap Cause.handle Sub.badplace (elemDetail (hObj hw) 0)
      else
        let l := go.map fun a => (a, some (demand (hView hw) a))
        match s.releaseSeal s.who o l with
        | .error e => .error e
        | .ok _ => .ok ((s.sealAxes (s.launchId x) (hObj hw) l).advance 4)

/-- The snapshot of OBJQ (R182). -/
def State.objq (s : State) (o : Obj) (q : Byte) : Option Word :=
  let h := s.heldNow (s.objKey o)
  let used := (List.range 4).foldl (fun v a => v + (if o.axisSize a == 0 then 15 else bitsAt o.place (4 * a) 4) * 2 ^ (4 * a)) 0
  match q.toNat with
  | 0 => some (BitVec.ofNat 64 (used + o.flight.toNat * 2 ^ 16 + o.sealed.toNat * 2 ^ 20 + o.begun.toNat * 2 ^ 32))
  | 1 => some (BitVec.ofNat 64 (o.status.toNat + (if o.nan then 16 else 0) + o.axis.val * 256 + o.num.toNat * 2 ^ 32))
  | 2 => some o.missing
  | 3 => some (BitVec.ofNat 64 (o.msize.toNat + o.midx.toNat * 2 ^ 32))
  | 4 => some o.size
  | 5 => some (BitVec.ofNat 64 (o.kind.toNat + (if o.fenced then 4 else 0) + (if o.detect then 8 else 0) + o.fmt.toNat * 16))
  | 6 => some ((h.map (·.stop)).getD 0)
  | 7 => some ((h.map (·.token)).getD 0)
  | _ => none

def execObjq (g : HReg) (d : SReg) (q : Byte) (s : State) : Out :=
  s.run (.objq g d q) [d] fun x =>
    if 8 ≤ q.toNat then .error (.trap (illegal (.objq g d q)))
    else
      match s.handleObj x (x.rh g) with
      | .error e => .error e
      | .ok o => .ok (s.retire (x.ws d ((s.objq o q).getD 0)) 4)

/-! ## Messages (R424 to R426) -/

/-- Method of a conversion from the object's state, with the slot names of a reduction (R424). -/
def Obj.method (o : Obj) (a : Fin 4) (t : BitVec 4) (names : List Word) : ConvMethod :=
  let cur := o.state a
  if o.axisSize a == 1 || cur == t then .keep
  else if isPartial cur then .reduce names
  else if isShard cur then .exchange else .keep

/-- START to every member; its time counts from the first grant of a reduction's slots (R420, R425). -/
def State.sendStart (s : State) (o : Obj) (key : ConvKey) (t : BitVec 4) (m : ConvMethod) : State :=
  let s1 := s.modHome key fun h => { h with started := true, since := if h.asks.isEmpty then s.gtc.toNat else h.since }
  (List.range (o.axisSize key.axis)).foldl (fun s k => s.send (.start key (o.station key.axis k) t m)) s1

/-- CVTMO in µs; 0 is taken as 20 (R408). -/
def State.cvtmo (s : State) : Nat :=
  let v := bitsAt s.mgmt.cvtmo 0 16
  if v == 0 then 20 else v

/-- The station of a switch plane for a conversion's slots: one of the live ones, which is open (log 59). -/
def State.slotPlane (s : State) : Option (Fin 64) :=
  let l := (List.finRange 64).filter fun k => s.stations[k].live && !s.stations[k].lane
  l[Config.slotPlane s.fresh % l.length]?

/-- The home asks for the slot of one chunk of a reduction (R420, R424). -/
def State.askSlot (s : State) (o : Obj) (key : ConvKey) (c : (Nat × Nat) × Option Nat) : State :=
  match s.slotPlane with
  | none => s.chargeHome key
  | some k =>
    let what : SlotWants := { nidx := o.axisSize key.axis, rop := (o.state key.axis).toNat - 8, fmt := o.fmt.toNat,
                              len := c.1.2 * o.width / 8, tmo := s.cvtmo, dest := c.2 }
    let s1 := ({ s with nextId := s.nextId + 1, fresh := s.fresh + 1 } : State).modHome key fun h => { h with
      asks := h.asks ++ [{ id := s.nextId, plane := k, name := none, attempts := 0, due := none, what := what }] }
    s1.send (.alloc s.nextId k what)

/-- The home starts a conversion whose target it knows, once no earlier one of the object is active; for a reduction it first asks
for the slots, and START carries their names.  Nothing starts while the package is halted (R401). -/
def State.startHome (s : State) (o : Obj) (key : ConvKey) : State :=
  match s.homeFor key with
  | none => s
  | some h =>
    let earlier := s.homes.any fun g => g.key.domain == key.domain && g.key.num.ult key.num
    match h.target with
    | some t =>
      if h.started || earlier || s.mgmt.pkghlt then s
      else
        let names := h.asks.filterMap (·.name)
        let m := o.method key.axis t names
        match m with
        | .reduce _ =>
          let chunks := o.reduceChunks key.axis t
          if names.length == chunks.length then s.sendStart o key t m
          else if h.asks.isEmpty then chunks.foldl (fun s c => s.askSlot o key c) s else s
        | _ => s.sendStart o key t m
    | none => s

/-- The conversions of an object at its home that may start now do, on whichever axis they are (R180). -/
def State.startHomes (s : State) (domain : Word) : State :=
  (s.homes.filter fun h => h.key.domain == domain).foldl (fun s h =>
    match s.domainObj h.key with
    | some (_, _, o) => s.startHome o h.key
    | none => s) s

/-- A request for another target becomes the request for the next conversion, and so on along the conversions that have other
targets (R180): at most `n` of them. -/
def State.requestFrom (s : State) (t : BitVec 4) : Nat → ConvKey → State
  | 0, _ => s
  | n + 1, key =>
    match s.homeFor key with
    | none => { s with homes := s.homes ++
        [{ key := key, target := some t, sealed := 0, started := false, missing := 0, since := 0, asks := [] }] }
    | some h =>
      match h.target with
      | none => s.modHome key fun h => { h with target := some t }
      | some u => if u == t then s else s.requestFrom t n { key with num := key.num + 1 }

/-- A request reaches the home (R180). -/
def State.requestHome (s : State) (key : ConvKey) (t : BitVec 4) : State := s.requestFrom t (s.homes.length + 1) key

/-- A conversion number that has ended here: at the home, its ABORT may still be on the way to the home's own member (R425). -/
def State.stale (s : State) (o : Obj) (key : ConvKey) : Bool :=
  (s.convOf key).isNone && key.num.toNat ≤ o.begun.toNat ||
    (s.homeFor key).isNone && s.outbox.any fun m => match m with
      | .convAbort k d _ => k == key && d == o.station key.axis (o.member key.axis)
      | _ => false

/-- SEAL reaches the home. -/
def State.takeSeal (s : State) (o : Obj) (key : ConvKey) (member : Fin 64) (target : Option (BitVec 4)) : State :=
  if !o.isHome key.axis || o.axisSize key.axis ≤ member.val || s.stale o key then s
  else
    let s1 : State := match s.homeFor key with
      | some _ => s
      | none => { s with homes := s.homes ++
          [{ key := key, target := none, sealed := 0, started := false, missing := 0, since := 0, asks := [] }] }
    let s2 := s1.modHome key fun h => { h with sealed := h.sealed ||| BitVec.twoPow 64 member.val }
    let s3 := match target with
      | some t => s2.requestHome key t
      | none => s2
    s3.startHome o key

/-- A method fits a conversion (R424). -/
def methodFits (cur t : BitVec 4) : ConvMethod → Bool
  | .reduce _ => isPartial cur
  | .exchange => isShard cur
  | .keep => cur == 0 || cur == t

/-- A record of a conversion that this member has not sealed yet. -/
def State.newConv (s : State) (l : Launch) (n : Nat) (key : ConvKey) (start : Option (BitVec 4 × ConvMethod)) : State :=
  { s with convs := s.convs ++ [{ key := key, launch := l.id, obj := n, sealed := false, start := start, sent := false, staged := [] }] }

/-- START reaches a member. -/
def State.takeStart (s : State) (l : Launch) (n : Nat) (o : Obj) (key : ConvKey) (target : BitVec 4) (method : ConvMethod) : State :=
  let a := key.axis
  if !(o.reachable a target && (o.axisSize a == 1 || methodFits (o.state a) target method)) || s.stale o key then s
  else
    let s1 : State := match s.convOf key with
      | some _ => s.modConv key fun c => { c with start := some (target, method) }
      | none => s.newConv l n key (some (target, method))
    s1.contribute key

/-- Items of an arriving chunk are staged; an element that arrives again is written over. -/
def State.stage (s : State) (key : ConvKey) (items : List (Nat × Nat)) : State :=
  s.modConv key fun c => { c with staged := items ++ c.staged.filter fun e => !items.any fun i => i.1 == e.1 }

/-- A member stages an incoming chunk, which may come before its START; what a stale number or a method with slots brings changes
nothing (R425). -/
def State.takeChunk (s : State) (l : Launch) (n : Nat) (o : Obj) (key : ConvKey) (first : Nat) (data : List Byte) : State :=
  if s.stale o key then s
  else
    let s1 : State := if (s.convOf key).isSome then s else s.newConv l n key none
    if (s1.convOf key).any fun c => c.ending.isSome || (match c.start with
        | some (_, .reduce _) => true
        | _ => false) then s1
    else s1.stage key (o.chunkItems first data)

/-- The result of a slot reaches a member that contributed (R420, R425). -/
def State.convResult (s : State) (r : Req) (first : Nat) (data : List Byte) (nan : Bool) : State :=
  match r.conv.bind s.convOf with
  | none => s.dropReq r.id
  | some c =>
    match (s.launchAt c.launch).bind fun l => l.obj c.obj with
    | none => s.dropReq r.id
    | some o =>
      let s1 := (s.stage c.key (o.chunkItems first data)).modConv c.key fun c => { c with nan := c.nan || nan }
      if s1.stagesWithin then s1.dropReq r.id else s

/-- The elements that this member must receive, and the blocks whose scale words go with them (R64, R424). -/
def Conv.needs (c : Conv) (o : Obj) : List Nat × List Nat :=
  match c.start with
  | none => ([], [])
  | some (t, _) =>
    let es := o.needed (o.state c.key.axis) t (o.axisSize c.key.axis) (o.member c.key.axis)
    (es, o.blocksOf es)

/-- Everything that a member must receive has been staged. -/
def Conv.complete (c : Conv) (o : Obj) : Bool :=
  c.start.isSome && ((c.needs o).1.all fun e => c.staged.any fun i => i.1 == e) &&
    (c.needs o).2.all fun b => c.staged.any fun i => i.1 == 2 ^ 60 + b

/-- Bitmap of the members of an axis. -/
def fullMask (n : Nat) : Word := BitVec.ofNat 64 (2 ^ n - 1)

/-- The conversion completes here: later ones of the object go on. -/
def State.completeConv (s : State) (c : Conv) (nan : Bool) : State :=
  ((s.endConv c true nan 0).contributeAll c.launch c.obj).startHomes c.key.domain

/-- The elements that this member must receive, in runs, and the blocks whose scale words go with them. -/
def Conv.neededRuns (c : Conv) (o : Obj) : List (Nat × Nat) × List (Nat × Nat) :=
  (runsOf o.chunkElems (c.needs o).1, runsOf 16384 (c.needs o).2)

/-- A write of a staged run goes to a pool piece, with its capability tag and the token of a fenced one (R423).  One without a live
station leaves the elements as they are (log 17). -/
def State.sendPiece (s : State) (l : Launch) (c : Conv) (o : Obj) (w : Nat × List Byte) : State :=
  (pageParts w.1 w.2.length).foldl (fun s p =>
    let r := { s.elemRef o 0 with addr := p.1 }
    if s.noRoute r then s else s.addReq (s.convReq l c.obj c.key r (.pieceWrite ((w.2.drop (p.1 - w.1)).take p.2)))) s

/-- A conversion whose DONE has come goes on: the staged elements go to the pool piece once the bytes at their edges have been
read, and it completes once every write has been answered (R423, R425). -/
def State.finishConv (s : State) (key : ConvKey) : State :=
  match s.convOf key with
  | none => s
  | some c =>
    match c.ending, s.launchAt c.launch with
    | some nan, some l =>
      match l.obj c.obj with
      | none => s
      | some o =>
        if s.reqs.any fun r => r.conv == some key && !r.isChunk then s
        else if c.staged.isEmpty then s.completeConv c nan
        else
          let (es, bs) := c.neededRuns o
          let write := fun (s : State) =>
            let old := fun a => (s.pieceRead l o c.got a 1).2.1.headD unlisted
            let ws := es.map (c.runWrite o old) ++ bs.map fun b =>
              (o.scaleOf (32 * b.1), (List.range b.2).flatMap fun k => leBytes 4 (c.item (2 ^ 60 + b.1 + k)))
            let s1 := (ws.foldl (fun s w => s.sendPiece l c o w) s).modConv key fun c => { c with staged := [] }
            if s1.reqs.any fun r => r.conv == some key && !r.isChunk then s1 else s1.completeConv { c with staged := [] } nan
          match s.gather l c o (es.flatMap o.runEdges) with
          | (s1, .waits) => s1
          | (s1, .lost) => (s1.modConv key fun c => { c with staged := [] }).completeConv { c with staged := [] } nan
          | (s1, .ready) => write s1
    | _, _ => s

/-- Every conversion that may go on now does: an answer has come, or the package runs again. -/
def State.contributeOn (s : State) : State := (s.convs.map (·.key)).foldl (fun s k => (s.contribute k).finishConv k) s

/-- DONE: the staged elements reach the piece, and the conversion completes.  At the home itself it is its own finding that every
chunk has been delivered, and it sends DONE to the others (log 23).  NaN-seen is that of the results that reached the home, and of
those that only other members got; a method without slots has none (R424). -/
def State.takeDone (s : State) (o : Obj) (key : ConvKey) (own nan : Bool) : State :=
  match s.convOf key with
  | none => s
  | some c =>
    let a := key.axis
    let out := s.reqs.any fun r => r.conv == some key && r.isChunk && !r.isSlot
    let delivered := (s.homeFor key).any fun h =>
      h.started && h.sealed == fullMask (o.axisSize a) && h.missing == 0 && c.sent && !out
    let ready := own == o.isHome a && (!own || delivered)
    if c.ending.isSome || !c.complete o || !ready then s
    else
      let slots := isPartial (o.state a) && o.axisSize a != 1
      let apart := c.start.any fun t => isShard t.1
      let seen := slots && (if own then c.nan || apart && nan else nan)
      let s1 := if own then
          ((List.range (o.axisSize a)).filter (· != 0)).foldl (fun s k => s.send (.convDone key (o.station a k) seen))
            { s with homes := s.homes.filter fun h => h.key != key }
        else s
      if o.kind == 0 then (s1.modConv key fun c => { c with ending := some seen }).finishConv key
      else
        match s.launchAt c.launch with
        | none => s
        | some l =>
          let (es, bs) := c.needs o
          ((c.staged.filter fun i => es.contains i.1 || 2 ^ 60 ≤ i.1 && bs.contains (i.1 - 2 ^ 60)).foldl (fun s i => s.placeItem l o i)
            s1).completeConv c seen

/-- The conversion's record at this member; a member that has neither sealed nor had START yet meets its end too. -/
def State.convHere (s : State) (l : Launch) (n : Nat) (o : Obj) (key : ConvKey) : Option Conv :=
  match s.convOf key with
  | some c => some c
  | none =>
    if key.num.toNat ≤ o.begun.toNat then none
    else some { key := key, launch := l.id, obj := n, sealed := false, start := none, sent := false, staged := [] }

/-- ABORT: the staging is discarded and the piece keeps its state, even before this member's seal (R424, R425). -/
def State.takeAbort (s : State) (l : Launch) (n : Nat) (o : Obj) (key : ConvKey) (missing : Word) : State :=
  match s.convHere l n o key with
  | none => s
  | some c => if c.ending.isSome then s else (s.endConv c false false missing).contributeAll c.launch c.obj

/-- A conversion message that reaches this package: one for a domain that it does not hold is refused (R426), and a chunk is
acknowledged (R404). -/
def State.takeConv (s : State) (key : ConvKey) (src : BitVec 10) (b : ConvBody) : State :=
  match s.domainObj key with
  | none => s.send (.noDomain key src)
  | some (l, n, o) =>
    match b with
    | .seal member target => s.takeSeal o key member target
    | .start target method => s.takeStart l n o key target method
    | .chunk first data => (s.takeChunk l n o key first data).answerTo (src.setWidth 11) (o.byteOf first / 65536) .ack
    | .done nan => s.takeDone o key (src == s.mgmt.stnid) nan
    | .abort missing => s.takeAbort l n o key missing
    | .unknown => s

/-- No page is free for the elements of a chunk, which waits (R425). -/
def State.chunkFull (s : State) (key : ConvKey) (first : Nat) (data : List Byte) : Bool :=
  match s.domainObj key with
  | none => false
  | some (l, n, o) =>
    let t := s.takeChunk l n o key first data
    t.convs != s.convs && !t.stagesWithin

/-- A refusal of one of our messages: of a SEAL, the conversion ends as aborted; at the home, the member does not contribute
(R426). -/
def State.refused (s : State) (key : ConvKey) (member : Fin 64) : State :=
  match s.homeFor key, s.domainObj key with
  | some _, some (_, _, o) =>
    (s.modHome key fun h => { h with missing := h.missing ||| BitVec.twoPow 64 member.val }).dropReqs fun r =>
      r.conv == some key && r.isChunk && r.ref.node == (o.station key.axis member.val).setWidth 11
  | _, _ =>
    match s.convOf key with
    | some c =>
      if member.val == 0 && c.sealed && c.ending.isNone then (s.endConv c false false 1).contributeAll c.launch c.obj else s
    | none => s

/-- CVTMO in ns. -/
def State.cvtmoNs (s : State) : Nat := 1000 * s.cvtmo

/-- Number of chunks of a member's writes in a conversion from the object's state (R424). -/
def Obj.chunksOf (o : Obj) (a : Fin 4) (t : BitVec 4) (k : Nat) : Nat :=
  let size := o.axisSize a
  if !isShard (o.state a) then 1
  else
    let own := o.owned (o.state a) size k
    Nat.max 1 (((List.range size).filter (· != k)).foldl (fun n j =>
      n + (runsOf o.chunkElems (own.filter (o.owned t size j).contains)).length) 0)

/-- The time of a member that has not contributed is up: CVTMO for a slot, and for each of its chunks where no slot is used
(R425). -/
def State.memberLate (s : State) (o : Obj) (h : Home) (k : Nat) : Bool :=
  h.since + s.cvtmoNs * o.chunksOf h.key.axis (h.target.getD 0) k ≤ s.gtc.toNat

/-- No station is live to a member (R405). -/
def State.memberLost (s : State) (o : Obj) (h : Home) (k : Nat) : Bool :=
  k != o.member h.key.axis && (s.planeOf ((o.station h.key.axis k).setWidth 11) 0).isNone

/-- The home sends ABORT with the missing contributors, and its later conversions may start (R424, R425). -/
def State.abortHome (s : State) (o : Obj) (key : ConvKey) (missing : Word) : State :=
  let s1 : State := { s with homes := s.homes.filter fun h => h.key != key }
  let s2 := (List.range (o.axisSize key.axis)).foldl (fun s k => s.send (.convAbort key (o.station key.axis k) missing)) s1
  s2.startHomes key.domain

/-- A chunk has failed: after the time of R425, at once when the failure is charged to the home, or when the fabric has no road to
the member.  The home sends ABORT. -/
def execConvChunkTimeout (key : ConvKey) (missing : Word) (s : State) : Out :=
  match s.domainObj key, s.homeFor key with
  | some (_, _, o), some h =>
    let all := missing ||| h.missing
    let failed := h.missing.getLsbD 0 || h.started && (ranksOf all).all fun k => s.memberLate o h k || s.memberLost o h k
    if all == 0 || !failed then .next s else .next (s.abortHome o key all)
  | _, _ => .next s

/-! ## Slots of a reduction's home (R420, R424, R425) -/

/-- The conversion at this home, and the slot, that a request number names. -/
def State.askAt (s : State) (req : Nat) : Option (Home × SlotAsk) :=
  s.homes.findSome? fun h => (h.asks.find? fun a => a.id == req).map fun a => (h, a)

def State.modAsk (s : State) (key : ConvKey) (req : Nat) (f : SlotAsk → SlotAsk) : State :=
  s.modHome key fun h => { h with asks := h.asks.map fun a => if a.id == req then f a else a }

/-- The home's conversion ends: `missing` are the contributors that a slot has missed, or the home, to which an allocation that
fails for good is charged. -/
def State.slotAborts (s : State) (h : Home) (missing : Word) : State :=
  match s.domainObj h.key with
  | some (_, _, o) => s.abortHome o h.key (missing ||| h.missing)
  | none => s

/-- GRANT to the home: with the last slot's name START goes out. -/
def State.askGranted (s : State) (req : Nat) (name : Word) : State :=
  match s.askAt req with
  | some (h, a) =>
    if a.name.isSome || a.due.isSome then s
    else
      let s1 := s.modHome h.key fun h => { h with since := if h.asks.all (·.name.isNone) then s.gtc.toNat else h.since }
      (s1.modAsk h.key req fun a => { a with name := some name }).startHomes h.key.domain
  | none => s

/-- An ALLOC of the home is answered receiver-not-ready, or fails for good (R186, R425). -/
def State.askAnswer (s : State) (req : Nat) (rnr : Bool) : State :=
  match s.askAt req with
  | some (h, a) =>
    if a.name.isSome || a.due.isSome then s
    else if rnr && decide (a.attempts < Config.convBklim) then
      s.modAsk h.key req fun a => { a with
        attempts := a.attempts + 1, due := some (s.gtc.toNat + Config.convBkoff * 2 ^ min a.attempts 16) }
    else s.slotAborts h 1
  | none => s

/-- An ALLOC of the home is sent again, on the plane that it named. -/
def State.askRetry (s : State) (req : Nat) : State :=
  match s.askAt req with
  | some (h, a) =>
    match a.due with
    | none => s
    | some t =>
      if s.gtc.toNat < t then s
      else if s.stations[a.plane].live then (s.modAsk h.key req fun a => { a with due := none }).send (.alloc req a.plane a.what)
      else s.slotAborts h 1
  | none => s

/-- TIMEOUT of a slot: the home's conversion ends; at another member the home's ABORT is to come (R425). -/
def State.convTimeout (s : State) (r : Req) (missing : Word) : State :=
  let s1 := s.dropReq r.id
  match r.conv.bind s.homeFor with
  | some h => if missing != 0 then s1.slotAborts h missing else s1
  | none => s1

/-- A conversion that outlives its launch here goes on for another accepted launch that holds the domain (R426). -/
def State.moveConv (s : State) (c : Conv) : State :=
  match s.domainObj c.key with
  | none => s.endConv c false false 0
  | some (l, n, _) =>
    let bit : BitVec 4 := BitVec.twoPow 4 c.key.axis.val
    (s.modConv c.key fun d => { d with launch := l.id, obj := n }).modObj l.id n fun o => { o with
      begun := if o.begun.ult c.key.num then c.key.num else o.begun
      flight := if c.sealed then o.flight ||| bit else o.flight
      sealed := if c.sealed then o.sealed ||| bit else o.sealed }

/-- When the last launch that holds a domain completes here, its conversions in flight end as aborted at this member, and a home's
with them (R426). -/
def State.dropConvs (s : State) (launch : Nat) : State :=
  let s1 := (s.convs.filter fun c => c.launch == launch).foldl State.moveConv s
  { s1 with homes := s1.homes.filter fun h => (s1.domainObj h.key).isSome }

/-! ## Requests by reads (R181, R277) -/

/-- What a read through a handle or descriptor whose view demands another state does: the axes with their targets, or
BADPLACE. -/
def Obj.demands (o : Obj) (v : BitVec 16) : Except Unit (List (Fin 4 × Option (BitVec 4))) :=
  let go := o.unmet v
  if go.any fun a => !o.reachable a (demand v a) then .error ()
  else .ok (go.map fun a => (a, some (demand v a)))

/-- The conversions in flight on a list of axes. -/
def State.flights (s : State) (launch obj : Nat) (l : List (Fin 4)) : List (Nat × Fin 4 × IWord) :=
  (s.convs.filter fun c => c.launch == launch && c.obj == obj && c.sealed && l.contains c.key.axis).map fun c =>
    (obj, c.key.axis, c.key.num)

end Sys2Proof.Machine
end

