-- ==== Sys2Proof/Machine/Pool.lean ====
section
/-! DEFINITION. Pool and fabric access by the control core: PST, PLD, PATOM, leases, codebooks, and what answers them
(R184 to R192, R367 to R374, R385). -/

namespace Sys2Proof.Machine

/-! ## Elements (R185) -/

/-- Formats that a size accepts (R185). -/
def sizeFmts (z : Size) : List Nat := match z with
  | .b => [0x64] | .h => [0x81, 0x82] | .w => [0xA1, 0xA2] | .d => [0xC1]

/-- pool_elem of R185. -/
def State.poolElem (s : State) (x : Ctx) (h : HandleWord) (i : Word) (z : Size) (rd wr : Bool) : Except Stop (Obj × Nat) :=
  if 2 ^ 16 ≤ i.toNat then trap Cause.handle Sub.range i
  else
    match elemOffset (s.objOf x) h [i.toNat, 0, 0, 0] rd wr with
    | .error t => .error (.trap t)
    | .ok r =>
      if !(sizeFmts z).contains (hFmt h).toNat then trap Cause.format Sub.code ((hFmt h).setWidth 64) else .ok r

/-- MMX, subcode PLACEBUSY (R181, R320). -/
def busyTrap (obj : Nat) (o : Obj) : Trap :=
  { cause := Cause.mmx, sub := 2, val := BitVec.ofNat 64 (obj % 65536 + o.begun.toNat * 2 ^ 16) }

/-- BADPLACE for a demand that differs from the current state, then PLACEBUSY (R185, R181). -/
def checkPlaced (h : HandleWord) (o : Obj) : Except Stop Unit :=
  if !(o.unmet (hView h)).isEmpty then trap Cause.handle Sub.badplace (elemDetail (hObj h) 0)
  else if o.busy then .error (.trap (busyTrap (hObj h) o))
  else .ok ()

/-- An element of a scratch region passes check_addr in the local window (R164, R366). -/
def State.checkScratch (s : State) (w : Who) (r : ElemRef) (n : Nat) (need : Need) : Except Stop Unit :=
  if !r.scratch then .ok ()
  else
    match s.checkAddr w (BitVec.ofNat 64 r.addr) n need with
    | .error e => .error e
    | .ok _ => .ok ()

/-- Detection for an element of a device-memory object, of this package or another, or of a scratch region (R314).  An 8-byte PLD
of an element that only atomics write counts as atomic (R297). -/
def State.detectElem (s : State) (w : Who) (r : ElemRef) (n : Nat) (write : Bool) : Except Stop State :=
  if !write && s.atomicElem w.core (s.ctxOf w).slot r n then .ok s
  else
    match s.detectTiles w (s.ctxOf w).clock (s.touchedRef (s.ctxOf w) r n) write true with
    | .error f => .error (.trap (raceTrap f))
    | .ok s1 => .ok s1

/-! ## Requests -/

/-- The trap of a far fault that an instruction reports precisely (R379, R380, R475).  No subcode is given for a refusal by the
target: RANGE (log 34). -/
def farTrap (f : FarFault) (obj elem addr : Nat) : Trap :=
  match f with
  | .fenced => ⟨Cause.fenced, 0, elemDetail obj elem⟩
  | .poolrnr => ⟨Cause.poolrnr, 0, elemDetail obj elem⟩
  | .handle => ⟨Cause.handle, Sub.range, elemDetail obj elem⟩
  | .ecc worn => ⟨Cause.ecc, if worn then 2 else 1, BitVec.ofNat 64 addr⟩
  | .route st => ⟨Cause.route, 0, st.setWidth 64⟩
  | .linkkey st => ⟨Cause.linkkey, 0, st.setWidth 64⟩

/-- A far fault of an engine command (R382, R475). -/
def engFar (f : FarFault) (obj : Nat) (e : Int) (addr : Nat) : Trap :=
  match f with
  | .fenced => ⟨Cause.fenced, 0, elemDetail obj e⟩
  | .poolrnr => ⟨Cause.poolrnr, 0, elemDetail obj e⟩
  | .handle => ⟨Cause.handle, Sub.range, elemDetail obj e⟩
  | .ecc worn => ⟨Cause.ecc, if worn then 2 else 1, BitVec.ofNat 64 (addr % 2 ^ 52)⟩
  | .route st => ⟨Cause.route, 0, st.setWidth 64⟩
  | .linkkey st => ⟨Cause.linkkey, 0, st.setWidth 64⟩

/-- A request of the issuing context. -/
def State.newReq (s : State) (x : Ctx) (obj elem : Nat) (r : ElemRef) (k : ReqKind) (fill : Bool) : Req :=
  { id := s.nextId, who := s.who, team := x.team, slot := x.slot, obj := obj, elem := elem, ref := r, kind := k,
    station := s.viaOf r, sent := s.sendsNow s.nextId r (s.viaOf r), fill := fill, bkoff := bitsAt x.bkoff 0 32,
    bklim := bitsAt x.bklim 0 8, attempts := 0, due := none, pc := x.pc,
    before := x.order, epoch := (x.clock[x.rank]?.getD 0).toNat }

/-- The issuing context blocks until its request is answered (R385). -/
def State.await (s : State) (r : Req) : Except Stop State :=
  if s.noRoute r.ref && !r.fill then .error (.trap (farTrap s.ownRoute r.obj r.elem r.ref.addr))
  else .error (.goto ((s.addReq r).modCtx s.who fun x => { x with blocked := some (.remote r.id) }))

/-- A read must wait for an unacknowledged write to its bytes, under whichever name: of any context to a pool object, of the own
context to another object (R300, R370). -/
def State.writePending (s : State) (w : Who) (r : ElemRef) (n : Nat) : Bool :=
  match r.key with
  | .pool _ => s.unacked.any fun e => e.1.meets e.2 r.key r.addr n
  | .dev _ _ =>
    if s.servesRef r then (s.refPlaces w.core (s.ctxOf w).slot r n).any fun p => s.underWay w p.1 p.2
    else s.reqs.any fun q => q.scalar && q.who == w && q.team == (s.ctxOf w).team &&
      q.targets.any fun t => t.1.node == r.node && !s.servesRef t.1 && meetsRange (t.1.addr, t.2) (r.addr, n)
        && (match t.1.key with
          | .pool _ => false
          | .dev _ _ => true)

/-- Entries of a context's replay queue: its requests, and the rows of its copy commands (R186, R277). -/
def State.replayCount (s : State) (w : Who) : Nat :=
  (s.reqs.filter fun r => r.scalar && r.who == w && r.attempts != 0).length +
    ((s.ctxOf w).queues.toList.flatMap fun q => q.flatMap fun c => c.waits.filter fun e => e.attempts != 0).length

/-- PSTs of a context that are not acknowledged (R188). -/
def State.postCount (s : State) (w : Who) : Nat :=
  (s.reqs.filter fun r => r.scalar && r.who == w && (match r.kind with
    | .pst _ _ => true
    | _ => false)).length

/-- A write to a pool object finds its pages no longer AHEAD (R370). -/
def State.writesAhead (s : State) (r : ElemRef) (n : Nat) : State :=
  match r.key with
  | .pool id => s.dropAhead id r.addr n
  | .dev _ _ => s

/-! ## Answers (R186, R187, R385) -/

/-- The context still runs the member that made the request, and waits for it. -/
def State.waitsFor (s : State) (r : Req) : Bool :=
  (s.ctxOf r.who).team == r.team && (s.ctxOf r.who).blocked == some (.remote r.id)

/-- A request of a conversion has failed: the contribution fails with a chunk or a read for it (R425); a read or a write of the
pool piece after DONE leaves the elements as they are (log 17). -/
def State.failConvReq (s : State) (r : Req) (key : ConvKey) : State :=
  let s1 := s.dropReq r.id
  (match r.kind with
    | .pieceWrite _ => s1
    | _ => s1.losePiece key).finishConv key

/-- A request of a copy command has failed: the command faults (R278, R283). -/
def State.failCmdReq (s : State) (r : Req) (e : Queue × Nat × Nat) (f : FarFault) : State :=
  let l := (s.ctxOf r.who).queues[e.1.num]
  match l.findIdx? fun c => c.order == e.2.1 with
  | none => s.dropReq r.id
  | some k =>
    match l[k]? with
    | none => s.dropReq r.id
    | some c => s.failCmd r.who e.1 k c (engFar f r.obj r.elem r.ref.addr) 0

/-- A request ends in a fault: deferred for a PST, and precise for the others (R187, R189 to R191).  An ended member's is
dropped (R378). -/
def State.failReq (s : State) (r : Req) (f : FarFault) : State :=
  match r.cmd, r.conv with
  | some e, _ => s.failCmdReq r e f
  | none, some key => s.failConvReq r key
  | none, none =>
  let s1 := s.dropReq r.id
  let t := farTrap f r.obj r.elem r.ref.addr
  match r.kind with
  | .pst _ _ =>
    if (s.ctxOf r.who).team == r.team && !(s.ctxOf r.who).ended then
      s1.modCtx r.who fun x => { x with deferred := x.deferred ++ [{ cause := t.cause, sub := t.sub, addr := r.pc, order := r.id }] }
    else s1
  | _ => if s.waitsFor r then (s1.goOn r.who none).deliver r.who t else s1

/-- Nanoseconds before the attempt after `n` (R186). -/
def backOff (bkoff n : Nat) : Nat := bkoff * 2 ^ Nat.min n 16

/-- Receiver-not-ready: another attempt after the back-off, or POOLRNR.  With all 16 entries of the replay queue taken, an answer
to a request that has none waits until one is free (R186, log 30). -/
def State.retryReq (s : State) (r : Req) : State :=
  if r.bklim ≤ r.attempts then s.failReq r .poolrnr
  else if r.scalar && r.attempts == 0 && 16 ≤ s.replayCount r.who then s
  else s.modReq r.id fun q => { q with attempts := q.attempts + 1, due := some (s.gtc.toNat + backOff r.bkoff r.attempts) }

/-- The waiting instruction completes with a change of its context. -/
def State.completeReq (s : State) (r : Req) (f : Ctx → Ctx) : State :=
  let s1 := s.dropReq r.id
  if s.waitsFor r then (s1.modCtx r.who fun x => let y := f x; { y with pc := pcAfter y.pc 4 }).goOn r.who none else s1

/-- The copy takes acknowledged bytes, when the object is a pool object (R370). -/
def State.copyRef (s : State) (r : ElemRef) (bs : List Byte) : State :=
  match r.key with
  | .pool id => s.copyBytes id r.addr bs
  | .dev _ _ => s

/-- The copy takes a flag add. -/
def State.copyAdd (s : State) (r : ElemRef) (v : Word) : State :=
  match r.key with
  | .pool id => s.copyWrite id r.page (.add (r.addr % 65536) v)
  | .dev _ _ => s

/-- AHEAD pages of an object become VALID or INVALID at a grant (R372). -/
def State.settleAhead (s : State) (k : ObjKey) (version : Word) : State :=
  match k with
  | .dev _ _ => s
  | .pool id =>
    { s with cache := s.cache.filterMap fun c =>
        if c.poolid != id then some c
        else match c.state with
          | .ahead v => if v == version then some { c with state := .valid } else none
          | _ => some c }

/-- A lease is granted or extended.  A grant that comes after the lease has stopped being current starts a new one: pages of
the old one are INVALID (R191, R371). -/
def State.granted (s : State) (k : ObjKey) (stop token version : Word) : State :=
  let kept := s.leaseCurrent k && (s.holdOf k).any fun h => h.token == token
  let n := if kept then ((s.holdOf k).map (·.count)).getD 0 + 1 else 1
  let s1 := if kept then s else s.dropWhere k PageState.leased
  ({ s1 with holds := { key := k, count := n, stop := stop, token := token } :: s1.holds.filter fun h => h.key != k }).settleAhead
    k version

/-- A lease is released: the package holds none, and no page of the object (R192). -/
def State.released (s : State) (k : ObjKey) : State :=
  { s with holds := s.holds.filter fun m => m.key != k }.dropPages k

/-- PLDs that wait for a page. -/
def State.fillReqs (s : State) (poolid : Word) (page : Nat) : List Req :=
  s.reqs.filter fun r => r.fill && r.ref.key == .pool poolid && r.ref.page == page

/-- The PLDs that wait for a page take their values from the copy, but for those whose bytes have an unacknowledged write
(R369, R370). -/
def State.serveFill (s : State) (poolid : Word) (page : Nat) (cells : List Host.Cell) : State :=
  (s.fillReqs poolid page).foldl (fun s r =>
    match r.kind with
    | .pld d n =>
      if s.writePending r.who r.ref n then s
      else s.completeReq r fun x => x.ws d (BitVec.ofNat 64 (leNat (cellsRead cells (r.ref.addr % 65536) n)))
    | _ => s) s

/-- After an acknowledgement, the PLDs that waited for it take their values from the copies that are there, and the placement
engine goes on (R370). -/
def State.acked (s : State) : State :=
  (s.reqs.foldl (fun s r =>
    match r.ref.key with
    | .pool id =>
      (match if r.fill then s.cachePage id r.ref.page else none with
        | some c => if c.state == .valid then s.serveFill id r.ref.page c.data else s
        | none => s)
    | .dev _ _ => s) s).contributeOn

/-- An answer that ends a request of a conversion well (R423, R424). -/
def State.convAnswer (s : State) (r : Req) (key : ConvKey) (a : Answer) : State :=
  match r.kind, a with
  | .pieceRead n, .bytes bs =>
    if bs.length != n then s
    else (((s.dropReq r.id).modConv key fun c => { c with got := (r.ref.addr, bs) :: c.got }).contribute key).finishConv key
  | .pieceWrite bs, .ack => (((s.dropReq r.id).copyRef r.ref bs).finishConv key).acked
  | .chunk _ _, .ack => s.dropReq r.id
  | _, _ => s

/-- An answer that ends a request well (R188 to R192). -/
def State.answerReq (s : State) (r : Req) (a : Answer) : State :=
  match r.kind, a with
  | .pst bs f, .ack => (((s.dropReq r.id).copyRef r.ref bs).copyAdd f 1).acked
  | .pld d _, .data v _ => s.completeReq r fun x => x.ws d v
  | .patom d _ wide _ _, .data old new =>
    ((s.copyRef r.ref (leBytes (if wide then 8 else 4) new.toNat)).completeReq r fun x => x.ws d old).acked
  | .lsacq d _, .grant stop token version => (s.granted r.ref.key stop token version).completeReq r fun x => x.ws d token
  | .lsrel, .released => ((s.released r.ref.key).completeReq r id).contributeOn
  | _, _ => s

/-- A store of a member is performed by its request: commands that the member issued before it keep the bytes that it replaces
(R304). -/
def State.behindCmds (s : State) (r : Req) (v : State × Answer) : State × Answer :=
  let x := s.ctxOf r.who
  let done := match v.2 with
    | .ack => true
    | .data _ _ => true
    | _ => false
  if !done || x.team != r.team then v
  else
    let ps := r.targets.flatMap fun t => s.refPlaces r.who.core r.slot t.1 t.2
    (v.1.keepHides (ps.foldl (fun s p => s.hideAs x r.before r.epoch p.1 p.2) s) x, v.2)

/-- What this package answers to its own request as the target (R384, R418, R474).  A read in a Pleat position goes through
its store buffer (R213). -/
def State.serveOwn (s : State) (r : Req) : State × Answer :=
  match r.kind with
  | .pst bs f =>
    s.behindCmds r (s.serveWrite r.who.core r.slot s.ownNode r.ref bs none (some f))
  | .pld _ n =>
    match s.refSpans r.who.core r.slot r.ref.scratch [(r.ref.addr, n)] .read with
    | (s1, .error va) => s1.refuse va
    | (s1, .ok ps) =>
      if s1.spansPoisoned ps then (s1, .fault (s1.spansEcc ps))
      else
        match ps with
        | [(p, _)] =>
          match s1.readAs r.who false p n with
          | (s2, some bs) => (s2, .data (BitVec.ofNat 64 (leNat bs)) 0)
          | (s2, none) => (s2, .data 0 0)
        | _ => (s1.recallSpans ps, .data (BitVec.ofNat 64 (leNat (s1.readSpans ps))) 0)
  | .patom _ op wide x e =>
    s.behindCmds r (s.serveAtomic r.who.core r.slot s.ownNode r.ref op (if wide then 8 else 4) x e)
  | .lsacq _ term =>
    match r.ref.key with
    | .dev _ b => s.serveLease s.ownNode b term
    | .pool _ => (s, .rnr)
  | .lsrel =>
    match r.ref.key with
    | .dev _ b => s.serveRelease s.ownNode b
    | .pool _ => (s, .released)
  | _ => (s, .rnr)

/-- Two elements lie in one page: of one pool object, or of the device memory of one package (R186, R306). -/
def ElemRef.samePage (a b : ElemRef) : Bool := a.page == b.page && match a.key, b.key with
  | .pool i, .pool j => i == j
  | .dev _ _, .dev _ _ => a.node == b.node && a.scratch == b.scratch
  | _, _ => false

/-- An earlier PST of the context to the same page has not been answered: the later one waits behind it (R186, R306). -/
def State.behindPst (s : State) (r : Req) : Bool :=
  match r.kind with
  | .pst _ _ => s.reqs.any fun q => q.id < r.id && q.scalar && q.who == r.who && q.ref.samePage r.ref
      && (match q.kind with
        | .pst _ _ => true
        | _ => false)
  | _ => false

/-- A line lease, or an earlier request for one, that a request to this package stands behind at the home slice: the line (R176). -/
def State.reqBehind (s : State) (r : Req) : Option Nat :=
  if s.lineq.isEmpty then none
  else
    let refs := match r.kind with
      | .pld _ n => [(r.ref, n)]
      | _ => r.targets
    ((refs.flatMap fun e => s.refPlaces r.who.core r.slot e.1 e.2).find? fun p => s.behindLease (some r.who) (some r.id) p.1).map
      fun p => p.1 / 128

/-- A request to this package as its home slice takes it up: it queues behind a line lease, or is performed (R176, R384). -/
def State.serveReq (s : State) (r : Req) : State × Option Answer :=
  match s.reqBehind r with
  | some l =>
    (s.queueAccess { who := r.who, line := 0, phys := l, stop := none, access := true, req := some r.id, inbound := false }, none)
  | none => let q := s.serveOwn r; (q.1, some q.2)

/-! ## PST (R188) -/

/-- PST posts its store.  BADPLACE stands with PLACEBUSY, after the checks of both handles and before the bank check of a scratch
element, and no demand of the flag's handle is looked at (log 34). -/
def execPst (z : Size) (h g : HReg) (i v : SReg) (s : State) : Out :=
  s.run (.pst z h g i v) [i, v] fun x =>
    let hd := x.rh h
    let ha := x.rh g
    match s.poolElem x hd (x.rs i) z false true with
    | .error e => .error e
    | .ok (o, e) =>
      match elemOffset (s.objOf x) ha [0, 0, 0, 0] false true with
      | .error t => .error (.trap t)
      | .ok (fo, f) =>
        if (hFmt ha).toNat != 0xC1 then trap Cause.format Sub.code ((hFmt ha).setWidth 64)
        else
          match checkPlaced hd o with
          | .error e => .error e
          | .ok _ =>
            let r := s.elemRef o e
            let fr := s.elemRef fo f
            let n := sizeBytes z
            match s.checkScratch s.who r n .write, s.checkScratch s.who fr 8 .both with
            | .error t, _ => .error t
            | _, .error t => .error t
            | .ok _, .ok _ =>
              if 64 ≤ s.postCount s.who || 16 ≤ s.replayCount s.who then .error (.stall .drain)
              else
                match s.detectElem s.who r n true with
                | .error t => .error t
                | .ok s1 =>
                  let q := s1.newReq x (hObj hd) e r (.pst (leBytes n (x.rs v).toNat) fr) false
                  let s2 := (s1.writesAhead r n).writesAhead fr 8
                  let s3 : State := if s.noRoute r then
                      ({ s2 with nextId := s2.nextId + 1 } : State).modCtx s.who fun y => { y with deferred := y.deferred ++
                        [({ cause := Cause.route, sub := 0, addr := x.pc, order := s2.nextId } : Deferred)] }
                    else (s2.markFar r n).addReq q
                  .ok (s3.retire (s3.progressed s3.me) 4)

/-! ## PLD (R189) -/

/-- A read's conversions are requested, and the instruction waits for all of them (R181). -/
def State.askAndWait (s : State) (i : Instr) (x : Ctx) (h : HandleWord) (o : Obj) : Except Stop State :=
  match o.demands (hView h) with
  | .error _ => trap Cause.handle Sub.badplace (elemDetail (hObj h) 0)
  | .ok l =>
    match s.releaseSeal s.who o l with
    | .error e => .error e
    | .ok _ =>
      let s1 := s.sealAxes (s.launchId x) (hObj h) l
      match s1.flights (s.launchId x) (hObj h) (l.map (·.1)) with
      | f :: fs => .error (.goto (s1.modCtx s.who fun y => { y with blocked := some (.conversion i (f :: fs)) }))
      | [] => .error (.goto (s1.modCtx s.who fun y => { y with blocked := some .stall }))

/-- The demand of a read is not met: a speculative position stops before anything is sealed, otherwise the conversion is
requested (R181, R215). -/
def State.requestAndWait (s : State) (i : Instr) (x : Ctx) (h : HandleWord) (o : Obj) : Except Stop State :=
  match s.positionOf x with
  | some (t, _, _) => if x.rank != 0 then .error (.goto (s.stopPosition s.who t.id x.rank false)) else s.askAndWait i x h o
  | none => s.askAndWait i x h o

def execPld (z : Size) (g : HReg) (d i : SReg) (s : State) : Out :=
  s.run (.pld z g d i) [d, i] fun x =>
    let h := x.rh g
    match s.poolElem x h (x.rs i) z true false with
    | .error e => .error e
    | .ok (o, e) =>
      if !(o.unmet (hView h)).isEmpty then s.requestAndWait (.pld z g d i) x h o
      else
        let r := s.elemRef o e
        let n := sizeBytes z
        if r.scratch then
          match s.load s.who (BitVec.ofNat 64 r.addr) n with
          | .error t => .error t
          | .ok (s1, bs) => .ok (s1.retire (s1.me.ws d (BitVec.ofNat 64 (leNat bs))) 4)
        else
          match s.detectElem s.who r n false with
          | .error t => .error t
          | .ok s1 =>
            if s1.writePending s.who r n then .error (.stall .drain)
            else
              match r.key with
              | .dev _ _ => s1.await (s1.newReq x (hObj h) e r (.pld d n) false)
              | .pool id =>
                match s1.poolPath id r.page with
                | .copy c => .ok (s1.retire (s1.me.ws d (BitVec.ofNat 64 (leNat (cellsRead c.data (r.addr % 65536) n)))) 4)
                | .fill =>
                  if s1.fillNoRoute id r.page r.node then .error (.trap (farTrap s1.ownRoute (hObj h) e r.addr))
                  else (s1.startFill id r.page r.node r.captag).await (s1.newReq x (hObj h) e r (.pld d n) true)
                | .fabric => s1.await (s1.newReq x (hObj h) e r (.pld d n) false)

/-! ## PATOM (R190) -/

def execPatom (p : AtomOp) (z : PoolSize) (g : HReg) (d v : SReg) (s : State) : Out :=
  s.run (.patom p z g d v) [d, v] fun x =>
    let h := x.rh g
    let wide := z == .d
    match s.poolElem x h 0 (if wide then .d else .w) true true with
    | .error e => .error e
    | .ok (o, e) =>
      if (hFmt h).toNat != 0xA2 && (hFmt h).toNat != 0xC1 then trap Cause.format Sub.code ((hFmt h).setWidth 64)
      else
        match checkPlaced h o with
        | .error e => .error e
        | .ok _ =>
          let r := s.elemRef o e
          match s.checkScratch s.who r (if wide then 8 else 4) .both with
          | .error t => .error t
          | .ok _ =>
            match s.releaseSys s.who with
            | .error t => .error t
            | .ok _ =>
              let s1 := (s.writesAhead r 8).setCtx s.who (s.progressed x)
              s1.await (s1.newReq x (hObj h) e r (.patom d p wide (x.rs v) (x.rs d)) false)

/-! ## Leases (R191, R192) -/

/-- Kinds that LSACQ and LSREL accept. -/
def Obj.leasable (o : Obj) : Bool := o.kind == 0 || o.kind == 1 && o.fenced

def execLsacq (g : HReg) (d : SReg) (s : State) : Out :=
  s.run (.lsacq g d) [d] fun x =>
    let h := x.rh g
    match s.handleObj x h with
    | .error e => .error e
    | .ok o =>
      if !o.leasable then trap Cause.handle Sub.range (elemDetail (hObj h) 0)
      else s.await (s.newReq x (hObj h) 0 (s.elemRef o 0) (.lsacq d s.ownTerm) false)

def execLsrel (g : HReg) (s : State) : Out :=
  s.run (.lsrel g) [] fun x =>
    let h := x.rh g
    match s.handleObj x h with
    | .error e => .error e
    | .ok o =>
      if !o.leasable then trap Cause.handle Sub.range (elemDetail (hObj h) 0)
      else
        match s.releaseSys s.who with
        | .error t => .error t
        | .ok _ =>
          let k := s.objKey o
          match s.heldNow k with
          | none => .ok (s.advance 4)
          | some l =>
            if 1 < l.count then
              .ok ({ s with holds := s.holds.map fun (m : Hold) => if m.key == k then { m with count := m.count - 1 } else m }.advance 4)
            else if s.reqs.any fun r => r.targets.any fun t => t.1.key == k then .error (.stall .drain)
            else s.await (s.newReq x (hObj h) 0 (s.elemRef o 0) .lsrel false)

/-! ## Codebooks (R184, R65) -/

/-- An entry that CBLD accepts: ±0, or a magnitude in [2^-16, 2^16). -/
def cbEntryOk (v : BitVec 16) : Bool :=
  let e := bitsAt v 7 8
  bitsAt v 0 15 == 0 || 111 ≤ e && e ≤ 142

/-- Commands of a launch that read an object and have yet to complete, by their contexts and issue orders. -/
def State.objReaders (s : State) (launch obj : Nat) : List (Who × Nat) :=
  (s.launchWho launch).flatMap fun w => allQueues.flatMap fun q =>
    ((s.ctxOf w).queues[q.num].filter fun c => c.readsObj q obj).map fun c => (w, c.order)

/-- The commands that the CBLD of the issuing context waits for: those that were issued before it and read the object (R184). -/
def State.loadWaits (s : State) (launch obj : Nat) : List (Who × Nat) :=
  let now := s.objReaders launch obj
  match s.loads.find? fun l => l.who == s.who && l.launch == launch && l.obj == obj with
  | some l => l.before.filter now.contains
  | none => now

def execCbld (g : HReg) (a : SReg) (c : BitVec 2) (s : State) : Out :=
  s.run (.cbld g a c) [a] fun x =>
    let h := x.rh g
    let val := elemDetail (hObj h) 0
    match s.handleObj x h with
    | .error e => .error e
    | .ok o =>
      if !(hWr h && o.wr) then trap Cause.handle Sub.rights val
      else if !(o.fmt.toNat == 0x23 || o.fmt.toNat == 0xFE && o.wc == 1) then trap Cause.handle Sub.range val
      else if bitsAt (x.rs a) 0 5 != 0 then trap Cause.align 0 (x.rs a)
      else
        match s.load s.who (x.rs a) 32 with
        | .error e => .error e
        | .ok (s1, bs) =>
          let es : Vector (BitVec 16) 16 := Vector.ofFn fun k : Fin 16 => BitVec.ofNat 16 (elemAt bs 16 k.val)
          match (List.finRange 16).find? fun k => !cbEntryOk es[k] with
          | some k => trap Cause.format Sub.cbent (BitVec.ofNat 64 (k.val + es[k].toNat * 65536))
          | none =>
            match s.loadWaits (s.launchId x) (hObj h) with
            | [] =>
              let s2 := { s1 with loads := s1.loads.filter fun l => l.who != s.who }
              .ok ((s2.modObj (s.launchId x) (hObj h) fun o => { o with codebooks := o.codebooks.set c.toNat (some es) c.isLt }).advance 4)
            | ws =>
              let l : CodebookLoad := { who := s.who, launch := s.launchId x, obj := hObj h, before := ws }
              .error (.goto ({ s with loads := l :: s.loads.filter fun m => m.who != s.who }.modCtx s.who fun y =>
                { y with blocked := some .stall }))

/-! ## Lapses (R191, R371) -/

/-- POOL_LEASE_LAPSE: cached pages go when the lease is no longer current, the hold and its token when the GTC passes its
end (R191, R371). -/
def execPoolLeaseLapse (poolid : Word) (s : State) : Out :=
  let mine := fun (k : ObjKey) => match k with
    | .pool id => id == poolid
    | .dev _ b => b == poolid
  let stale := s.holds.filter fun h => mine h.key && h.stop.toNat ≤ s.gtc.toNat + s.guardNs
  let s1 := stale.foldl (fun s h => s.dropPages h.key) s
  .next ({ s1 with holds := s1.holds.filter fun h => !(mine h.key && h.stop.toNat ≤ s.gtc.toNat) } : State).contributeOn

/-- The bytes of an answered page that are not zero. -/
def pageCells (bs : List Byte) : List Host.Cell := cellsWrite [] 0 (bs.take 65536)

/-! ## The prefetch engine (R373, R374) -/

/-- The pool node and the capability tag of a pool object, from an object table entry of a pending or running launch of the slot
that names it (R373). -/
def State.namesPool (s : State) (slot : Fin 16) (id : Word) : Option (BitVec 11 × Word) :=
  (s.launches.filter fun l => l.slot == slot && l.phase != .done).findSome? fun l =>
    l.objs.findSome? fun o => o.bind fun o => if o.kind == 0 && o.poolid == id then some (o.node, o.captag) else none

/-- One page of a schedule entry.  A fetch that finds no live station is dropped (R374, R405). -/
def State.prefetchPage (s : State) (p : Fin 16 × Word × Nat) : State :=
  match s.namesPool p.1 p.2.1 with
  | none => s
  | some (node, tag) =>
    if (s.cachePage p.2.1 p.2.2).isSome || !s.cacheRoom || (s.planeOf node p.2.2).isNone then s
    else if s.leaseCurrent (.pool p.2.1) then s.startFill p.2.1 p.2.2 node tag
    else s.setPage { poolid := p.2.1, page := p.2.2, state := .fetching, data := [], fetch := some (s.newFetch p.2.2 node tag) }

/-- Pages whose fetch is under way. -/
def State.fetchesOut (s : State) : Nat := (s.cache.filter fun c => match c.state with
  | .fetching => true
  | .filling _ => true
  | _ => false).length

/-- The engine goes on with its pages while fewer than 4,096 fetches are in flight. -/
def State.pump : List (Fin 16 × Word × Nat) → State → State
  | [], s => { s with prefetch := [] }
  | p :: ps, s => if 4096 ≤ s.fetchesOut then { s with prefetch := p :: ps } else (s.prefetchPage p).pump ps

/-- The engine takes up its pages again after an answer; it starts nothing while the package is halted (R401). -/
def State.pumpOn (s : State) : State := if s.mgmt.pkghlt then s else s.pump s.prefetch

/-- PREFETCH_PAGE_ANSWER: a page fetched without a lease is held AHEAD with its version, or dropped (R372, R374). -/
def execPrefetchPageAnswer (poolid : Word) (page : Nat) (answer : PageAnswer) (s : State) : Out :=
  match s.cachePage poolid page with
  | none => .next s
  | some c =>
    match c.state with
    | .fetching =>
      match answer with
      | .page bs v => .next (s.setPage { c with state := .ahead v, data := pageCells bs, fetch := none }).pumpOn
      | _ => .next (s.dropPage poolid page).pumpOn
    | _ => .next s

end Sys2Proof.Machine
end

