-- ==== Sys2Proof/Machine/Copy.lean ====
section
/-! DEFINITION. The copy engine (R272 to R284) and the fills of the pool cache that reads wait for (R369). -/

namespace Sys2Proof.Machine

/-! ## Fields (R272) -/

def cOp (t : TemplateBits) : Nat := bitsAt (tF t 0) 0 8
def cSobj (t : TemplateBits) : Bool := bitAt (tF t 0) 9
def cDobj (t : TemplateBits) : Bool := bitAt (tF t 0) 10
def cRop (t : TemplateBits) : Nat := bitsAt (tF t 0) 11 2
def cRoot (t : TemplateBits) : Bool := bitAt (tF t 0) 13
def cFmt (t : TemplateBits) : Nat := bitsAt (tF t 3) 0 8
def cSysr (t : TemplateBits) : Bool := bitAt (tF t 3) 11
def cNoret (t : TemplateBits) : Bool := bitAt (tF t 3) 12
def cSaddr (t : TemplateBits) : Nat := tN t 4 4
def cDaddr (t : TemplateBits) : Nat := tN t 8 4
def cCount (t : TemplateBits) (k : Nat) : Nat := (tF t (12 + k)).toNat
def cLen (t : TemplateBits) : Nat := (tF t 15).toNat
def cSs (t : TemplateBits) (k : Nat) : Int := tZ t (16 + 2 * k) 2
def cDs (t : TemplateBits) (k : Nat) : Int := tZ t (22 + 2 * k) 2
def cAux (t : TemplateBits) : Word := BitVec.ofNat 64 (tN t 28 4)
def cGroup (t : TemplateBits) : Byte := (cAux t).extractLsb' 0 8
def cRootRank (t : TemplateBits) : Nat := bitsAt (cAux t) 8 8
def cObj (t : TemplateBits) : Nat := (tF t 32).toNat
def cView (t : TemplateBits) : BitVec 16 := tF t 33
def cOff (t : TemplateBits) : Nat := tN t 34 3
def cFlagObj (t : TemplateBits) : Nat := (tF t 38).toNat
def cFlagOff (t : TemplateBits) : Nat := tN t 40 2
def cSscl (t : TemplateBits) : Nat := tN t 42 4
/-- The captured BKOFF and BKLIM (R255). -/
def cBkOff (t : TemplateBits) : Nat := tN t 60 2
def cBkLim (t : TemplateBits) : Nat := bitsAt (tF t 62) 0 8
def cCredit (t : TemplateBits) : Bool := bitAt (tF t 1) 10
def cCra (t : TemplateBits) : Bool := bitAt (tF t 0) 8

/-- Operations that move rows (R275). -/
def cMovesRows (op : Nat) : Bool := [1, 2, 3, 4, 5, 6, 7, 8, 9, 12].contains op

/-- Operations that credit row by row (R276); the others give one update at completion. -/
def cRowCredits (op : Nat) : Bool := [1, 2, 3, 4, 5, 6, 7, 9].contains op

/-- SOBJ and DOBJ that an operation accepts (R275). -/
def cSidesOk (op : Nat) (so d : Bool) : Bool :=
  match op with
  | 0x03 => so && !d
  | 0x04 | 0x0B => !so && d
  | 0x06 | 0x08 => !d
  | 0x07 => !so
  | _ => !so && !d

/-- Flagged writes: CWR, and CSCAT to an object (R278, R279). -/
def cFlagged (t : TemplateBits) : Bool := cOp t == 4 || cOp t == 7 && cDobj t

/-- Whether the command names an object side. -/
def cUsesObj (t : TemplateBits) : Bool := cSobj t || cDobj t

/-! ## Start checks (R256, R275) -/

/-- Cores that hold a member of a group that has neither exited nor been ended (R282). -/
def State.groupCores (s : State) (x : Ctx) (g : Byte) : List CoreId :=
  match s.teamOf x with
  | none => []
  | some t => ((ranksOf (s.groupMask x g)).filterMap fun r => (t.whoOf r).map (·.core)).eraseDups

/-- The team owns a barrier on a core: its members there have it in BAROWN (R35, R282). -/
def State.teamOwnsBar (s : State) (team : Option Nat) (c : CoreId) (b : BitVec 6) : Bool :=
  match (s.core c).ctx.toList.find? fun y => y.team.isSome && y.team == team with
  | some y => y.barown.getLsbD b.toNat
  | none => false

/-- FORMAT, subcode CODE, with no block involved (R61). -/
def cFormat (fmt : Nat) : Trap := ⟨Cause.format, Sub.code, BitVec.ofNat 64 fmt⟩

/-- A handle fault of the command's descriptor (R382). -/
def cHandle (sub : Byte) (obj : Nat) (e : Int) : Trap := ⟨Cause.handle, sub, elemDetail obj e⟩

/-- PLEAT, subcode FORBID, of an engine command (R257, R382). -/
def pleatForbid : Trap := ⟨Cause.pleat, 1, 0⟩

/-- A demand of the descriptor that its object does not meet (R277, R278). -/
def cUnmet (t : TemplateBits) (o : Option Obj) : Bool := o.any fun o => !(o.unmet (cView t)).isEmpty

/-- FORBID in a Pleat position (R257, R215). -/
def State.copyForbidden (s : State) (x : Ctx) (t : TemplateBits) (o : Option Obj) : Bool :=
  (s.positionOf x).isSome &&
    ([0x02, 0x04, 0x07, 0x09, 0x0A, 0x0B].contains (cOp t)
      || x.rank != 0 && (cOp t == 3 || cOp t == 6) && cSobj t && cUnmet t o)

/-- Width in bits of an element of CRED's format (R272). -/
def credWidth (fmt : Nat) : Nat := fmtWidth fmt 0

/-- Checks of the flag element's entry (R278). -/
def flagChecks (t : TemplateBits) (fo : Option Obj) : List (Bool × Trap) :=
  if !cFlagged t && cOp t != 0x0A then []
  else
    [(fo.isNone, cHandle Sub.noent (cFlagObj t) 0),
     (fo.any fun o => !o.wr || o.fmt.toNat != 0xC1, cFormat ((fo.map fun o => o.fmt.toNat).getD 0))]

def State.copyChecks (s : State) (q : Queue) (x : Ctx) (c : Cmd) : Except Trap Unit :=
  let t := c.bits
  let op := cOp t
  let o := if cUsesObj t then s.objOf x (cObj t) else none
  let m := s.groupMask x (cGroup t)
  let noent := cUsesObj t && o.isNone && op != 0x08
  checkAll
    ([(op == 0 || decide (0x0D < op), engTrap Sub.badop 0)] ++ commonChecks x q c
    ++ [(op == 0x02 && (s.groupCores x (cGroup t)).any fun k => !s.teamOwnsBar x.team k c.bar, engTrap Sub.badbar 1),
        (s.copyForbidden x t o, pleatForbid)]
    ++ [(0, 14, 2), (1, 11, 5), (3, 13, 3), (37, 0, 16), (39, 0, 16)].map (resCheck t)
    ++ (List.range 14).map (fun k => resCheck t (46 + k, 0, 16)) ++ [resCheck t (63, 0, 16)]
    ++ [(!cSidesOk op (cSobj t) (cDobj t), badFld 0),
        (cMovesRows op && cLen t == 0, badFld 15),
        (op == 0x09 && cRop t == 3, badFld 0),
        (op == 0x09 && !(([0xA1, 0x81, 0x82, 0xA2] : List Nat).contains (cFmt t)), badFld 3),
        ((op == 0x06 || op == 0x07) && bitsAt (cAux t) 0 3 != 0, badFld 28),
        (op == 0x09 && cLen t * 8 % credWidth (cFmt t) != 0, badFld 15),
        (cMovesRows op && (o.any fun o => cLen t * 8 % o.width != 0), badFld 15),
        (op == 0x09 && (!m.getLsbD x.rank || cRoot t && !m.getLsbD (cRootRank t)), badFld 28),
        (op == 0x0B && (o.any fun o => o.fmt.toNat != 0xA2 && o.fmt.toNat != 0xC1), cFormat ((o.map fun o => o.fmt.toNat).getD 0))]
    ++ flagChecks t (s.objOf x (cFlagObj t))
    ++ [(noent, cHandle Sub.noent (cObj t) 0),
        (cDobj t && cUnmet t o, cHandle Sub.badplace (cObj t) 0),
        ((op == 3 || op == 6) && cSobj t && (o.any fun o => match o.demands (cView t) with
          | .ok _ => false
          | .error _ => true), cHandle Sub.badplace (cObj t) 0)])

/-! ## Address sides (R273) -/

/-- A part of an address side: its address, its place and its bytes. -/
structure Span where
  va : Nat
  place : Nat
  len : Nat
  deriving DecidableEq, Repr

/-- The bytes of a part as a range of places. -/
def Span.range (p : Span) : Nat × Nat := (p.place, p.len)

/-- Parts of `n` bytes from an address modulo 2^64, each inside one bank or page. -/
def addrParts (a n : Nat) : List (Nat × Nat) :=
  if a + n ≤ 2 ^ 64 then pageParts a n else pageParts a (2 ^ 64 - a) ++ pageParts 0 (a + n - 2 ^ 64)

/-- An address modulo 2^64. -/
def addr64 (a : Int) : Nat := (a % 2 ^ 64).toNat

/-- Place of a byte for the overlap test: scratch by core, device memory by its translation. -/
def State.overlapPlace (s : State) (w : Who) (va : Nat) : Nat :=
  match windowOf w.core va with
  | some (c, off) => scratchPlace c off
  | none =>
    match s.frame (s.ctxOf w).slot va with
    | .ok f => f.pa
    | .error _ => 2 ^ 70 + va

/-- Byte intervals of an address range, by place. -/
def State.overlapParts (s : State) (w : Who) (a : Int) (n : Nat) : List (Nat × Nat) :=
  (addrParts (addr64 a) n).map fun p => (s.overlapPlace w p.1, p.2)

/-- One part of an address side under check_addr (R164, R273). -/
def State.partAt (s : State) (w : Who) (va n : Nat) (need : Need) : State × Except Trap Span :=
  if va < 0x0001000000000000 then
    match s.portPlace w anyPort false va n with
    | .ok p => (s, .ok ⟨va, p, n⟩)
    | .error e => (s, .error (badAddr e))
  else
    match s.xlate (s.ctxOf w).slot va need with
    | (s1, .ok p) => (s1, .ok ⟨va, p, n⟩)
    | (s1, .error e) => (s1, .error ⟨Cause.xlat, e, BitVec.ofNat 64 va⟩)

/-- Every part of an address side, or the first failing one. -/
def State.partsAt (s : State) (w : Who) (need : Need) : List (Nat × Nat) → State × Except Trap (List Span)
  | [] => (s, .ok [])
  | (va, n) :: rest =>
    match s.partAt w va n need with
    | (s1, .error t) => (s1, .error t)
    | (s1, .ok p) =>
      match s1.partsAt w need rest with
      | (s2, .ok ps) => (s2, .ok (p :: ps))
      | (s2, .error t) => (s2, .error t)

def State.sideAt (s : State) (w : Who) (a : Int) (n : Nat) (need : Need) : State × Except Trap (List Span) :=
  s.partsAt w need (addrParts (addr64 a) n)

/-- Detection for each part of a side (R314). -/
def State.detectEach (s : State) (w : Who) (c : Cmd) (ps : List Span) (write : Bool) : Except Trap State :=
  match ps with
  | [] => .ok s
  | p :: rest =>
    match s.portDetect w c p.va p.len write (isDev p.place) with
    | .error t => .error t
    | .ok s1 => s1.detectEach w c rest write

/-- Detection for a side; before a write that position 0's buffer has no room for, the buffer is committed (R212, R314, R321). -/
def State.detectParts (s : State) (w : Who) (c : Cmd) (ps : List Span) (write : Bool) : Except Trap State :=
  match s.detectEach w c ps write with
  | .error t => .error t
  | .ok s1 =>
    if !write then .ok s1
    else match s1.roomFor w (ps.map fun p => (p.place, p.len)) with
      | .error f => .error (engRace f)
      | .ok s2 => .ok s2

/-- Detection for a row of an object of another package (R314): its payload, and its scale words. -/
def State.detectFar (s : State) (w : Who) (c : Cmd) (r : ElemRef) (ranges : List (Nat × Nat)) (write : Bool) : Except Trap State :=
  match s.detectTiles w c.clock (ranges.flatMap fun a => s.touchedRef (s.ctxOf w) { r with addr := a.1 } a.2) write true with
  | .error f => .error (engRace f)
  | .ok s1 => .ok s1

/-- Reads a side. -/
def State.readParts (s : State) (w : Who) (c : Cmd) : List Span → State × List Byte
  | [] => (s, [])
  | p :: rest =>
    let r := s.portRead w c p.place p.len
    let t := r.1.readParts w c rest
    (t.1, r.2 ++ t.2)

/-- ECC at the first poisoned byte of a side. -/
def State.partsPoison (s : State) (ps : List Span) : Option Trap :=
  s.payloadPoison (ps.map fun p => ((p.va : Int), p.len)) (ps.map Span.place)

/-- A checked read of a side: detection, poison, and the bytes (R165, R357). -/
def State.takeParts (s : State) (w : Who) (c : Cmd) (ps : List Span) : Except Trap (State × List Byte) :=
  match s.detectParts w c ps false with
  | .error t => .error t
  | .ok s1 =>
    match s1.partsPoison ps with
    | some t => .error t
    | none => .ok (s1.readParts w c ps)

/-- A read of whole blocks: their payloads and their scale words.  A block whose source data are poisoned is carried as a poison
block: its scale word gets FMTC = 0xFF (R62). -/
def State.takeBlocks (s : State) (w : Who) (c : Cmd) (block : Nat) (ps qs : List Span) : Except Trap (State × List Byte × List Byte) :=
  match s.detectParts w c (ps ++ qs) false with
  | .error t => .error t
  | .ok s1 =>
    let pm := s1.poisonMap (ps.map Span.range)
    let qm := s1.poisonMap (qs.map Span.range)
    let (s2, d) := s1.readParts w c ps
    let (s3, sc) := s2.readParts w c qs
    if !(pm ++ qm).contains true then .ok (s3, d, sc)
    else
      let (s4, d4) := s3.freeBytes pm d
      let (s5, sc5) := s4.freeBytes qm sc
      let bad := fun (k : Nat) => ((pm.drop (block * k)).take block ++ (qm.drop (4 * k)).take 4).contains true
      .ok (s5, d4, sc5.mapIdx fun k b => if k % 4 == 0 && bad (k / 4) then 0xFF else b)

/-- The context's Pleat position has been stopped or killed: its writes to device memory are discarded (R211, R212). -/
def State.positionDead (s : State) (w : Who) : Bool := (s.deadPosition (s.ctxOf w)).isSome

/-- One engine write (R212, R257). -/
def State.portWrite (s : State) (w : Who) (p : Nat) (bs : List Byte) : State :=
  if isDev p && s.positionDead w then s
  else
    match s.writeAs w false p bs with
    | some s1 => s1
    | none => s.overflowStop w

def State.putParts (s : State) (w : Who) : List Span → List Byte → State
  | [], _ => s
  | p :: rest, bs => (s.portWrite w p.place (bs.take p.len)).putParts w rest (bs.drop p.len)

/-! ## Rows (R273, R274) -/

/-- Number of rows. -/
def cRows (t : TemplateBits) : Nat := cCount t 0 * cCount t 1 * cCount t 2

/-- Level indices of a row in nest order. -/
def rowAt (t : TemplateBits) (k : Nat) : Nat × Nat × Nat :=
  (k % cCount t 0, k / cCount t 0 % cCount t 1, k / (cCount t 0 * cCount t 1))

/-- Offset of a row by strides, where an index replaces the level-1 step (R279). -/
def rowOff (st : Nat → Int) (i : Nat × Nat × Nat) (first : Int) : Int := first * st 0 + i.2.1 * st 1 + i.2.2 * st 2

/-- The index of a gather or scatter row, if its operation uses one. -/
def rowIdx (c : Cmd) (i : Nat × Nat × Nat) : Int := ((c.idx[i.1]?).getD 0).toInt

def srcOff (c : Cmd) (k : Nat) : Int :=
  let i := rowAt c.bits k
  rowOff (cSs c.bits) i (if cOp c.bits == 6 then rowIdx c i else i.1)

def dstOff (c : Cmd) (k : Nat) : Int :=
  let i := rowAt c.bits k
  rowOff (cDs c.bits) i (if cOp c.bits == 7 then rowIdx c i else i.1)

/-- The row's index is negative (R279). -/
def negRow (c : Cmd) (k : Nat) : Bool :=
  (cOp c.bits == 6 || cOp c.bits == 7) && decide (rowIdx c (rowAt c.bits k) < 0)

/-- The scale words travel with the payload: the object side's format is scaled (R274). -/
def rowScaled (o : Option Obj) : Bool := o.any (·.scaled)

/-- Bytes of a block's payload. -/
def blockBytes (o : Option Obj) : Nat := 4 * (o.map Obj.width).getD 8

/-- Blocks of a row. -/
def rowBlocks (t : TemplateBits) (o : Option Obj) : Nat := if rowScaled o then cLen t / blockBytes o else 0

/-- Elements that a row covers on its object side. -/
def rowElems (t : TemplateBits) (o : Obj) : Nat := cLen t * 8 / o.width

/-- Bytes credited for a row (R276). -/
def rowCredit (t : TemplateBits) (o : Option Obj) : Nat := cLen t + 4 * rowBlocks t o

/-- The checks of a row's object side: range, rights, whole blocks or whole bytes (R273, R274). -/
def objRow (t : TemplateBits) (o : Obj) (e : Int) (rd wr : Bool) : Except Trap Unit :=
  let n := rowElems t o
  let unit := if o.scaled then 32 else 8 / Nat.gcd 8 o.width
  checkAll
    [(decide (e < 0) || decide ((o.size.toNat : Int) < e + n), cHandle Sub.range (cObj t) e),
     (rd && !o.rd || wr && !o.wr, cHandle Sub.rights (cObj t) e),
     (e.toNat % unit != 0 || n % unit != 0, engTrap Sub.blkpart (o.byteOf e.toNat % 2 ^ 52))]

/-- A row of zeros of CGATH covers whole blocks or whole bytes of its object's format too; with no element on the object side, the
address of the row's other side is reported (R64, R274, log 35). -/
def zeroRow (c : Cmd) (o : Option Obj) (k : Nat) : Except Trap Unit :=
  let t := c.bits
  match o with
  | some d =>
    let unit := if d.scaled then 32 else 8 / Nat.gcd 8 d.width
    failIf (rowElems t d % unit != 0) (engTrap Sub.blkpart (addr64 (cDaddr t + dstOff c k) % 2 ^ 52))
  | none => .ok ()

/-- The parts of a row's address side: its payload, and its scale words where the other side is scaled. -/
def State.addrRow (s : State) (w : Who) (t : TemplateBits) (o : Option Obj) (base : Nat) (off : Int) (need : Need) :
    State × Except Trap (List Span × List Span) :=
  if rowScaled o && off % blockBytes o != 0 then (s, .error (engTrap Sub.blkpart (addr64 (base + off) % 2 ^ 52)))
  else
    match s.sideAt w (base + off) (cLen t) need with
    | (s1, .error e) => (s1, .error e)
    | (s1, .ok ps) =>
      if rowScaled o then
        match s1.sideAt w (cSscl t + 4 * (off / blockBytes o)) (4 * rowBlocks t o) need with
        | (s2, .error e) => (s2, .error e)
        | (s2, .ok qs) => (s2, .ok (ps, qs))
      else (s1, .ok (ps, []))

/-! ## Object sides -/

/-- What an access of a row comes to. -/
inductive RowStep (α : Type)
  | ok (s : State) (v : α)
  /-- it waits: for a fill, an answer, or a line lease -/
  | wait (s : State)
  | rnr (s : State)
  | fault (s : State) (t : Trap)

/-- Pool pages that a row touches, its scale words' included. -/
def rowPages (o : Obj) (e len blocks : Nat) : List Nat :=
  ((pageParts (o.byteOf e) len ++ if o.scaled then pageParts (o.scaleOf e) (4 * blocks) else []).map fun p => p.1 / 65536).eraseDups

/-- An access of a command to parts proceeds, or queues behind a line lease (R176). -/
def RowStep.behind {α : Type} (s : State) (w : Who) (c : Cmd) (ps : List Span) (go : State → RowStep α) : RowStep α :=
  match s.cmdBehind w c (ps.map Span.range) with
  | some l => .wait (s.cmdQueues w c l)
  | none => go (s.cmdLeaves w c)

/-! ## Requests of rows (R277, R278, R283) -/

/-- The request of a row that is under way; the flag add counts as the row after the last. -/
def State.rowReq (s : State) (w : Who) (q : Queue) (c : Cmd) (row : Nat) : Option Req :=
  s.reqs.find? fun r => r.who == w && r.cmd == some (q, c.order, row)

/-- A request of a copy command, with the capability tag and the token of its element (R278, R364, R404) and the captured back-off
and limit (R255). -/
def State.cmdReq (s : State) (w : Who) (q : Queue) (c : Cmd) (row obj e : Nat) (r : ElemRef) (k : ReqKind) : Req :=
  let x := s.ctxOf w
  s.routed { id := s.nextId, who := w, team := x.team, slot := x.slot, obj := obj, elem := e, ref := r, kind := k, station := none,
             sent := false, fill := false, bkoff := cBkOff c.bits, bklim := cBkLim c.bits, attempts := 0, due := none, pc := 0,
             cmd := some (q, c.order, row) }

/-- A request of a row is made, unless one is under way, and its answer taken, if one has come and fits: what was asked for, with
the bytes and scale words of the answer.  Without a live station it faults (R405). -/
def State.rowTrip (s : State) (w : Who) (q : Queue) (c : Cmd) (row obj e : Nat) (r : ElemRef) (k : ReqKind)
    (issue : State → Except Trap State) (fits : List Byte → List Byte → Bool) (reply : RowReply) :
    RowStep (ReqKind × List Byte × List Byte) :=
  let answered := fun (s : State) (p : Req) =>
    if !p.sent then (if s.noRoute r then RowStep.fault s (engFar s.ownRoute obj e r.addr) else .wait s)
    else match reply with
      | .none => .wait s
      | .ok d sc => if fits d sc then .ok (s.dropReq p.id) (p.kind, d, sc) else .wait s
      | .rnr => .rnr (s.dropReq p.id)
      | .fault f => .fault (s.dropReq p.id) (engFar f obj e r.addr)
  match s.rowReq w q c row with
  | some p => answered s p
  | none =>
    if s.noRoute r then .fault s (engFar s.ownRoute obj e r.addr)
    else
      match issue s with
      | .error z => .fault s z
      | .ok s1 =>
        let p := s1.cmdReq w q c row obj e r k
        answered (s1.addReq p) p

/-- Bytes that the parts of a row ask for. -/
def partsNeed (ps : List RowPart) : Nat := (ps.map fun p => if p.copy.isSome then 0 else p.len).foldl (· + ·) 0

/-- The bytes of the parts of a row: of the copies, and of the answer. -/
def partsFill : List RowPart → List Byte → List Byte
  | [], _ => []
  | p :: ps, bs => match p.copy with
    | some d => d ++ partsFill ps bs
    | none => bs.take p.len ++ partsFill ps (bs.drop p.len)

/-- The parts of a range of a pool object: a page that is cached under a valid lease gives its bytes (R277, R369). -/
def State.cachedParts (s : State) (id : Word) (a n : Nat) : List RowPart :=
  (pageParts a n).map fun p => { addr := p.1, len := p.2, copy := match s.poolPath id (p.1 / 65536) with
    | .copy c => some (cellsRead c.data (p.1 % 65536) p.2)
    | _ => none }

/-- A row that the fabric brings, but for the bytes that the cache holds. -/
def State.farRead (s : State) (w : Who) (q : Queue) (c : Cmd) (row e : Nat) (r : ElemRef) (ps qs : List RowPart)
    (issue : State → Except Trap State) (reply : RowReply) : RowStep (List Byte × List Byte) :=
  let need := match (s.rowReq w q c row).map (·.kind) with
    | some (.rowRead a b) => (partsNeed a, partsNeed b)
    | _ => (partsNeed ps, partsNeed qs)
  match s.rowTrip w q c row (cObj c.bits) e r (.rowRead ps qs) issue
      (fun d sc => d.length == need.1 && sc.length == need.2) reply with
  | .ok s1 (.rowRead a b, d, sc) => .ok s1 (partsFill a d, partsFill b sc)
  | .ok s1 _ => .wait s1
  | .wait s1 => .wait s1
  | .rnr s1 => .rnr s1
  | .fault s1 z => .fault s1 z

/-- Reads of this package's own device memory as the target serves them (R384). -/
def State.ownParts (s : State) (slot : Fin 16) (va n : Nat) (need : Need) : State × Except Answer (List Span) :=
  let parts := pageParts va n
  match s.spans slot need parts with
  | (s1, .ok ps) => (s1, .ok ((parts.zip ps).map fun p => ⟨p.1.1, p.2.1, p.2.2⟩))
  | (s1, .error e) =>
    let q := s1.refuse e.1
    (q.1, .error q.2)

/-- Reads a row of an object: from a scratch region, from this package's device memory, from the cached copy, or over the
fabric (R277, R369, R370). -/
def State.objRead (s : State) (w : Who) (q : Queue) (c : Cmd) (o : Obj) (row e : Nat) (reply : RowReply) :
    RowStep (List Byte × List Byte) :=
  let t := c.bits
  let r := s.elemRef o e
  let len := cLen t
  let nb := rowBlocks t (some o)
  let own := fun (p q : State × Except Trap (List Span)) (k : State → List Span → List Span → RowStep (List Byte × List Byte)) =>
    match p, q with
    | (s1, .error x), _ => RowStep.fault s1 x
    | _, (s1, .error x) => RowStep.fault s1 x
    | (_, .ok ps), (s1, .ok qs) => k s1 ps qs
  let take := fun (s1 : State) (ps qs : List Span) => RowStep.behind s1 w c (ps ++ qs) fun s1 =>
    if o.scaled then
      match s1.takeBlocks w c (blockBytes (some o)) ps qs with
      | .error x => RowStep.fault s1 x
      | .ok (s2, d, sc) => .ok s2 (d, sc)
    else
      match s1.takeParts w c ps with
      | .error x => .fault s1 x
      | .ok (s2, d) => .ok s2 (d, [])
  if r.scratch then
    let p := s.sideAt w r.addr len .read
    own p (p.1.sideAt w (o.scaleOf e) (4 * nb) .read) take
  else if s.servesRef r then
    match s.ownParts (s.ctxOf w).slot r.addr len .read with
    | (s1, .error _) => .rnr s1
    | (s1, .ok ps) =>
      match s1.ownParts (s.ctxOf w).slot (o.scaleOf e) (4 * nb) .read with
      | (s2, .error _) => .rnr s2
      | (s2, .ok qs) => take s2 ps qs
  else
    match r.key with
    | .dev _ _ =>
      let part := fun (a n : Nat) => if n == 0 then [] else [({ addr := a, len := n, copy := none } : RowPart)]
      s.farRead w q c row e r (part r.addr len) (part (o.scaleOf e) (4 * nb))
        (fun s => s.detectFar w c r [(r.addr, len), (o.scaleOf e, 4 * nb)] false) reply
    | .pool id =>
      if (s.rowReq w q c row).isSome then s.farRead w q c row e r [] [] .ok reply
      else if s.writePending w r len || s.writePending w { r with addr := o.scaleOf e } (4 * nb) then .wait s
      else
        let fills := (rowPages o e len nb).filter fun p => s.poolPath id p == .fill
        if fills.any fun p => s.fillNoRoute id p r.node then .fault s (engFar s.ownRoute (cObj t) e r.addr)
        else if !fills.isEmpty then .wait (fills.foldl (fun s p => s.startFill id p r.node r.captag) s)
        else
          let ps := s.cachedParts id r.addr len
          let qs := s.cachedParts id (o.scaleOf e) (4 * nb)
          if (ps ++ qs).all fun p => p.copy.isSome then .ok s (partsFill ps [], partsFill qs [])
          else s.farRead w q c row e r ps qs .ok reply

/-- Element that FLAGD names. -/
def State.flagRef (s : State) (x : Ctx) (t : TemplateBits) : Option (Obj × ElemRef) :=
  (s.objOf x (cFlagObj t)).map fun o => (o, s.elemRef o (cFlagOff t))

/-- The target of a row homes the flag element too (R418). -/
def sameHome (a b : ElemRef) : Bool := a.node == b.node && match a.key, b.key with
  | .pool _, .pool _ => true
  | .dev _ _, .dev _ _ => true
  | _, _ => false

/-- A row that writes an object of another node: its data, its scale words and its token are sent (R278, R370), and what is
acknowledged reaches the copy. -/
def State.objSend (s : State) (w : Who) (q : Queue) (c : Cmd) (o : Obj) (row e : Nat) (d sc : List Byte) (reply : RowReply) :
    RowStep Unit :=
  let r := s.elemRef o e
  let rs := { r with addr := o.scaleOf e }
  let issue := fun (s : State) =>
    match s.detectFar w c r [(r.addr, d.length), (rs.addr, sc.length)] true with
    | .error z => .error z
    | .ok s1 => .ok ((((s1.writesAhead r d.length).writesAhead rs sc.length).markFar r d.length).markFar rs sc.length)
  match s.rowTrip w q c row (cObj c.bits) e r (.rowWrite d (rs.addr, sc)) issue (fun _ _ => true) reply with
  | .ok s1 (.rowWrite d z, _) => .ok ((s1.copyRef r d).copyRef { r with addr := z.1 } z.2) ()
  | .ok s1 _ => .wait s1
  | .wait s1 => .wait s1
  | .rnr s1 => .rnr s1
  | .fault s1 z => .fault s1 z

/-- Writes a row to an object with its fencing token (R278, R418). -/
def State.objWrite (s : State) (w : Who) (q : Queue) (c : Cmd) (o : Obj) (row e : Nat) (d sc : List Byte) (reply : RowReply) :
    RowStep Unit :=
  let t := c.bits
  let x := s.ctxOf w
  let r := s.elemRef o e
  let flag := (s.flagRef x t).map (·.2)
  let home := flag.any fun f => sameHome r f
  let put := fun (s : State) (ps qs : List Span) => RowStep.behind s w c (ps ++ qs) fun s =>
    match s.detectParts w c (ps ++ qs) true with
    | .error z => .fault s z
    | .ok s1 => .ok ((s1.putParts w ps d).putParts w qs sc) ()
  if r.scratch then
    match s.sideAt w r.addr d.length .write with
    | (s1, .error z) => .fault s1 z
    | (s1, .ok ps) =>
      match s1.sideAt w (o.scaleOf e) sc.length .write with
      | (s2, .error z) => .fault s2 z
      | (s2, .ok qs) => if !home then .fault s2 (engFar .handle (cObj t) e r.addr) else put s2 ps qs
  else if s.servesRef r then
    if !home then .fault s (engFar .handle (cObj t) e r.addr)
    else if s.fences r || flag.any s.fences then .fault s (engFar .fenced (cObj t) e r.addr)
    else if s.leasedAway r s.ownNode || flag.any fun f => s.leasedAway f s.ownNode then .rnr s
    else
      match s.ownParts x.slot r.addr d.length .write with
      | (s1, .error _) => .rnr s1
      | (s1, .ok ps) =>
        match s1.ownParts x.slot (o.scaleOf e) sc.length .write with
        | (s2, .error _) => .rnr s2
        | (s2, .ok qs) => put s2 ps qs
  else s.objSend w q c o row e d sc reply

/-- A flag add: one atomic add to the INT64 element that FLAGD names (R278, R283). -/
def State.flagAdd (s : State) (w : Who) (q : Queue) (c : Cmd) (row : Nat) (v : Word) (reply : RowReply) : RowStep Unit :=
  let t := c.bits
  let x := s.ctxOf w
  let n := cFlagObj t
  let e := cFlagOff t
  match s.flagRef x t with
  | none => .fault s (cHandle Sub.noent n 0)
  | some (o, r) =>
    let add := fun (s1 : State) (ps : List Span) => RowStep.behind s1 w c ps fun s1 =>
      match s1.partsPoison ps with
      | some t => RowStep.fault s1 t
      | none => .ok (s1.rmw ((ps.head?.map (·.place)).getD 0) .add 8 v 0).1 ()
    if o.size.toNat ≤ e then .fault s (cHandle Sub.range n e)
    else if r.scratch then
      match s.sideAt w r.addr 8 .both with
      | (s1, .error z) => .fault s1 z
      | (s1, .ok ps) => add s1 ps
    else if s.servesRef r then
      if s.fences r then .fault s (engFar .fenced n e r.addr)
      else if s.leasedAway r s.ownNode then .rnr s
      else
        match s.ownParts x.slot r.addr 8 .both with
        | (s1, .error _) => .rnr s1
        | (s1, .ok ps) => add s1 ps
    else
      match s.rowTrip w q c row n e r (.rowFlag v) (fun s => .ok (s.writesAhead r 8)) (fun _ _ => true) reply with
      | .ok s1 _ => .ok (s1.copyAdd r v) ()
      | .wait s1 => .wait s1
      | .rnr s1 => .rnr s1
      | .fault s1 z => .fault s1 z

/-! ## A row -/

/-- The 8-byte pattern of CFILL over a row (R275). -/
def fillRow (v : Word) (n : Nat) : List Byte := (List.range n).map fun k => BitVec.ofNat 8 (v.toNat / 256 ^ (k % 8))

/-- The source of a row: payload and scale words. -/
def State.rowSource (s : State) (w : Who) (q : Queue) (c : Cmd) (o : Option Obj) (k : Nat) (reply : RowReply) :
    RowStep (List Byte × List Byte) :=
  let t := c.bits
  if cOp t == 5 then .ok s (fillRow (cAux t) (cLen t), [])
  else if negRow c k then .ok s (List.replicate (cLen t) 0, List.replicate (4 * rowBlocks t o) 0)
  else if cSobj t then
    match o with
    | none => .fault s (cHandle Sub.noent (cObj t) 0)
    | some o => s.objRead w q c o k (cOff t + srcOff c k).toNat reply
  else
    match s.addrRow w t o (cSaddr t) (srcOff c k) .read with
    | (s1, .error z) => .fault s1 z
    | (s1, .ok (ps, qs)) => RowStep.behind s1 w c (ps ++ qs) fun s1 =>
      if rowScaled o then
        match s1.takeBlocks w c (blockBytes o) ps qs with
        | .error z => .fault s1 z
        | .ok (s2, d, sc) => .ok s2 (d, sc)
      else
        match s1.takeParts w c ps with
        | .error z => .fault s1 z
        | .ok (s2, d) => .ok s2 (d, [])

/-- The source checks of a row that come before its destination's: an object side's element and blocks. -/
def rowSourceCheck (c : Cmd) (o : Option Obj) (k : Nat) : Except Trap Unit :=
  let t := c.bits
  if !cSobj t then .ok ()
  else if negRow c k then zeroRow c o k
  else
    match o with
    | some o => objRow t o (cOff t + srcOff c k) true false
    | none => .error (cHandle Sub.noent (cObj t) 0)

/-- Places of a CPYM row on every core that it writes (R282). -/
def State.castPlaces (s : State) (w : Who) (a : Int) (n : Nat) : List CoreId → Except Trap (List (CoreId × Nat))
  | [] => .ok []
  | k :: ks =>
    let v := addr64 a
    let bad := if 0x200000 < v + n then (if v < 0x200000 then some 0x200000 else some v) else none
    let banks := ((List.range ((v % 65536 + n + 65535) / 65536)).map (v / 65536 + ·)).find? fun b => !s.portBank w k anyPort b
    match banks, bad with
    | some b, _ => .error (badAddr (Nat.max v (65536 * b)))
    | none, some e => .error (badAddr e)
    | none, none =>
      match s.castPlaces w a n ks with
      | .error z => .error z
      | .ok ps => .ok ((k, scratchPlace k v) :: ps)

/-- A row's credit to a barrier of a core (R276). -/
def State.rowCredited (s : State) (c : Cmd) (core : CoreId) (n : Nat) : State :=
  if cCredit c.bits && !cCra c.bits then s.updateBar core c.bar c.clock fun b => b.credit n else s

/-- MMX PLACEBUSY of an engine command (R278, R382). -/
def engBusy (obj : Nat) (o : Obj) : Trap :=
  { cause := Cause.mmx, sub := 2, val := BitVec.ofNat 64 (obj % 65536 + o.begun.toNat % 65536 * 2 ^ 16) }

/-- A row that would write an object finds a conversion of it in flight: the first one (R278), or a later one of a command that began
before the seal, since the piece cannot change then (R312). -/
def rowBusy (c : Cmd) (o : Option Obj) : Bool := cDobj c.bits && o.any Obj.busy

/-- Lands one row: both sides are checked, the whole source is read, the destination written, and the credit given (R276). -/
def State.landRow (s : State) (w : Who) (q : Queue) (c : Cmd) (o : Option Obj) (k : Nat) (reply : RowReply) : RowStep Unit :=
  let t := c.bits
  let out := (s.rowReq w q c k).isSome
  if rowBusy c o && !out then .fault s ((o.map (engBusy (cObj t))).getD (engTrap 0 0))
  else if cOp t == 7 && negRow c k then .ok s ()
  else
    match rowSourceCheck c o k with
    | .error z => .fault s z
    | .ok _ =>
      if cDobj t then
        match o with
        | none => .fault s (cHandle Sub.noent (cObj t) 0)
        | some d =>
          let e : Int := cOff t + dstOff c k
          match objRow t d e false true with
          | .error z => .fault s z
          | .ok _ =>
            let sent := if out then s.objSend w q c d k e.toNat [] [] reply
              else match s.rowSource w q c o k reply with
                | .ok s1 (bs, sc) => s1.objWrite w q c d k e.toNat bs sc reply
                | .wait s1 => .wait s1
                | .rnr s1 => .rnr s1
                | .fault s1 z => .fault s1 z
            match sent with
            | .ok s2 _ => .ok (s2.rowCredited c w.core (rowCredit t o)) ()
            | r => r
      else if cOp t == 2 then
        match s.rowSource w q c o k reply with
        | .ok s1 (bs, _) =>
          match s1.castPlaces w (cDaddr t + dstOff c k) (cLen t) c.cores with
          | .error z => .fault s1 z
          | .ok ps =>
            match s1.portDetect w c (addr64 (cDaddr t + dstOff c k)) (cLen t) true false with
            | .error z => .fault s1 z
            | .ok s2 => .ok (ps.foldl (fun s p => (s.portWrite w p.2 bs).rowCredited c p.1 (cLen t)) s2) ()
        | .wait s1 => .wait s1
        | .rnr s1 => .rnr s1
        | .fault s1 z => .fault s1 z
      else
        let src := if cSobj t || cOp t == 5 || negRow c k then (s, .ok ([], []))
          else s.addrRow w t o (cSaddr t) (srcOff c k) .read
        match src.2 with
        | .error z => .fault src.1 z
        | .ok _ =>
          match src.1.addrRow w t o (cDaddr t) (dstOff c k) .write with
          | (s1, .error z) => .fault s1 z
          | (s1, .ok (ps, qs)) => RowStep.behind s1 w c (ps ++ qs) fun s1 =>
            match s1.rowSource w q c o k reply with
            | .ok s2 (bs, sc) =>
              match s2.detectParts w c (ps ++ qs) true with
              | .error z => .fault s2 z
              | .ok s3 => .ok (((s3.putParts w ps bs).putParts w qs sc).rowCredited c w.core (rowCredit t o)) ()
            | .wait s2 => .wait s2
            | .rnr s2 => .rnr s2
            | .fault s2 z => .fault s2 z

/-! ## Starts -/

/-- The index list of CGATH and CSCAT (R279). -/
def State.readIndices (s : State) (w : Who) (c : Cmd) : Except Trap (State × List IWord) :=
  if cOp c.bits != 6 && cOp c.bits != 7 then .ok (s, [])
  else
    let n := cCount c.bits 0
    match s.sideAt w (cAux c.bits).toNat (4 * n) .read with
    | (_, .error z) => .error z
    | (s1, .ok ps) =>
      match s1.takeParts w c ps with
      | .error z => .error z
      | .ok (s2, bs) => .ok (s2, (List.range n).map fun k => wordAt bs (4 * k))

/-- Pages of an object that CPREF asks for are fetched when the lease is current (R280). -/
def State.prefetchRows (s : State) (c : Cmd) (o : Obj) : State :=
  if o.kind != 0 || !s.leaseCurrent (.pool o.poolid) || !o.rd then s
  else
    (List.range (cRows c.bits)).foldl (fun s k =>
      let e : Int := cOff c.bits + srcOff c k
      match objRow c.bits o e true false with
      | .error _ => s
      | .ok _ =>
        (rowPages o e.toNat (cLen c.bits) (rowBlocks c.bits (some o))).foldl (fun s p =>
          match s.poolPath o.poolid p with
          | .fill => if s.fillNoRoute o.poolid p o.node then s else s.startFill o.poolid p o.node o.captag
          | _ => s) s) s

/-- The source rows of CSUM in nest order (R283). -/
def State.sumRows (s : State) (w : Who) (c : Cmd) : Nat → Nat → Except Trap (State × List Byte)
  | 0, _ => .ok (s, [])
  | n + 1, k =>
    match s.addrRow w c.bits none (cSaddr c.bits) (srcOff c k) .read with
    | (_, .error z) => .error z
    | (s1, .ok (ps, _)) =>
      match s1.takeParts w c ps with
      | .error z => .error z
      | .ok (s2, bs) =>
        match s2.sumRows w c n (k + 1) with
        | .error z => .error z
        | .ok (s3, rest) => .ok (s3, bs ++ rest)

/-- CSUM as a whole (R283). -/
def State.checksum (s : State) (w : Who) (c : Cmd) : Started :=
  match s.sumRows w c (cRows c.bits) 0 with
  | .error z => .fault s z 0
  | .ok (s1, bs) =>
    if cDaddr c.bits % 4 != 0 then .fault s1 (badAddr (cDaddr c.bits)) 0
    else
      match s1.sideAt w (cDaddr c.bits) 4 .write with
      | (s2, .error z) => .fault s2 z 0
      | (s2, .ok ps) =>
        match s2.detectParts w c ps true with
        | .error z => .fault s2 z 0
        | .ok s3 => .done (s3.putParts w ps (leBytes 4 (crc32c bs).toNat)) 4 0

/-- CATOM's checks beyond those of its start: its element, a conversion in flight, and DADDR (R283, R185). -/
def State.catomCheck (s : State) (w : Who) (t : TemplateBits) (o : Obj) : Except Trap Unit :=
  let e := cOff t
  checkAll
    [(decide (o.size.toNat ≤ e), cHandle Sub.range (cObj t) e),
     (!o.rd || !o.wr, cHandle Sub.rights (cObj t) e),
     (o.busy, engBusy (cObj t) o),
     (!cNoret t && (cDaddr t % 8 != 0 || (match s.portPlace w anyPort true (cDaddr t) 8 with
        | .ok _ => false
        | .error _ => true)), badAddr (cDaddr t))]

/-- The conversions that a read's descriptor demands are requested (R277). -/
def State.copyDemands (s : State) (x : Ctx) (t : TemplateBits) (o : Option Obj) : State × List (Nat × Fin 4 × IWord) :=
  match o with
  | none => (s, [])
  | some o =>
    match o.demands (cView t) with
    | .error _ => (s, [])
    | .ok l =>
      let s1 := s.sealAxes (s.launchId x) (cObj t) l
      (s1, s1.flights (s.launchId x) (cObj t) (l.map (·.1)))

/-- What a copy command does at its start: its indices, its conversion requests and its set of cores; CPREF and CSUM are
done at once. -/
def State.copyBody (s : State) (w : Who) (c : Cmd) : Started :=
  let t := c.bits
  let x := s.ctxOf w
  let o := if cUsesObj t then s.objOf x (cObj t) else none
  match cOp t with
  | 0x08 => .done (match o with
      | some o => s.prefetchRows c o
      | none => s) 0 0
  | 0x0C => s.checksum w c
  | 0x09 | 0x0A | 0x0D => .running s id
  | 0x0B =>
    match o with
    | none => .fault s (cHandle Sub.noent (cObj t) 0) 0
    | some o =>
      match s.catomCheck w t o with
      | .error z => .fault s z 0
      | .ok _ => .running s id
  | op =>
    match s.readIndices w c with
    | .error z => .fault s z 0
    | .ok (s1, idx) =>
      let (s2, conv) := if op == 3 || op == 6 && cSobj t then s1.copyDemands x t o else (s1, [])
      let cores := if op == 2 then s.groupCores x (cGroup t) else []
      if cRows t == 0 && !cFlagged t && conv.isEmpty then .done s2 0 0
      else .running s2 fun c => { c with idx := idx, conv := conv, cores := cores }

/-! ## Bank references (R33) -/

/-- Byte intervals of engine addresses that a command's accesses could meet, with its object side and its flag element in scratch
regions. -/
def copyRefs (o fo : Option Obj) (t : TemplateBits) : List (Int × Int) :=
  let op := cOp t
  let span := fun (st : Nat → Int) => nestSpan [(cCount t 0, st 0), (cCount t 1, st 1), (cCount t 2, st 2)]
  let addr := fun (base : Nat) (st : Nat → Int) =>
    let r := span st
    ((base + r.1, base + r.2 + cLen t) : Int × Int) :: if rowScaled o then
      [((cSscl t + 4 * (r.1 / blockBytes o), cSscl t + 4 * ((r.2 + cLen t) / blockBytes o) + 4) : Int × Int)] else []
  let obj := fun (st : Nat → Int) => match o with
    | none => []
    | some o =>
      if o.kind != 2 then []
      else
        let r := span st
        let lo := (cOff t + r.1).toNat
        let hi := (cOff t + r.2).toNat + rowElems t o
        ((o.byteOf lo, o.byteOf hi + 1) : Int × Int) ::
          if o.scaled then [((o.scaleOf lo, o.scaleOf hi + 4) : Int × Int)] else []
  let elem := fun (o : Option Obj) (e : Nat) => match o with
    | some o => if o.kind == 2 then [((o.byteOf e, o.byteOf e + 8) : Int × Int)] else []
    | none => []
  let flag := if cFlagged t || op == 0x0A then elem fo (cFlagOff t) else []
  let window := fun (base : Nat) =>
    if base < 0x200000 then [((0, 0x200000) : Int × Int)]
    else if 0x01000000 ≤ base && base < 0x02000000 then
      [(((base / 0x200000 * 0x200000 : Nat) : Int), ((base / 0x200000 * 0x200000 + 0x200000 : Nat) : Int))]
    else []
  let list := [(((cAux t).toNat : Int), ((cAux t).toNat + 4 * cCount t 0 : Int))]
  let rows := cRows t != 0
  flag ++ match op with
  | 0x08 | 0x0A | 0x0D => []
  | 0x0B => elem o (cOff t) ++ if cNoret t then [] else [((cDaddr t : Int), (cDaddr t + 8 : Int))]
  | 0x05 => if rows then addr (cDaddr t) (cDs t) else []
  | 0x06 => list ++ if rows then
      (if cSobj t then (if o.any fun o => o.kind == 2 then window 0 else []) else window (cSaddr t)) ++ addr (cDaddr t) (cDs t) else []
  | 0x07 => list ++ if rows then
      addr (cSaddr t) (cSs t) ++ (if cDobj t then (if o.any fun o => o.kind == 2 then window 0 else []) else window (cDaddr t)) else []
  | 0x0C => ((cDaddr t : Int), (cDaddr t + 4 : Int)) :: if rows then addr (cSaddr t) (cSs t) else []
  | _ => if rows then
      (if cSobj t then obj (cSs t) else addr (cSaddr t) (cSs t)) ++ (if cDobj t then obj (cDs t) else addr (cDaddr t) (cDs t))
    else []

/-! ## Commands -/

/-- Flagged writes, CFLAG and CATOM: what CSYNC's release waits for (R283). -/
def cReleased (t : TemplateBits) : Bool := [4, 7, 0x0A, 0x0B].contains (cOp t)

/-- A command of a copy queue that a release by command `c` still waits for: queued before it, and not acknowledged. -/
def Ctx.copyPending (x : Ctx) (q : Queue) (c : Cmd) : Bool :=
  x.queues[q.num].any fun d => d.order < c.order && cReleased d.bits && d.phase != .done

/-- A command that would seal an axis is not started while the release that its seal makes is not satisfied (R180, R307, R311). -/
def State.sealHeld (s : State) (w : Who) (c : Cmd) : Bool :=
  let t := c.bits
  (cOp t == 3 || cOp t == 6) && cSobj t &&
    (s.objOf (s.ctxOf w) (cObj t)).any fun o =>
      let go := o.unmet (cView t)
      !go.isEmpty && s.sealWaits w c (go.any fun a => 2 ≤ o.axisSize a)

/-- What a command reads or writes by address as it starts: its index list, and the rows of CSUM with its result. -/
def startSides (c : Cmd) : List (Int × Nat) :=
  let t := c.bits
  match cOp t with
  | 0x06 | 0x07 => [(((cAux t).toNat : Int), 4 * cCount t 0)]
  | 0x0C => ((cDaddr t : Int), 4) :: (List.range (cRows t)).map fun k => (cSaddr t + srcOff c k, cLen t)
  | _ => []

/-- A line lease of another context stands before what a command accesses as it starts (R176). -/
def State.startBehind (s : State) (w : Who) (c : Cmd) : Bool :=
  !s.lineq.isEmpty && (s.cmdBehind w c ((startSides c).flatMap fun e => s.overlapParts w e.1 e.2)).isSome

/-- Whether a command is held in its queue (R33, R176, R180). -/
def State.copyHeld (s : State) (w : Who) (_ : Queue) (c : Cmd) : Bool :=
  let x := s.ctxOf w
  s.heldBy w c (copyRefs (if cUsesObj c.bits then s.objOf x (cObj c.bits) else none) (s.objOf x (cFlagObj c.bits)) c.bits)
    || s.sealHeld w c || s.startBehind w c

/-- A copy command of one operation, or one whose code is unassigned. -/
def State.startCopy (s : State) (w : Who) (q : CopyQueue) (op : Nat) : State :=
  s.startCmd w q.queue (fun k => k == op || k == 0 || decide (0x0D < k)) s.copyHeld (s.copyChecks q.queue)
    (fun s _ c => s.copyBody w c)

def execCpy (who : Who) (q : CopyQueue) (s : State) : Out := .next (s.startCopy who q 0x01)
def execCpym (who : Who) (q : CopyQueue) (s : State) : Out := .next (s.startCopy who q 0x02)
def execCget (who : Who) (q : CopyQueue) (s : State) : Out := .next (s.startCopy who q 0x03)
def execCwr (who : Who) (q : CopyQueue) (s : State) : Out := .next (s.startCopy who q 0x04)
def execCfill (who : Who) (q : CopyQueue) (s : State) : Out := .next (s.startCopy who q 0x05)
def execCgath (who : Who) (q : CopyQueue) (s : State) : Out := .next (s.startCopy who q 0x06)
def execCscat (who : Who) (q : CopyQueue) (s : State) : Out := .next (s.startCopy who q 0x07)
def execCpref (who : Who) (q : CopyQueue) (s : State) : Out := .next (s.startCopy who q 0x08)
def execCflag (who : Who) (q : CopyQueue) (s : State) : Out := .next (s.startCopy who q 0x0A)
def execCatom (who : Who) (q : CopyQueue) (s : State) : Out := .next (s.startCopy who q 0x0B)
def execCsum (who : Who) (q : CopyQueue) (s : State) : Out := .next (s.startCopy who q 0x0C)

/-- A running CSYNC whose wait is over: it heads its queue and, with SYSR, nothing that the context queued before it on either
copy queue is unacknowledged (R283). -/
def State.syncDone (s : State) (w : Who) (q : CopyQueue) : Bool :=
  let x := s.ctxOf w
  match x.queues[q.queue.num] with
  | c :: _ =>
    cOp c.bits == 0x0D && c.phase == .running &&
      (!cSysr c.bits || !(x.copyPending .ldq c || x.copyPending .stq c || s.releaseHeld w))
  | [] => false

/-- CSYNC starts, or finds its wait over. -/
def execCsync (who : Who) (q : CopyQueue) (s : State) : Out :=
  .next (if s.syncDone who q then s.doneCmd who q.queue 0 0 0 else s.startCopy who q 0x0D)

/-! ## CRED (R281) -/

/-- Group rank of a member of a mask (R48). -/
def groupRankOf (m : Word) (r : Nat) : Nat := ((List.range r).filter fun j => m.getLsbD j).length

/-- The next command is a CRED of a member that would fail its start checks: it joins nevertheless. -/
def State.credFails (s : State) (w : Who) (q : CopyQueue) : Option (Byte × Nat) :=
  let x := s.ctxOf w
  match x.nextCmd q.queue with
  | none => none
  | some (_, c) =>
    if cOp c.bits != 0x09 || s.nextQueue w.core .copy s.copyHeld (fun _ => true) != some (w.ctx, q.queue)
        || !(s.groupMask x (cGroup c.bits)).getLsbD x.rank then none
    else match s.copyChecks q.queue x c with
      | .ok _ => none
      | .error _ => some (cGroup c.bits, c.link)

/-- The fault of a CRED that failed its start checks is kept for its join. -/
def State.joinFailed (s : State) (w : Who) (g : Byte) (n : Nat) : State :=
  let x := s.ctxOf w
  match x.team with
  | some id => s.modTeam id fun t => { t with credFaults := (g, n, groupRankOf (s.groupMask x g) x.rank) :: t.credFaults }
  | none => s

def execCred (who : Who) (q : CopyQueue) (s : State) : Out :=
  match s.credFails who q with
  | some e => .next ((s.joinFailed who e.1 e.2).startCopy who q 0x09)
  | none => .next (s.startCopy who q 0x09)

/-- A joined CRED: who issued it, its queue, and the command. -/
structure Joined where
  who : Who
  rank : Nat
  q : CopyQueue
  cmd : Cmd
  deriving DecidableEq, Repr

/-- Running CREDs of a team on a group, in ascending rank; an ended member's started CRED still takes part. -/
def State.joinedCreds (s : State) (team : Nat) (g : Byte) : List Joined :=
  let ws := allWho.filter fun w => (s.ctxOf w).team == some team
  (List.range 64).flatMap fun r => (ws.filter fun w => (s.ctxOf w).rank == r).flatMap fun w =>
    [CopyQueue.ldq, CopyQueue.stq].flatMap fun q => ((s.ctxOf w).queues[q.queue.num].filter fun c =>
      c.phase == .running && cOp c.bits == 0x09 && cGroup c.bits == g).map fun c => ⟨w, r, q, c⟩

/-- The first field in which two joined commands disagree (R281). -/
def credDiffers (a b : TemplateBits) : Option Nat :=
  if bitsAt (tF a 0) 11 3 != bitsAt (tF b 0) 11 3 then some 0
  else if cFmt a != cFmt b then some 3
  else [12, 13, 14, 15].find? fun k => tF a k != tF b k

/-- Index of a joined CRED in its queue. -/
def State.joinedAt (s : State) (j : Joined) : Option Nat :=
  (s.ctxOf j.who).queues[j.q.queue.num].findIdx? fun c => c.order == j.cmd.order

/-- A joined CRED faults. -/
def State.failJoined (s : State) (j : Joined) (t : Trap) : State :=
  match s.joinedAt j with
  | some k => s.failCmd j.who j.q.queue k j.cmd t 0
  | none => s

/-- The contribution of a member: its source rows. -/
def State.contribution (s : State) (j : Joined) : Except Trap (State × List Byte) := s.sumRows j.who j.cmd (cRows j.cmd.bits) 0

/-- Every member's contribution, or its fault, in rank order. -/
def State.contributions (s : State) : List Joined → State × List (Joined × Except Trap (List Byte))
  | [] => (s, [])
  | j :: js =>
    match s.contribution j with
    | .ok (s1, bs) =>
      let r := s1.contributions js
      (r.1, (j, .ok bs) :: r.2)
    | .error t =>
      let r := s.contributions js
      (r.1, (j, .error t) :: r.2)

/-- Format of CRED's elements. -/
def credFp (fmt : Nat) : Fp := if fmt == 0x81 then .bf16 else if fmt == 0x82 then .fp16 else .fp32

/-- tree_reduce over contributions under R86: widened to FP32, each node rounded by RNE, the result converted once. -/
def reduceElems (fmt rop : Nat) (vs : List Nat) : Nat :=
  let op : RedOp := if rop == 0 then .sum else if rop == 1 then .max else .min
  if fmt == 0xA2 then (treeReduce Env.rne true op vs).1
  else
    let f := credFp fmt
    let isNan := fun c => match f.decode c with
      | .nan _ => true
      | _ => false
    if rop != 0 && vs.any isNan then f.cnan
    else
      let r := (treeReduce Env.rne false op (vs.map fun c => (Fp.fp32.convert Env.rne (f.decode c)).1)).1
      (f.convert Env.rne (Fp.fp32.decode r)).1

/-- The reduced bytes of equal-length contributions. -/
def reduceBytes (fmt rop : Nat) (cs : List (List Byte)) : List Byte :=
  let w := credWidth fmt / 8
  let n := ((cs.headD []).length) / w
  (List.range n).flatMap fun k => leBytes w (reduceElems fmt rop (cs.map fun c => leNat ((c.drop (w * k)).take w)))

/-- The result's rows are written at one member and credited there; a row that fails faults that member's command. -/
def State.resultRows (s : State) (j : Joined) (res : List Byte) : Nat → Nat → State
  | 0, _ => match s.joinedAt j with
    | some i => s.doneCmd j.who j.q.queue i 0 0
    | none => s
  | n + 1, k =>
    let t := j.cmd.bits
    match s.sideAt j.who (cDaddr t + dstOff j.cmd k) (cLen t) .write with
    | (s1, .error z) => s1.failJoined j z
    | (s1, .ok ps) =>
      match s1.detectParts j.who j.cmd ps true with
      | .error z => s1.failJoined j z
      | .ok s2 =>
        ((s2.putParts j.who ps ((res.drop (k * cLen t)).take (cLen t))).rowCredited j.cmd j.who.core (cLen t)).resultRows
          j res n (k + 1)

/-- Every member whose CRED has joined, by group rank, with the outcome of its start and of its source rows. -/
def State.joinCreds (s : State) (m : Word) (early : List Nat) (js : List Joined) : State :=
  match js with
  | [] => s
  | j0 :: _ =>
    match js.findSome? fun j => credDiffers j0.cmd.bits j.cmd.bits with
    | some f => js.foldl (fun s j => s.failJoined j (badFld f)) s
    | none =>
      let (s1, cs) := s.contributions js
      let late := cs.filterMap fun c => match c.2 with
        | .error _ => some (groupRankOf m c.1.rank)
        | .ok _ => none
      match early ++ late with
      | [] =>
        let res := reduceBytes (cFmt j0.cmd.bits) (cRop j0.cmd.bits) (cs.filterMap fun c => c.2.toOption)
        js.foldl (fun s j =>
          if cRoot j.cmd.bits && j.rank != cRootRank j.cmd.bits then s.resultRows j res 0 0
          else s.resultRows j res (cRows j.cmd.bits) 0) s1
      | r :: rs =>
        let low := rs.foldl Nat.min r
        cs.foldl (fun s c => s.failJoined c.1 (match c.2 with
          | .error t => t
          | .ok _ => engTrap Sub.joinflt low)) s1

/-- What a joined CRED reads and writes by address. -/
def credSides (c : Cmd) : List (Int × Nat) :=
  (List.range (cRows c.bits)).flatMap fun k =>
    [(cSaddr c.bits + srcOff c k, cLen c.bits), (cDaddr c.bits + dstOff c k, cLen c.bits)]

/-- A line lease of another context stands before an access of joined CREDs (R176). -/
def State.credBehind (s : State) (js : List Joined) : Bool :=
  !s.lineq.isEmpty && js.any fun j => (s.cmdBehind j.who j.cmd ((credSides j.cmd).flatMap fun e => s.overlapParts j.who e.1 e.2)).isSome

/-- CRED_JOIN_COMPLETE: every member of the group that has not left has issued its k-th CRED on it. -/
def execCredJoinComplete (team : Nat) (g : BitVec 8) (s : State) : Out :=
  match s.teamAt team with
  | none => .next s
  | some t =>
    let all := s.joinedCreds team g
    match all with
    | [] => .next s
    | j0 :: _ =>
      let k := all.foldl (fun n j => Nat.min n j.cmd.link) j0.cmd.link
      let js := all.filter fun j => j.cmd.link == k
      let m := ((s.launchAt t.launch).bind fun l => (l.groups.find? fun e => e.1 == g).map (·.2)).getD 0
      let early := (t.credFaults.filter fun f => f.1 == g && f.2.1 == k).map (·.2.2)
      let here := fun r => js.any fun j => j.rank == r
      if !s.credBehind js && (ranksOf m).all fun r => here r || t.hasLeft r || early.contains (groupRankOf m r) then
        .next (s.joinCreds m early js)
      else .next s

/-! ## Landing -/

/-- A running command that a landing event can carry on: its rows, its flag add, or its atomic. -/
def Cmd.lands (c : Cmd) : Bool :=
  c.phase == .running && c.conv.isEmpty && cOp c.bits != 0x09 && cOp c.bits != 0x0D

/-- A row's wait of a command: none for one that has not been tried. -/
def Cmd.waitOf (c : Cmd) (row : Nat) : Option RowWait := c.waits.find? fun e => e.row == row

/-- Receiver-not-ready: the row waits in the replay queue for another attempt after the captured back-off, or the command faults
with POOLRNR.  With all 16 entries of the context's replay queue taken, the answer to a row that has none waits (R186, R255,
R277, R278, log 30). -/
def State.copyRnr (s : State) (w : Who) (q : Queue) (k : Nat) (c : Cmd) (row : Nat) (writes : List (ElemRef × Nat)) (t : Trap) : State :=
  let n := ((c.waitOf row).map (·.attempts)).getD 0
  if cBkLim c.bits ≤ n then s.failCmd w q k c t 0
  else if n == 0 && 16 ≤ s.replayCount w then s
  else
    let e : RowWait := { row := row, attempts := n + 1, due := s.gtc.toNat + backOff (cBkOff c.bits) n, writes := writes }
    s.modCmd w q k fun d =>
      if (d.waitOf row).isSome then { d with waits := d.waits.map fun f => if f.row == row then e else f }
      else { d with row := Nat.max d.row (row + 1), waits := d.waits ++ [e] }

/-- POOLRNR about a row's element. -/
def rowRnrTrap (c : Cmd) (row : Nat) (flag : Bool) : Trap :=
  let t := c.bits
  if flag then engFar .poolrnr (cFlagObj t) (cFlagOff t) 0
  else engFar .poolrnr (cObj t) (cOff t + if cDobj t then dstOff c row else srcOff c row) 0

/-- What a row writes of an object (R370). -/
def State.rowWrites (s : State) (c : Cmd) (o : Option Obj) (k : Nat) : List (ElemRef × Nat) :=
  match o with
  | some d =>
    if !cDobj c.bits then []
    else
      let e := (cOff c.bits + dstOff c k).toNat
      let r := s.elemRef d e
      (r, cLen c.bits) :: if d.scaled then [({ r with addr := d.scaleOf e }, 4 * rowBlocks c.bits o)] else []
  | none => []

/-- Pages of a row's object side, and the bytes that it writes by address. -/
def rowFoot (c : Cmd) (o : Option Obj) (k : Nat) : List Nat × List (Int × Nat) :=
  let t := c.bits
  let pages := fun (off : Int) => match o with
    | some d => rowPages d (cOff t + off).toNat (cLen t) (rowBlocks t o)
    | none => []
  let src := if cSobj t && !(negRow c k && cOp t == 6) then pages (srcOff c k) else []
  let dst := if cDobj t then (pages (dstOff c k), []) else ([], [((cDaddr t : Int) + dstOff c k, cLen t)])
  (src ++ dst.1, dst.2)

/-- A later row waits behind one of the replay queue: it touches a page of that row's object, whose rows become visible in nest
order, or bytes that that row writes by address (R276 to R278). -/
def rowsClash (c : Cmd) (o : Option Obj) (a b : Nat) : Bool :=
  let f := rowFoot c o a
  let g := rowFoot c o b
  f.1.any g.1.contains || f.2.any fun x => g.2.any fun y => x.1 < y.1 + y.2 && y.1 < x.1 + x.2

/-- What a landing event does with a command's rows: it tries one, or puts one behind another. -/
inductive RowPick
  | tryRow (k : Nat)
  | park (k : Nat)
  | finish
  deriving DecidableEq, Repr

/-- The first row of the replay queue that may be tried: its back-off is over, or it waited behind a row that has landed. -/
def firstReady (c : Cmd) (o : Option Obj) (gtc : Nat) : List RowWait → List RowWait → Option Nat
  | _, [] => none
  | before, e :: rest =>
    if (if e.attempts == 0 then !before.any fun f => rowsClash c o f.row e.row else decide (e.due ≤ gtc)) then some e.row
    else firstReady c o gtc (before ++ [e]) rest

/-- The row that a landing event takes: one that waits, when it may be tried, else the next one; the flag add follows when every
row has landed (R276, R277, R278). -/
def Cmd.pick (c : Cmd) (o : Option Obj) (gtc : Nat) : Option RowPick :=
  match firstReady c o gtc [] c.waits with
  | some k => some (if k < cRows c.bits then .tryRow k else .finish)
  | none =>
    if c.row < cRows c.bits then some (if c.waits.any fun e => rowsClash c o e.row c.row then .park c.row else .tryRow c.row)
    else if c.waits.isEmpty then some .finish else none

/-- A row has landed. -/
def Cmd.landed (c : Cmd) (k : Nat) : Cmd :=
  let d := { c with row := Nat.max c.row (k + 1), waits := c.waits.filter fun e => e.row != k }
  { d with phase := if d.row == cRows c.bits && d.waits.isEmpty && !cFlagged c.bits then .done else .running }

/-- The next row lands, or the flag add follows the last one (R278, R279). -/
def State.landNext (s : State) (w : Who) (q : Queue) (k : Nat) (c : Cmd) (reply : RowReply) : State :=
  let t := c.bits
  let x := s.ctxOf w
  let o := if cUsesObj t then s.objOf x (cObj t) else none
  match c.pick o s.gtc.toNat with
  | none => s
  | some (.park r) => s.modCmd w q k fun d => { d with
      row := d.row + 1, waits := d.waits ++ [{ row := r, attempts := 0, due := 0, writes := s.rowWrites c o r }] }
  | some (.tryRow r) =>
    (match s.landRow w q c o r reply with
    | .ok s1 _ => s1.modCmd w q k fun d => d.landed r
    | .wait s1 => s1
    | .rnr s1 => s1.copyRnr w q k c r (s.rowWrites c o r) (rowRnrTrap c r false)
    | .fault s1 z => s1.failCmd w q k c z 0)
  | some .finish =>
    if !cFlagged t then s.doneCmd w q k 0 0
    else match s.flagAdd w q c (cRows t) 1 reply with
      | .ok s1 _ => s1.doneCmd w q k 0 0
      | .wait s1 => s1
      | .rnr s1 => s1.copyRnr w q k c (cRows t) ((s.flagRef x t).map fun f => (f.2, 8)).toList (rowRnrTrap c 0 true)
      | .fault s1 z => s1.failCmd w q k c z 0

/-- A command with one request, CFLAG or CATOM, waits in the replay queue for its next attempt. -/
def Cmd.backing (c : Cmd) (gtc : Nat) : Bool := c.waits.any fun e => gtc < e.due

/-- CFLAG after every earlier command of its queue (R283). -/
def State.landFlag (s : State) (w : Who) (q : Queue) (k : Nat) (c : Cmd) (reply : RowReply) : State :=
  if c.backing s.gtc.toNat || ((s.ctxOf w).queues[q.num].take k).any fun d => d.phase != .done then s
  else
    match s.flagAdd w q c 0 (cAux c.bits) reply with
    | .ok s1 _ => s1.doneCmd w q k 0 0
    | .wait s1 => s1
    | .rnr s1 => s1.copyRnr w q k c 0 ((s.flagRef (s.ctxOf w) c.bits).map fun f => (f.2, 8)).toList (rowRnrTrap c 0 true)
    | .fault s1 z => s1.failCmd w q k c z 0

/-- The operation that CATOM's AOP names (R113, R272). -/
def cAop (t : TemplateBits) : AtomOp := match bitsAt (tF t 3) 8 3 with
  | 0 => .add | 1 => .min | 2 => .max | 3 => .and | 4 => .or | 5 => .xor | 6 => .swap | _ => .cas

/-- The old value goes to DADDR, an access that detection checks, and CATOM is done (R283, R319). -/
def State.catomDone (s : State) (w : Who) (q : Queue) (k : Nat) (c : Cmd) (old : Word) : State :=
  if cNoret c.bits then s.doneCmd w q k 0 0
  else
    match s.portPlace w anyPort true (cDaddr c.bits) 8 with
    | .ok p =>
      match s.portDetect w c (cDaddr c.bits) 8 true false with
      | .ok s1 => (s1.portWrite w p (leBytes 8 old.toNat)).doneCmd w q k 8 0
      | .error t => s.failCmd w q k c t 0
    | .error e => s.failCmd w q k c (badAddr e) 0

/-- CATOM waits for its back-off, and for the release that its order makes: the PSTs, CWRs and flag adds that its context made or
queued before it, and the replay queue (R283, R307). -/
def State.atomHeld (s : State) (w : Who) (q : Queue) (k : Nat) (c : Cmd) : Bool :=
  let x := s.ctxOf w
  c.backing s.gtc.toNat || s.releaseHeld w && !c.waits.any (fun e => e.attempts != 0) || x.copiesBefore c
    || (x.queues[q.num].take k).any fun d => cReleased d.bits && d.phase != .done

/-- CATOM at its home (R283, R190, R307). -/
def State.landAtom (s : State) (w : Who) (q : Queue) (k : Nat) (c : Cmd) (reply : RowReply) : State :=
  let t := c.bits
  let x := s.ctxOf w
  match s.objOf x (cObj t) with
  | none => s.failCmd w q k c (cHandle Sub.noent (cObj t) 0) 0
  | some o =>
    let e := cOff t
    let r := s.elemRef o e
    let n := if o.fmt.toNat == 0xA2 then 4 else 8
    let cmpv : Word := BitVec.ofNat 64 (tN t 12 4)
    if s.atomHeld w q k c && (s.rowReq w q c 0).isNone then s
    else if s.servesRef r then
      match s.cmdBehind w c (s.refPlaces w.core x.slot r n), if r.scratch then (s.sideAt w r.addr n .both).2 else .ok [] with
      | some l, _ => s.cmdQueues w c l
      | none, .error z => s.failCmd w q k c z 0
      | none, .ok _ =>
        let v := (s.cmdLeaves w c).serveAtomic w.core x.slot s.ownNode r (cAop t) n (cAux t) cmpv
        match v.2 with
        | .data old _ => v.1.catomDone w q k c old
        | .rnr => v.1.copyRnr w q k c 0 [(r, n)] (engFar .poolrnr (cObj t) e 0)
        | .fault f => v.1.failCmd w q k c (engFar f (cObj t) e r.addr) 0
        | _ => v.1
    else
      match s.rowTrip w q c 0 (cObj t) e r (.rowAtom (cAop t) (n == 8) (cAux t) cmpv) (fun s => .ok (s.writesAhead r n))
          (fun d _ => d.length == n) reply with
      | .ok s1 (_, bs, _) =>
        let old := BitVec.ofNat 64 (leNat bs)
        let new := (atomNew (cAop t) n old (cAux t) cmpv).getD old
        (s1.copyRef r (leBytes n new.toNat)).catomDone w q k c old
      | .wait s1 => s1
      | .rnr s1 => s1.copyRnr w q k c 0 [(r, n)] (engFar .poolrnr (cObj t) e 0)
      | .fault s1 z => s1.failCmd w q k c z 0

/-- COPY_ROW_LANDING: one of the queue's running commands, whose rows may land in any order among theirs (R253, R276, log 9), goes
on: its next row lands, its flag add, or its atomic. -/
def execCopyRowLanding (who : Who) (q : CopyQueue) (answer : RowAnswer) (s : State) : Out :=
  match (((s.ctxOf who).queues[q.queue.num].mapIdx fun k c => (k, c)).filter fun e => e.2.lands)[answer.nth]? with
  | none => .next s
  | some (k, c) =>
    match cOp c.bits with
    | 0x0A => .next (s.landFlag who q.queue k c answer.reply)
    | 0x0B => .next (s.landAtom who q.queue k c answer.reply)
    | _ => .next (s.landNext who q.queue k c answer.reply)

/-! ## Fills (R369) -/

/-- A row of a running copy command reads a pool page. -/
def State.rowOnPage (s : State) (w : Who) (c : Cmd) (row : Nat) (poolid : Word) (page : Nat) : Bool :=
  let t := c.bits
  c.lands && cSobj t && cOp t != 0x08 && decide (row < cRows t) && !negRow c row &&
    (s.objOf (s.ctxOf w) (cObj t)).any fun o => o.kind == 0 && o.poolid == poolid &&
      (rowPages o (cOff t + srcOff c row).toNat (cLen t) (rowBlocks t (some o))).contains page

/-- The rows of a command that wait for a page: the one to be tried next, and those of the replay queue; with whether their
back-off is over. -/
def State.rowsFor (s : State) (w : Who) (c : Cmd) (poolid : Word) (page : Nat) : List (Nat × Bool) :=
  let t := c.bits
  let o := if cUsesObj t then s.objOf (s.ctxOf w) (cObj t) else none
  let next := match c.pick o s.gtc.toNat with
    | some (.tryRow k) => [(k, true)]
    | _ => []
  let later := (c.waits.filter fun e => e.attempts != 0 && decide (s.gtc.toNat < e.due)).map fun e => (e.row, false)
  (next ++ later).filter fun e => s.rowOnPage w c e.1 poolid page

/-- Rows of copy commands that wait for a page: context, queue, command, row, and whether its back-off is over. -/
def State.fillRows (s : State) (poolid : Word) (page : Nat) : List (Who × Queue × Cmd × Nat × Bool) :=
  allWho.flatMap fun w => [Queue.ldq, Queue.stq].flatMap fun q =>
    ((s.ctxOf w).queues[q.num].filter Cmd.lands).flatMap fun c =>
      ((s.rowsFor w c poolid page).filter fun e => (s.rowReq w q c e.1).isNone).map fun e => (w, q, c, e.1, e.2)

/-- Index of a command in its queue, by its issue order. -/
def State.cmdAt (s : State) (w : Who) (q : Queue) (c : Cmd) : Option Nat :=
  (s.ctxOf w).queues[q.num].findIdx? fun d => d.order == c.order

/-- The reads that wait for a page fault (R369). -/
def State.failFill (s : State) (poolid : Word) (page : Nat) (f : FarFault) : State :=
  let rows := s.fillRows poolid page
  let s1 := (s.fillReqs poolid page).foldl (fun s r => s.failReq r f) s
  rows.foldl (fun s e =>
    match s.cmdAt e.1 e.2.1 e.2.2.1 with
    | some k => s.failCmd e.1 e.2.1 k e.2.2.1
        (engFar f (cObj e.2.2.1.bits) (cOff e.2.2.1.bits + srcOff e.2.2.1 e.2.2.2.1) (65536 * page)) 0
    | none => s) s1

/-- A PLD's wait in the replay queue is over. -/
def Req.ready (r : Req) (gtc : Nat) : Bool := match r.due with
  | some d => decide (d ≤ gtc)
  | none => true

/-- One more attempt at a fill for each read whose back-off is over; one whose attempts are spent faults with POOLRNR (R186,
R369). -/
def State.retryFill (s : State) (poolid : Word) (page : Nat) : State :=
  let rows := (s.fillRows poolid page).filter fun e => e.2.2.2.2
  let s1 := ((s.fillReqs poolid page).filter fun r => r.ready s.gtc.toNat).foldl State.retryReq s
  rows.foldl (fun s e =>
    match s.cmdAt e.1 e.2.1 e.2.2.1 with
    | some k => s.copyRnr e.1 e.2.1 k e.2.2.1 e.2.2.2.1 [] (rowRnrTrap e.2.2.1 e.2.2.2.1 false)
    | none => s) s1

/-- Contributions of conversions that wait for a page of their pool piece (R369, R423). -/
def State.fillConvs (s : State) (poolid : Word) (page : Nat) : List ConvKey :=
  (s.convs.filter fun c =>
    match (s.launchAt c.launch).bind fun l => l.obj c.obj with
    | none => false
    | some o =>
      let ranges := if c.ending.isSome then (c.neededRuns o).1.flatMap o.runEdges else if c.sealed && !c.sent then c.readRanges o else []
      o.kind == 0 && o.poolid == poolid && ranges.any fun r => (pageParts r.1 r.2).any fun p => p.1 / 65536 == page).map (·.key)

/-- A fetch's wait for another attempt is over. -/
def Fetch.ready (f : Fetch) (gtc : Nat) : Bool := f.due.all fun d => decide (d ≤ gtc)

/-- The page is asked for: a reader whose back-off is over waits for it, or none does (R186). -/
def State.fillAsked (s : State) (poolid : Word) (c : CachePage) : Bool :=
  let rows := s.fillRows poolid c.page
  let reqs := s.fillReqs poolid c.page
  let convs := s.fillConvs poolid c.page
  rows.isEmpty && reqs.isEmpty && convs.isEmpty || rows.any (fun e => e.2.2.2.2) || (reqs.any fun r => r.ready s.gtc.toNat)
    || !convs.isEmpty && c.fetch.all fun f => f.ready s.gtc.toNat

/-- The placement engine's own attempt at a fill is answered receiver-not-ready: another follows, or the contributions that wait
for the page fail (R186, R423, log 59). -/
def State.retryConvs (s : State) (poolid : Word) (c : CachePage) : State :=
  let keys := s.fillConvs poolid c.page
  match c.fetch with
  | none => s
  | some f =>
    if keys.isEmpty || !f.ready s.gtc.toNat then s
    else if Config.convBklim ≤ f.attempts then keys.foldl (fun s k => (s.losePiece k).finishConv k) s
    else s.setPage { c with fetch := some { f with
      attempts := f.attempts + 1, due := some (s.gtc.toNat + backOff Config.convBkoff f.attempts) } }

/-- A fill ends with a fault: the reads that wait for the page fault, and the contributions fail. -/
def State.failPage (s : State) (poolid : Word) (page : Nat) (f : FarFault) : State :=
  (s.fillConvs poolid page).foldl (fun s k => (s.losePiece k).finishConv k) ((s.failFill poolid page f).dropPage poolid page)

/-- POOL_CACHE_FILL: a fill is answered.  The page becomes VALID with the writes acknowledged meanwhile, or INVALID; the
reads that wait are served, tried again, or fault.  A fill that has not been sent yet goes out first (R405, R412). -/
def execPoolCacheFill (poolid : Word) (page : Nat) (answer : PageAnswer) (s : State) : Out :=
  match s.cachePage poolid page with
  | none => .next s
  | some c =>
    match c.state with
    | .filling l =>
      if !c.fetch.any (·.sent) || !s.fillAsked poolid c then .next s
      else match answer with
        | .page bs _ =>
          let cells := l.foldl PageWrite.on (pageCells bs)
          let s1 := s.serveFill poolid page cells
          if s.leaseCurrent (.pool poolid) then
            .next (s1.setPage { c with state := .valid, data := cells, fetch := none }).contributeOn.pumpOn
          else .next (s1.dropPage poolid page).contributeOn.pumpOn
        | .rnr =>
          let s1 := (s.retryFill poolid page).retryConvs poolid c
          if (s1.fillReqs poolid page).isEmpty && (s1.fillRows poolid page).isEmpty && (s1.fillConvs poolid page).isEmpty then
            .next (s1.dropPage poolid page).pumpOn
          else .next s1
        | .fault f => .next (s.failPage poolid page f).pumpOn
    | _ => .next s

/-! ## Replay (R284) -/

/-- Source and destination bytes of a command, by place. -/
def State.copyBytesOf (s : State) (w : Who) (c : Cmd) : List (Nat × Nat) × List (Nat × Nat) :=
  let t := c.bits
  let o := if cUsesObj t then s.objOf (s.ctxOf w) (cObj t) else none
  let addr := fun (base : Nat) (off : Int) => s.overlapParts w (base + off) (cLen t) ++
    if rowScaled o then s.overlapParts w (cSscl t + 4 * (off / blockBytes o)) (4 * rowBlocks t o) else []
  let obj := fun (e : Int) => match o with
    | some d =>
      if d.kind == 0 || !s.isOwn (s.homeOf d) then []
      else s.overlapParts w (d.byteOf e.toNat) (cLen t) ++
        if d.scaled then s.overlapParts w (d.scaleOf e.toNat) (4 * rowBlocks t o) else []
    | none => []
  let rows := List.range (cRows t)
  let src := rows.flatMap fun k =>
    if cOp t == 5 || negRow c k then [] else if cSobj t then obj (cOff t + srcOff c k) else addr (cSaddr t) (srcOff c k)
  let idx := if cOp t == 6 then s.overlapParts w (cAux t).toNat (4 * cCount t 0) else []
  let dst := match cOp t with
    | 0x08 => []
    | 0x0C => s.overlapParts w (cDaddr t) 4
    | 0x02 => rows.flatMap fun k => c.cores.map fun d => (scratchPlace d (addr64 (cDaddr t + dstOff c k)), cLen t)
    | _ => rows.flatMap fun k => addr (cDaddr t) (dstOff c k)
  (src ++ idx, dst)

/-- A command as it would start now, for what is fixed at its start: the cores of CPYM and the index list of CGATH. -/
def State.asStarted (s : State) (w : Who) (c : Cmd) : Cmd :=
  if c.phase != .queued then c
  else if cOp c.bits == 2 then { c with cores := s.groupCores (s.ctxOf w) (cGroup c.bits) }
  else match s.readIndices w c with
    | .ok (_, l) => { c with idx := l }
    | .error _ => c

/-- A replayable copy command (R284). -/
def State.replayable (s : State) (w : Who) (c : Cmd) : Bool :=
  let p := s.copyBytesOf w (s.asStarted w c)
  [1, 2, 3, 5, 6, 8, 12].contains (cOp c.bits) &&
    !(p.1.any fun a => p.2.any fun b => a.1 < b.1 + b.2 && b.1 < a.1 + a.2)

/-- An address in a cluster peer's window. -/
def inPeerWindow (a : Int) : Bool := 0x01000000 ≤ a && a < 0x02000000

/-- A side in a cluster-peer window (R395). -/
def State.peerSide (s : State) (w : Who) (c0 : Cmd) : Bool :=
  let c := s.asStarted w c0
  let t := c.bits
  let op := cOp t
  let o := if cUsesObj t then s.objOf (s.ctxOf w) (cObj t) else none
  let scales := rowScaled o && inPeerWindow (cSscl t)
  (List.range (cRows t)).any fun k =>
    (!cSobj t && op != 5 && inPeerWindow (cSaddr t + srcOff c k)) ||
      (!cDobj t && op != 8 && op != 2 && inPeerWindow (cDaddr t + (if op == 0x0C then 0 else dstOff c k))) || scales

end Sys2Proof.Machine
end

