-- ==== Sys2Proof/Machine/Network.lean ====
section
/-! DEFINITION. The network and fabric engine (R285 to R290), the reduction slots (R419, R420), the Ethernet port
(R428 to R431), and the answers to remote requests (R186, R385). -/

namespace Sys2Proof.Machine

/-! ## Fields (R285) -/

def nOp (t : TemplateBits) : Nat := bitsAt (tF t 0) 0 8
def nDec (t : TemplateBits) : Bool := bitAt (tF t 0) 9
def nCen (t : TemplateBits) : Bool := bitAt (tF t 0) 10
def nAxm (t : TemplateBits) : BitVec 4 := (tF t 3).extractLsb' 0 4
def nRop (t : TemplateBits) : Nat := bitsAt (tF t 3) 4 2
def nFmt (t : TemplateBits) : Nat := bitsAt (tF t 3) 8 8
def nLaddr (t : TemplateBits) : Nat := tN t 4 4
def nRaddr (t : TemplateBits) : Nat := tN t 8 4
def nLen (t : TemplateBits) : Nat := tN t 12 2
def nEp (t : TemplateBits) : Nat := (tF t 14).toNat
def nPeer (t : TemplateBits) : Nat := tN t 16 4
def nStat (t : TemplateBits) : Nat := tN t 20 4
def nCaddr (t : TemplateBits) : Nat := tN t 24 4
def nObj (t : TemplateBits) : Nat := (tF t 28).toNat
def nView (t : TemplateBits) : BitVec 16 := tF t 29
def nParam (t : TemplateBits) : Nat := tN t 32 4
def nNidx (t : TemplateBits) : Nat := (tF t 36).toNat

/-- TMO in µs; 0 selects 20. -/
def nTmo (t : TemplateBits) : Nat := if tF t 37 == 0 then 20 else (tF t 37).toNat

/-! ## Endpoints (R428) -/

def Endpoint.isOpen (e : Endpoint) : Bool := bitAt e.cfg 0
def Endpoint.wren (e : Endpoint) : Bool := bitAt e.cfg 5

/-- Model slot of an endpoint: its own number for a launch endpoint (R429). -/
def Ether.slotOf (x : Ether) (e : Nat) : Fin 16 :=
  if h : e < 16 then ⟨e, h⟩ else ⟨bitsAt ((x.eps[e]?.map (·.cfg)).getD 0) 1 4 % 16, by omega⟩

/-- The port carries packets. -/
def Ether.live (x : Ether) : Bool := bitAt x.ectl 0 && x.linkUp

def State.modEp (s : State) (e : Nat) (f : Endpoint → Endpoint) : State :=
  match s.ether.eps[e]? with
  | some v => { s with ether := { s.ether with eps := s.ether.eps.setIfInBounds e (f v) } }
  | none => s

/-- An endpoint that a command of a slot may use (R286, R430). -/
def Ether.usable (x : Ether) (slot : Fin 16) (e : Nat) : Bool :=
  decide (16 ≤ e) && (x.eps[e]?.any Endpoint.isOpen) && x.slotOf e == slot

/-- V of a peer table entry (R428). -/
def Ether.peerValid (x : Ether) (i : Nat) : Bool := x.peers.any fun p => p.1 == i && p.2.getLsbD 144

/-! ## Start checks (R256, R285 to R287, R430) -/

def nWidth (fmt : Nat) : Nat := if fmt == 0x81 then 2 else 4

def State.netChecks (_s : State) (x : Ctx) (c : Cmd) : Except Trap Unit :=
  let t := c.bits
  let op := nOp t
  let slot := op == 0x06
  checkAll
    ([(op == 0 || decide (7 < op), engTrap Sub.badop 0)] ++ commonChecks x .nxq c
    ++ [(0, 11, 5), (1, 11, 5), (3, 6, 2), (15, 0, 16)].map (resCheck t)
    ++ (List.range 22).map (fun k => resCheck t (38 + k, 0, 16)) ++ [resCheck t (63, 0, 16)]
    ++ [(decide (0x1000000 < nLen t), badFld 12), (op == 0x04 && nCen t, badFld 0),
        (slot && !(decide (2 ≤ nNidx t) && decide (nNidx t ≤ 64)), badFld 36), (slot && decide (65536 < nLen t), badFld 12),
        (slot && nFmt t != 0xA1 && nFmt t != 0x81, badFld 3), (slot && nLen t % nWidth (nFmt t) != 0, badFld 12),
        ((op == 0x01 || op == 0x03) && decide (4096 ≤ nPeer t), badFld 16)])

/-! ## Addresses (R286) -/

/-- An address side of a network command: local scratch, by the local window or the own member's window of the cluster (R164),
or device global memory. -/
def State.netSide (s : State) (w : Who) (a n : Nat) (need : Need) : State × Except Trap (List Span) :=
  match (addrParts a n).find? fun p => p.1 < 0x0001000000000000 && (windowOf w.core p.1).all fun o => o.1 != w.core with
  | some p => (s, .error (badAddr p.1))
  | none => s.sideAt w a n need

/-- STAT, 8-aligned. -/
def State.statSide (s : State) (w : Who) (t : TemplateBits) (n : Nat) : State × Except Trap (List Span) :=
  if nStat t % 8 != 0 then (s, .error (badAddr (nStat t))) else s.netSide w (nStat t) n .write

/-- CADDR: an 8-aligned local scratch address, where it is used. -/
def State.counterPlace (s : State) (w : Who) (t : TemplateBits) : Except Trap Nat :=
  if nCaddr t % 8 != 0 then .error (badAddr (nCaddr t)) else s.portAddr w anyPort true (nCaddr t) 8

/-- The address checks of a command. -/
def State.netAddrs (s : State) (w : Who) (t : TemplateBits) : Except Trap Unit :=
  let op := nOp t
  let side := fun (r : State × Except Trap (List Span)) => match r.2 with
    | .ok _ => (none : Option Trap)
    | .error e => some e
  let checks : List (Option Trap) :=
    [if [0x01, 0x03, 0x07].contains op then side (s.netSide w (nLaddr t) (nLen t) .read) else none,
     if op == 0x02 then side (s.netSide w (nLaddr t) (nLen t) .write) else none,
     if op == 0x07 then side (s.netSide w (nRaddr t) (nLen t) .write) else none,
     if op == 0x02 || op == 0x07 then side (s.statSide w t 16) else none,
     if op == 0x06 then side (s.statSide w t 8) else none,
     if op == 0x04 || nCen t then (match s.counterPlace w t with
       | .ok _ => none
       | .error e => some e) else none]
  match checks.findSome? id with
  | some e => .error e
  | none => .ok ()

/-- BADEP: the endpoint, and the peer entry (R286, R430). -/
def State.netEnds (s : State) (x : Ctx) (t : TemplateBits) : Except Trap Unit :=
  let op := nOp t
  checkAll
    [([0x01, 0x02, 0x03].contains op && !s.ether.usable x.slot (nEp t), engTrap Sub.badep 14),
     ((op == 0x01 || op == 0x03) && !s.ether.peerValid (nPeer t), engTrap Sub.badep 16)]

/-- Address sides of a command: where each begins, and its bytes. -/
def netSides (t : TemplateBits) : List (Int × Nat) :=
  (if [1, 2, 3, 7].contains (nOp t) then [((nLaddr t : Int), nLen t)] else [])
  ++ (if nOp t == 7 then [((nRaddr t : Int), nLen t)] else [])
  ++ (if [2, 6, 7].contains (nOp t) then [((nStat t : Int), if nOp t == 6 then 8 else 16)] else [])

/-- A line lease of another context stands before a side of a command (R176). -/
def State.netBehind (s : State) (w : Who) (c : Cmd) : Bool :=
  !s.lineq.isEmpty && (s.cmdBehind w c ((netSides c.bits).flatMap fun e => s.overlapParts w e.1 e.2)).isSome

/-- A line lease stands before an access of the Ethernet engine to ranges of places (R176). -/
def State.spansLeased (s : State) (ps : List (Nat × Nat)) : Bool :=
  !s.lineq.isEmpty && (rangeLines ps).any fun l => s.behindLease none none (128 * l)

/-- Byte intervals that a command's accesses could meet (R33). -/
def netRefs (t : TemplateBits) : List (Int × Int) :=
  let iv := fun (a n : Nat) => [((a : Int), (a + n : Int))]
  (if [1, 2, 3, 7].contains (nOp t) then iv (nLaddr t) (nLen t) else [])
  ++ (if nOp t == 7 then iv (nRaddr t) (nLen t) else [])
  ++ (if [2, 6, 7].contains (nOp t) then iv (nStat t) 16 else [])
  ++ (if nOp t == 4 || nCen t then iv (nCaddr t) 8 else [])

/-! ## Packets (R430) -/

/-- Packets of a message; an empty message is one packet. -/
def packetCount (n : Nat) : Nat := Nat.max 1 ((n + 4095) / 4096)

/-- RTO in ns (R428). -/
def State.rto (s : State) : Nat := bitsAt s.ether.rto 0 32

/-- Packet `k` is unacknowledged too long once `n` ns have passed. -/
def Cmd.dueIn (c : Cmd) (s : State) (k n : Nat) : Cmd :=
  { c with dues := (k, s.gtc.toNat + n) :: c.dues.filter fun e => e.1 != k }

def Cmd.dueOf (c : Cmd) (k : Nat) : Nat := ((c.dues.find? fun e => e.1 == k).map (·.2)).getD 0

/-- Number of entropy values: ECTL.SPRAY, 0 read as 256 (R428). -/
def Ether.spray (x : Ether) : Nat := if bitsAt x.ectl 8 8 == 0 then 256 else bitsAt x.ectl 8 8

/-- Sends one packet with the source bytes as they are now, over one of the entropy values (R427, R430). -/
def State.sendPacket (s : State) (w : Who) (c : Cmd) (k : Nat) : State :=
  let t := c.bits
  let n := Nat.min 4096 (nLen t - 4096 * k)
  match s.netSide w (nLaddr t + 4096 * k) n .read with
  | (s1, .error _) => s1
  | (s1, .ok ps) =>
    let r := s1.readParts w c ps
    { r.1 with fresh := r.1.fresh + 1 }.send (.packet w c.order (nPeer t) (Config.entropy r.1.fresh % s.ether.spray) (if nOp t == 3 then some (BitVec.ofNat 32 (nParam t)) else none)
      (BitVec.ofNat 64 (nRaddr t)) (4096 * k) r.2)

/-- The whole source, checked for poison (R165); the network engine is outside detection (R314). -/
def State.netSource (s : State) (w : Who) (c : Cmd) : Except Trap (State × List Byte) :=
  match s.netSide w (nLaddr c.bits) (nLen c.bits) .read with
  | (_, .error e) => .error e
  | (s1, .ok ps) =>
    match s1.partsPoison ps with
    | some t => .error t
    | none => .ok (s1.readParts w c ps)

/-! ## Receives (R288, R430) -/

/-- A receive takes a tag. -/
def takesTag (t : TemplateBits) (tag : Word) : Bool := (tag.toNat ^^^ nRaddr t) &&& nPeer t == 0

/-- Every byte of a message has arrived. -/
def HeldMsg.whole (m : HeldMsg) : Bool :=
  (m.parts.foldl (fun n p => n + p.2.length) 0) == m.total && !m.parts.isEmpty

/-- A message with another packet; a packet that has arrived before changes nothing. -/
def HeldMsg.add (m : HeldMsg) (off : Nat) (d : List Byte) : HeldMsg :=
  if m.parts.any fun p => p.1 == off then m else { m with parts := m.parts ++ [(off, d)] }

/-- One packet's bytes reach the buffer; the excess of a longer message is discarded. -/
def State.placePart (s : State) (w : Who) (c : Cmd) (p : Nat × List Byte) : Except Trap State :=
  let t := c.bits
  let bs := p.2.take (nLen t - p.1)
  if bs.isEmpty then .ok s
  else
    match s.netSide w (nLaddr t + p.1) bs.length .write with
    | (_, .error e) => .error e
    | (s1, .ok ps) => .ok (s1.putParts w ps bs)

def State.placeAll (s : State) (w : Who) (c : Cmd) : List (Nat × List Byte) → Except Trap State
  | [] => .ok s
  | p :: ps =>
    match s.placePart w c p with
    | .error e => .error e
    | .ok s1 => s1.placeAll w c ps

/-- Words written to STAT. -/
def State.putStat (s : State) (w : Who) (t : TemplateBits) (bs : List Byte) : Except Trap State :=
  match s.statSide w t bs.length with
  | (_, .error e) => .error e
  | (s1, .ok ps) => .ok (s1.putParts w ps bs)

/-- The status words of NRECV (R288). -/
def recvStatus (len : Nat) (m : HeldMsg) : List Byte :=
  leBytes 8 (Nat.min m.total len + if len < m.total then 2 ^ 32 else 0) ++ leBytes 8 m.tag.toNat

/-- What a receive comes to once it has a message: its packets are placed; a whole one is written up. -/
inductive Received
  | more (s : State) (m : HeldMsg)
  | whole (s : State) (bytes : Nat)
  | fault (t : Trap)

def State.receivePart (s : State) (w : Who) (c : Cmd) (m : HeldMsg) (ps : List (Nat × List Byte)) : Received :=
  match s.placeAll w c ps with
  | .error e => .fault e
  | .ok s1 =>
    if m.whole then
      match s1.putStat w c.bits (recvStatus (nLen c.bits) m) with
      | .error e => .fault e
      | .ok s2 => .whole s2 (Nat.min m.total (nLen c.bits))
    else .more s1 m

/-! ## Requests to a switch (R419, R420) -/

/-- What XRSLOT asks for; every contributor gets the result (R287, R420). -/
def netWants (t : TemplateBits) : SlotWants :=
  { nidx := nNidx t, rop := nRop t, fmt := nFmt t, len := nLen t, tmo := nTmo t, dest := none }

/-- Station of a slot's plane, if it is live.  An EP above 63 names no plane (R285) and counts as a plane without a live station, so
that XRSLOT faults with ROUTE (DEDUCED, log 45). -/
def State.planeStation (s : State) (k : Nat) : Option (Fin 64) :=
  if h : k < 64 then (if s.stations[(⟨k, h⟩ : Fin 64)].live then some ⟨k, h⟩ else none) else none

/-- A request of a network command to a switch. -/
def State.slotReq (s : State) (w : Who) (c : Cmd) (k : ReqKind) (st : Fin 64) : Req :=
  let x := s.ctxOf w
  { id := s.nextId, who := w, team := x.team, slot := x.slot, obj := 0, elem := 0,
    ref := { key := .pool 0, node := 0, scratch := false, addr := 0, token := none, captag := 0 }, kind := k, station := some st, sent := s.stations[st].state == .up, fill := false,
    bkoff := tN c.bits 60 2, bklim := bitsAt (tF c.bits 62) 0 8, attempts := 0, due := none, pc := 0 }

/-- No live station on the plane (R419, R475). -/
def State.planeDown (s : State) : Trap := engFar s.ownRoute 0 0 0

/-- A command of NXQ that waits for a request. -/
def State.slotCmd (s : State) (r : Req) : Option (Nat × Cmd) :=
  let l := (s.ctxOf r.who).queues[4]
  match l.findIdx? fun c => c.phase == .running && c.link == r.id && (nOp c.bits == 6 || nOp c.bits == 7) with
  | some k => l[k]?.map fun c => (k, c)
  | none => none

/-! ## Starts -/

/-- The oldest held message of an endpoint that a receive takes (R430). -/
def Endpoint.heldFor (e : Endpoint) (t : TemplateBits) : Option HeldMsg := e.held.find? fun m => takesTag t m.tag

/-- A message has been taken whole: packets of it that come again are acknowledged and change nothing (R430). -/
def Endpoint.finish (msg : Nat) (e : Endpoint) : Endpoint :=
  { e with finished := msg :: e.finished, writes := e.writes.filter fun h => h.msg != msg }

/-- NRECV is posted: it takes a held message, else it waits for one. -/
def State.startReceive (s : State) (w : Who) (c : Cmd) : Started :=
  let n := s.nextId
  let s1 := { s with nextId := n + 1 }
  match (s.ether.eps[nEp c.bits]?).bind fun e => e.heldFor c.bits with
  | none => .running s1 fun c => { c with link := n }
  | some m =>
    let s2 := s1.modEp (nEp c.bits) fun e => { e with held := e.held.filter fun h => h.msg != m.msg }
    match s2.receivePart w c m m.parts with
    | .fault e => .fault s2 e 0
    | .whole s3 b => .done (s3.modEp (nEp c.bits) (Endpoint.finish m.msg)) b 0
    | .more s3 m => .running s3 fun c => { c with link := n, msg := some m }

/-- NCNT's test and subtraction (R287). -/
def State.counterTest (s : State) (w : Who) (t : TemplateBits) : Except Trap (Option State) :=
  match s.counterPlace w t with
  | .error e => .error e
  | .ok p =>
    let v := leNat (s.rawRead p 8)
    if v < nParam t then .ok none
    else .ok (some (if nDec t then s.rawWrite p (leBytes 8 (v - nParam t)) else s))

/-- XCONV's requests (R289): the axes of AXM whose demand differs from the current state. -/
def convAxes (t : TemplateBits) (o : Obj) : List (Fin 4) :=
  (List.finRange 4).filter fun a => (nAxm t).getLsbD a.val && demand (nView t) a != 15 && demand (nView t) a != o.state a

def State.startConv (s : State) (x : Ctx) (t : TemplateBits) : Started :=
  match s.objOf x (nObj t) with
  | none => .fault s (cHandle Sub.noent (nObj t) 0) 0
  | some o =>
    let go := convAxes t o
    if ((List.finRange 4).any fun a => (nAxm t).getLsbD a.val && o.axisSize a == 0)
        || go.any fun a => !o.reachable a (demand (nView t) a) then .fault s (cHandle Sub.badplace (nObj t) 0) 0
    else
      let s1 := s.sealAxes (s.launchId x) (nObj t) (go.map fun a => (a, some (demand (nView t) a)))
      let conv := s1.flights (s.launchId x) (nObj t) go
      if conv.isEmpty then .done s1 0 0 else .running s1 fun c => { c with conv := conv }

/-- The status words of XRCONT (R290). -/
def contStatus (bits : Nat) (miss : Word) : List Byte := leBytes 8 bits ++ leBytes 8 miss.toNat

/-- XRCONT that faults without an answer of the switch writes its status words too, where STAT takes them (R290); MISS, which is in
no answer, is a free value (log 21). -/
def State.contLost (s : State) (w : Who) (t : TemplateBits) (e : Trap) : Started :=
  match s.putStat w t (contStatus 0 (Config.freeWord s.fresh)) with
  | .error _ => .fault { s with fresh := s.fresh + 1 } e 0
  | .ok s1 => .fault { s1 with fresh := s.fresh + 1 } e 0

/-- A network command after its start checks. -/
def State.netBody (s : State) (w : Who) (c : Cmd) : Started :=
  let t := c.bits
  let x := s.ctxOf w
  match s.netEnds x t, s.netAddrs w t with
  | .error e, _ => .fault s e 0
  | _, .error e => if nOp t == 7 then s.contLost w t e else .fault s e 0
  | .ok _, .ok _ =>
    match nOp t with
    | 0x01 | 0x03 =>
      match s.netSource w c with
      | .error e => .fault s e 0
      | .ok (s1, _) =>
        .running ((List.range (packetCount (nLen t))).foldl (fun s k => s.sendPacket w c k) s1) fun c =>
          { c with dues := (List.range (packetCount (nLen t))).map fun k => (k, s.gtc.toNat + s.rto) }
    | 0x02 => s.startReceive w c
    | 0x04 =>
      match s.counterTest w t with
      | .error e => .fault s e 0
      | .ok none => .running s id
      | .ok (some s1) => .done s1 0 0
    | 0x05 => s.startConv x t
    | 0x06 =>
      match s.planeStation (nEp t) with
      | none => .fault s s.planeDown 0
      | some st =>
        let r := s.slotReq w c .slotAlloc st
        .running ((s.addReq r).send (.alloc r.id st (netWants t))) fun c => { c with link := r.id }
    | _ =>
      match s.planeStation (nParam t % 64) with
      | none => s.contLost w t s.planeDown
      | some st =>
        match s.netSource w c with
        | .error e => s.contLost w t e
        | .ok (s1, bs) =>
          let r := s1.slotReq w c .slotContrib st
          .running ((s1.addReq r).send (.contrib (BitVec.ofNat 64 (nParam t)) (nNidx t) bs)) fun c => { c with link := r.id }

/-- Whether a command is held in its queue: by a bank role change (R33), by a line lease (R176), or as an XCONV that would seal an
axis before the release that its seal makes is satisfied (R180, R307, R311). -/
def State.netHeld (s : State) (w : Who) (_ : Queue) (c : Cmd) : Bool :=
  s.heldBy w c (netRefs c.bits) || s.netBehind w c ||
    nOp c.bits == 5 && (s.objOf (s.ctxOf w) (nObj c.bits)).any fun o =>
      let go := convAxes c.bits o
      !go.isEmpty && s.sealWaits w c (go.any fun a => 2 ≤ o.axisSize a)

def State.startNet (s : State) (w : Who) (op : Nat) : State :=
  s.startCmd w .nxq (fun k => k == op || k == 0 || decide (7 < k)) s.netHeld s.netChecks (fun s _ c => s.netBody w c)

def execNsend (who : Who) (s : State) : Out := .next (s.startNet who 0x01)
def execNrecv (who : Who) (s : State) : Out := .next (s.startNet who 0x02)
def execNwrite (who : Who) (s : State) : Out := .next (s.startNet who 0x03)

/-- A waiting NCNT whose counter has reached its threshold. -/
def State.countReady (s : State) (w : Who) : Option (Nat × Cmd) :=
  let l := (s.ctxOf w).queues[4]
  match l.findIdx? fun c => c.phase == .running && nOp c.bits == 4 with
  | some k => l[k]?.map fun c => (k, c)
  | none => none

/-- NCNT starts, or a waiting one makes its test again. -/
def execNcnt (who : Who) (s : State) : Out :=
  match s.countReady who with
  | none => .next (s.startNet who 0x04)
  | some (k, c) =>
    match s.counterTest who c.bits with
    | .error e => .next (s.failCmd who .nxq k c e 0)
    | .ok none => .next s
    | .ok (some s1) => .next (s1.doneCmd who .nxq k 0 0)

def execXconv (who : Who) (s : State) : Out := .next (s.startNet who 0x05)
def execXrslot (who : Who) (s : State) : Out := .next (s.startNet who 0x06)
def execXrcont (who : Who) (s : State) : Out := .next (s.startNet who 0x07)

/-! ## Slot answers (R420, R290) -/

/-- A slot request ends with a fault of its command. -/
def State.failSlot (s : State) (r : Req) (t : Trap) : State :=
  let s1 := s.dropReq r.id
  match s1.slotCmd r with
  | some (k, c) => s1.failCmd r.who .nxq k c t 0
  | none => s1

/-- A slot request ends well. -/
def State.doneSlot (s : State) (r : Req) (bytes : Nat) (body : State → Cmd → Except Trap State) : State :=
  let s1 := s.dropReq r.id
  match s1.slotCmd r with
  | none => s1
  | some (k, c) =>
    match body s1 c with
    | .error e => s1.failCmd r.who .nxq k c e 0
    | .ok s2 => s2.doneCmd r.who .nxq k bytes 0

/-- The status words are written, and the command faults. -/
def State.contFault (s : State) (r : Req) (bits : Nat) (miss : Word) (t : Trap) : State :=
  match s.slotCmd r with
  | none => s.dropReq r.id
  | some (_, c) =>
    match s.putStat r.who c.bits (contStatus bits miss) with
    | .error e => s.failSlot r e
    | .ok s1 => s1.failSlot r t

/-- PLACETO of a command without an object (R290, R382). -/
def slotPlaceto : Trap := ⟨Cause.placeto, 0, 0⟩

/-- The request of an event, when it is in flight. -/
def State.slotReqAt (s : State) (req : Nat) (k : ReqKind) : Option Req :=
  (s.reqAt req).bind fun r => if r.due.isNone && r.sent && r.kind == k then some r else none

/-- A chunk of a conversion that has gone to a slot: the request, its first element, and its length. -/
def State.slotChunkAt (s : State) (req : Nat) : Option (Req × Nat × Nat) :=
  (s.reqAt req).bind fun r => match r.kind with
    | .slotChunk _ _ first data => if r.sent then some (r, first, data.length) else none
    | _ => none

/-- A slot event finds the command's sides behind a line lease, and waits (R176). -/
def State.slotBehind (s : State) (r : Req) : Bool := (s.slotCmd r).any fun c => s.netBehind r.who c.2

def execSlotGrant (req : Nat) (name : Word) (s : State) : Out :=
  match s.slotReqAt req .slotAlloc with
  | none => .next (s.askGranted req name)
  | some r => .next (if s.slotBehind r then s else s.doneSlot r 8 fun s c => s.putStat r.who c.bits (leBytes 8 name.toNat))

def execSlotResult (req : Nat) (data : List Byte) (nan : Bool) (s : State) : Out :=
  match s.slotReqAt req .slotContrib with
  | none =>
    match s.slotChunkAt req with
    | some (r, first, len) => .next (if data.length == len then s.convResult r first data nan else s)
    | none => .next s
  | some r =>
    let len := ((s.slotCmd r).map fun c => nLen c.2.bits).getD data.length
    let bits := 1 + if nan then 4 else 0
    if data.length != len || s.slotBehind r then .next s
    else
      match (s.slotCmd r).map fun c => (s.netSide r.who (nRaddr c.2.bits) len .write).2 with
      | some (.error e) => .next (s.contFault r bits 0 e)
      | _ => .next (s.doneSlot r len fun s c =>
        match s.netSide r.who (nRaddr c.bits) len .write with
        | (_, .error e) => .error e
        | (s1, .ok ps) => (s1.putParts r.who ps data).putStat r.who c.bits (contStatus bits 0))

def execSlotTimeout (req : Nat) (missing : Word) (s : State) : Out :=
  match s.slotReqAt req .slotContrib with
  | none =>
    match s.slotChunkAt req with
    | some (r, _) => .next (s.convTimeout r missing)
    | none => .next s
  | some r => .next (if s.slotBehind r then s else s.contFault r 2 missing slotPlaceto)

/-- A switch refuses a contribution to a conversion's slot: the chunk fails (R425). -/
def State.chunkRefused (s : State) (req : Nat) : State :=
  match s.slotChunkAt req with
  | some (r, _) => match r.conv with
    | some key => s.failConvReq r key
    | none => s
  | none => s

/-- EXPIRED: the bitmap is not in the answer, so MISS is a free value (log 21). -/
def execSlotExpired (req : Nat) (s : State) : Out :=
  match s.slotReqAt req .slotContrib with
  | none => .next (s.chunkRefused req)
  | some r =>
    .next (if s.slotBehind r then s else { s with fresh := s.fresh + 1 }.contFault r 8 (Config.freeWord s.fresh) slotPlaceto)

/-- UNKNOWN: BADSLOT (R290, R420); which field the switch objects to is not in the answer of an ALLOC, nor MISS in that of a
contribution: free values (log 21). -/
def execSlotUnknown (req : Nat) (s : State) : Out :=
  let v := Config.freeWord s.fresh
  let s1 := { s with fresh := s.fresh + 1 }
  match s.slotReqAt req .slotAlloc, s.slotReqAt req .slotContrib with
  | some r, _ => .next (s1.failSlot r (engTrap Sub.badslot (v.toNat % 64)))
  | _, some r => .next (if s.slotBehind r then s else s1.contFault r 0 v (engTrap Sub.badslot 32))
  | none, none => .next ((s.chunkRefused req).askAnswer req false)

/-! ## Answers to remote requests (R186, R187, R385) -/

/-- A fabric fault of a slot message: a contribution writes its status words before it faults (R290); MISS is a free value
(log 21). -/
def State.slotLost (s : State) (r : Req) (t : Trap) : State :=
  if r.kind == .slotContrib then { s with fresh := s.fresh + 1 }.contFault r 0 (Config.freeWord s.fresh) t else s.failSlot r t

/-- Receiver-not-ready to an ALLOC, and a fabric fault of either slot message (R420). -/
def State.slotAnswer (s : State) (r : Req) (a : Answer) : State :=
  match a with
  | .fault f => if r.conv.isSome then s.failReq r f else s.slotLost r (engFar f 0 0 0)
  | .rnr =>
    if r.kind != .slotAlloc then s
    else if r.bklim ≤ r.attempts then s.failSlot r (engFar .poolrnr 0 0 0)
    else s.retryReq r
  | _ => s

/-- What an answer does to a request that an instruction or a PST made. -/
def State.takeAnswer (s : State) (r : Req) (a : Answer) : State :=
  match a with
  | .rnr => s.retryReq r
  | .fault f => s.failReq r f
  | a => match r.conv with
    | some key => s.convAnswer r key a
    | none => s.answerReq r a

/-- An answer to an allocation of a conversion's home (R425): a grant and UNKNOWN have events of their own. -/
def State.homeAnswer (s : State) (req : Nat) (a : Answer) : State :=
  match a with
  | .rnr => s.askAnswer req true
  | .fault _ => s.askAnswer req false
  | _ => s

/-- REMOTE_ANSWER: an answer arrives for a request in flight; this package's own answer is worked out here, and a request of its
own that stands behind a line lease waits there (R176).  The answers of rows come with their landings.  A request that waits to be
sent and finds no live station any more fails with ROUTE (R405). -/
def execRemoteAnswer (req : Nat) (answer : Answer) (s : State) : Out :=
  match s.reqAt req with
  | none => .next (s.homeAnswer req answer)
  | some r =>
    if r.due.isSome || r.fill || r.cmd.isSome || s.behindPst r then .next s
    else if !r.sent then .next (if !r.isSlot && s.noRoute r.ref then s.failReq r s.ownRoute else s)
    else if r.isSlot then .next (s.slotAnswer r answer)
    else if s.servesRef r.ref then
      match s.serveReq r with
      | (s1, some a) => .next (s1.takeAnswer r a)
      | (s1, none) => .next s1
    else .next (s.takeAnswer r answer)

/-- REPLAY_RETRY: a request whose back-off has passed is sent again, on the station that R405 now gives. -/
def execReplayRetry (req : Nat) (s : State) : Out :=
  match s.reqAt req with
  | none => .next (s.askRetry req)
  | some r =>
    match r.due with
    | none => .next s
    | some t =>
      if s.gtc.toNat < t then .next s
      else if r.isSlot then
        if r.station.any fun k => s.stations[k].live then
          .next (((s.slotCmd r).elim s fun c => s.send (.alloc req (r.station.getD 0) (netWants c.2.bits))).modReq req fun q =>
            { q with due := none, sent := q.station.any fun k => s.stations[k].state == .up })
        else .next (s.failSlot r s.planeDown)
      else if r.fill then .next (s.modReq req fun q => { q with due := none })
      else if s.noRoute r.ref then .next (s.failReq r s.ownRoute)
      else .next (s.modReq req fun q =>
        { q with due := none, station := s.viaOf q.ref, sent := s.sendsNow q.id q.ref (s.viaOf q.ref) })

/-! ## Ethernet (R429 to R431) -/

/-- A running send or NWRITE that a retransmission or an acknowledgement names. -/
def State.netCmdAt (s : State) (n : NetCmd) : Option Cmd :=
  ((s.ctxOf n.who).queues[4][n.pos]?).bind fun c =>
    if c.phase == .running && (nOp c.bits == 1 || nOp c.bits == 3) then some c else none

def triesOf (c : Cmd) (k : Nat) : Nat := ((c.tries.find? fun e => e.1 == k).map (·.2)).getD 0

/-- RTRY (R428). -/
def State.retries (s : State) : Nat := bitsAt s.ether.rtry 0 8

/-- ROUTE of the Ethernet port (R430, R475). -/
def etherRoute : Trap := ⟨Cause.route, 0, 2048⟩

/-- One more transmission of a packet, whose timeout doubles with each, or the end of the command (R430). -/
def State.resend (s : State) (n : NetCmd) (k : Nat) : State :=
  match s.netCmdAt n with
  | none => s
  | some c =>
    if c.acked.contains k then s
    else if s.retries ≤ triesOf c k then s.failCmd n.who .nxq n.pos c etherRoute 0
    else
      let s1 := (s.sendPacket n.who c k).modCmd n.who .nxq n.pos fun c =>
        { c with tries := (k, triesOf c k + 1) :: c.tries.filter fun e => e.1 != k }.dueIn s k (s.rto * 2 ^ (triesOf c k + 1))
      { s1 with ether := { s1.ether with retransmitted := s1.ether.retransmitted + 1 } }

/-- Packets acknowledged behind packet `k`. -/
def behind (acked : List Nat) (k : Nat) : Nat := (acked.filter fun j => k < j).length

/-- ETHERNET_ACK: packets are acknowledged; one that is now missing behind three later ones is sent again.  A refused
NWRITE faults (R431); packets of a send that are refused as receiver-not-ready are sent again after RTO (R430). -/
def execEthernetAck (cmd : NetCmd) (packets : List Nat) (refused : Bool) (s : State) : Out :=
  match s.netCmdAt cmd with
  | none => .next s
  | some c =>
    if !s.ether.live || s.netBehind cmd.who c then .next s
    else if refused then
      (if nOp c.bits == 3 then .next (s.failCmd cmd.who .nxq cmd.pos c (engTrap Sub.badep 14) 0)
       else .next (s.modCmd cmd.who .nxq cmd.pos fun c => (packets.filter fun k => !c.acked.contains k).foldl (fun c k => c.dueIn s k s.rto) c))
    else
      let n := packetCount (nLen c.bits)
      let now := (c.acked ++ packets.filter fun k => decide (k < n)).eraseDups
      let s1 := s.modCmd cmd.who .nxq cmd.pos fun c => { c with acked := now }
      if now.length == n then .next (s1.doneCmd cmd.who .nxq cmd.pos (nLen c.bits) 0)
      else
        let late := (List.range n).filter fun k => !now.contains k && decide (3 ≤ behind now k) && decide (behind c.acked k < 3)
        .next (late.foldl (fun s k => s.resend cmd k) s1)

/-- RETRANSMIT_TIMEOUT: an unacknowledged packet, or one refused as receiver-not-ready, is sent again once its timeout has ended
(R430). -/
def execRetransmitTimeout (cmd : NetCmd) (packet : Nat) (s : State) : Out :=
  match s.netCmdAt cmd with
  | none => .next s
  | some c =>
    if packet < packetCount (nLen c.bits) && c.dueOf packet ≤ s.gtc.toNat && !s.netBehind cmd.who c then .next (s.resend cmd packet) else .next s

/-- A posted receive: whose it is, its place in NXQ, and the command. -/
structure Posted where
  who : Who
  pos : Nat
  cmd : Cmd
  deriving DecidableEq, Repr

/-- Running receives on an endpoint. -/
def State.postedOn (s : State) (ep : Nat) : List Posted :=
  allWho.flatMap fun w => ((s.ctxOf w).queues[4].mapIdx fun k c => (⟨w, k, c⟩ : Posted)).filter fun p =>
    p.cmd.phase == .running && nOp p.cmd.bits == 2 && nEp p.cmd.bits == ep

/-- The receive that was posted first. -/
def firstPosted : List Posted → Option Posted
  | [] => none
  | p :: ps =>
    match firstPosted ps with
    | none => some p
    | some q => some (if q.cmd.link < p.cmd.link then q else p)

/-- A packet goes to the receive that has its message, to the first posted receive that takes its tag, or is held; one of a message
that has been taken whole is acknowledged and changes nothing.  One whose receive stands behind a line lease waits (R176). -/
def State.deliverPacket (s : State) (ep : Nat) (e : Endpoint) (k : TagPacket) : State :=
  let mine := s.postedOn ep
  let fits := fun (p : Posted) => p.cmd.msg.isNone && takesTag p.cmd.bits k.tag
  let new : HeldMsg := { msg := k.msg, tag := k.tag, total := k.total, parts := [(k.off, k.data)] }
  let give := fun (p : Posted) (m : HeldMsg) =>
    if s.netBehind p.who p.cmd then s
    else
      (match s.receivePart p.who p.cmd m [(k.off, k.data)] with
      | .fault t => s.failCmd p.who .nxq p.pos p.cmd t 0
      | .whole s1 b => (s1.modEp ep (Endpoint.finish k.msg)).doneCmd p.who .nxq p.pos b 0
      | .more s1 m => s1.modCmd p.who .nxq p.pos fun c => { c with msg := some m }).send (.netReply (BitVec.ofNat 8 ep) k.msg true)
  if e.finished.contains k.msg then s.send (.netReply (BitVec.ofNat 8 ep) k.msg true)
  else match mine.find? fun p => p.cmd.msg.any fun m => m.msg == k.msg with
  | some p => give p ((p.cmd.msg.getD new).add k.off k.data)
  | none =>
    match e.held.find? fun m => m.msg == k.msg with
    | some m =>
      let size := e.held.foldl (fun n m => m.parts.foldl (fun n p => n + p.2.length) n) 0
      if 1048576 < size + k.data.length then s.send (.netReply (BitVec.ofNat 8 ep) k.msg false)
      else (s.modEp ep fun e => { e with held := e.held.map fun h => if h.msg == k.msg then m.add k.off k.data else h }).send
        (.netReply (BitVec.ofNat 8 ep) k.msg true)
    | none =>
      match firstPosted (mine.filter fits) with
      | some p => give p new
      | none =>
        let size := e.held.foldl (fun n m => m.parts.foldl (fun n p => n + p.2.length) n) 0
        if 64 ≤ e.held.length || 1048576 < size + k.data.length then s.send (.netReply (BitVec.ofNat 8 ep) k.msg false)
        else (s.modEp ep fun e => { e with held := e.held ++ [new] }).send (.netReply (BitVec.ofNat 8 ep) k.msg true)

/-- TAGGED_MESSAGE_ARRIVAL: a packet of a tagged send; an endpoint that is not open, and a launch endpoint, refuse it. -/
def execTaggedMessageArrival (ep : BitVec 8) (packet : TagPacket) (s : State) : Out :=
  match s.ether.eps[ep.toNat]? with
  | none => .next s
  | some e =>
    if !s.ether.live || 4096 < packet.data.length || packet.total < packet.off + packet.data.length then .next s
    else if ep.toNat < 16 || !e.isOpen then .next (s.send (.netReply ep packet.msg false))
    else .next (s.deliverPacket ep.toNat e packet)

/-- EPCNT is incremented, when it is set and translates (R431). -/
def State.countMessage (s : State) (slot : Fin 16) (e : Endpoint) : State :=
  if e.cnt == 0 then s
  else
    match s.spans slot .both [(e.cnt.toNat, 8)] with
    | (s1, .ok ps) => (s1.rmw ((ps.head?.map (·.1)).getD 0) .add 8 1 0).1
    | (s1, .error v) => s1.logEvent s1.unitSrc .xlatrefuse [BitVec.ofNat 64 v.1]

/-- NWRITE_ARRIVAL (R431): a packet is placed in the window; with the last one of its message EPCNT is incremented.  Packets come in
any order, and one of a message that is whole changes nothing (R427, R430). -/
def execNwriteArrival (ep : BitVec 8) (key : BitVec 32) (raddr : Word) (p : WritePacket) (s : State) : Out :=
  match s.ether.eps[ep.toNat]? with
  | none => .next s
  | some e =>
    let slot := s.ether.slotOf ep.toNat
    if !s.ether.live || 4096 < p.data.length || p.total < p.off + p.data.length then .next s
    else if ep.toNat < 16 || !e.isOpen || !e.wren || key != e.key.extractLsb' 0 32 || e.wsize.toNat < raddr.toNat + p.total then
      .next (s.send (.netReply ep p.msg false))
    else if e.finished.contains p.msg then .next (s.send (.netReply ep p.msg true))
    else
      match s.spans slot .write (pageParts (e.wbase.toNat + raddr.toNat + p.off) p.data.length) with
      | (s1, .error v) => .next ((s1.logEvent s1.unitSrc .xlatrefuse [BitVec.ofNat 64 v.1]).send (.netReply ep p.msg false))
      | (s1, .ok ps) =>
        if s.spansLeased (ps ++ if e.cnt == 0 then [] else match s1.spans slot .both [(e.cnt.toNat, 8)] with
            | (_, .ok cs) => cs
            | (_, .error _) => []) then .next s
        else
          let m := ((e.writes.find? fun h => h.msg == p.msg).getD { msg := p.msg, tag := raddr, total := p.total, parts := [] }).add
            p.off p.data
          let s2 := s1.writeSpans ps p.data
          let s3 := if m.whole then (s2.countMessage slot e).modEp ep.toNat (Endpoint.finish p.msg)
            else s2.modEp ep.toNat fun e => { e with writes := m :: e.writes.filter fun h => h.msg != p.msg }
          .next (s3.send (.netReply ep p.msg true))

/-- Size of a ring from its log2 register; 0 when it is disabled (R323). -/
def ringSize (v : Word) : Nat := if bitsAt v 0 5 == 0 then 0 else 2 ^ bitsAt v 0 5

/-- LRPI after the wholly placed writes that follow it without a gap, and the writes that are still beyond it. -/
def runPlaced (fuel : Nat) (pi : Nat) (ps : List (Nat × Nat)) : Nat × List (Nat × Nat) :=
  match fuel with
  | 0 => (pi, ps)
  | n + 1 =>
    match ps.find? fun p => p.1 ≤ pi && pi < p.1 + p.2 with
    | some p => runPlaced n (p.1 + p.2) ps
    | none => (pi, ps.filter fun p => pi < p.1 + p.2)

/-- LAUNCH_ENDPOINT_WRITE (R429).  A write in order whose ring page does not translate is refused, and the refusal logged as
XLATREFUSE (DEDUCED, log 44). -/
def execLaunchEndpointWrite (slot : Fin 16) (p : Word) (data : List Byte) (s : State) : Out :=
  match s.ether.eps[slot.val]? with
  | none => .next s
  | some e =>
    let r := s.slots[slot]
    let size := ringSize r.lrsize
    let ep := BitVec.ofNat 8 slot.val
    let ok := e.isOpen && size != 0 && p.toNat % 64 == 0 && data.length % 64 == 0 && decide (r.lrci.toNat ≤ p.toNat)
      && decide (p.toNat + data.length ≤ r.lrci.toNat + size) && decide (p.toNat % size + data.length ≤ size)
    if !s.ether.live then .next s
    else if !ok then .next (s.send (.netReply ep 0 false))
    else
      match s.spans slot .write (pageParts (r.lrbase.toNat + p.toNat % size) data.length) with
      | (s1, .error v) => .next ((s1.logEvent s1.unitSrc .xlatrefuse [BitVec.ofNat 64 v.1]).send (.netReply ep 0 false))
      | (s1, .ok ps) =>
        if s.spansLeased ps then .next s else
        let placed := e.placed ++ [(p.toNat, data.length)]
        let q := runPlaced placed.length r.lrpi.toNat placed
        let s2 := (s1.writeSpans ps data).modEp slot.val fun e => { e with placed := q.2 }
        .next ({ s2 with slots := s2.slots.set slot { s2.slots[slot] with lrpi := BitVec.ofNat 64 q.1 } }.send (.netReply ep 0 true))

/-- ETHERNET_LINK_STATE (R428). -/
def execEthernetLinkState (up : Bool) (s : State) : Out := .next { s with ether := { s.ether with linkUp := up } }

/-! ## Completion (R223, R254, R286) -/

/-- The counter of a completing network command is incremented before its barrier update (R286). -/
def State.bumpCounter (s : State) (w : Who) (c : Cmd) : State :=
  if !nCen c.bits then s
  else
    match s.counterPlace w c.bits with
    | .ok p => (s.rmw p .add 8 1 0).1
    | .error _ => s

/-- All the work of a command is done: an XCONV is done once its conversions have ended. -/
def Cmd.finished (c : Cmd) (q : Queue) : Bool :=
  c.phase == .done || (q == .nxq && c.phase == .running && nOp c.bits == 5 && c.conv.isEmpty)

/-- ENGINE_COMMAND_COMPLETION: the head of a queue completes, and is gone when every push of its tokens has found room (R41);
only then its counter and its barrier are updated. -/
def execEngineCommandCompletion (who : Who) (q : Queue) (s : State) : Out :=
  let x := s.ctxOf who
  match x.queues[q.num] with
  | [] => .next s
  | c :: _ =>
    if !c.finished q then .next s
    else
      let rows := (q == .ldq || q == .stq) && cRowCredits (cOp c.bits)
      let last := (c.owes q).all fun f => x.tok[f.num].length < 16
      let s1 := if q == .nxq && last then s.bumpCounter who c else s
      .next (s1.retireCmd who q c rows)

end Sys2Proof.Machine
end

