-- ==== Sys2Proof/Machine/Station.lean ====
section
/-! DEFINITION. The stations of the fabric port: training, identity, keys, retraining and quiescing (R406 to R417). -/

namespace Sys2Proof.Machine

/-! ## What the changes of a station share -/

def State.modStation (s : State) (k : Fin 64) (f : Station → Station) : State :=
  { s with stations := s.stations.set k (f s.stations[k]) }

/-- Source of a station's event: a package unit (R437). -/
def State.stationEvent (s : State) (k : Fin 64) (c : EventCode) (data : List Word) : State :=
  s.logEvent s.unitSrc c (BitVec.ofNat 64 k.val :: data)

/-- A request was sent on a station and is not answered.  A slot message names its plane, so one that waits for a station counts
too: it finds no other (R405). -/
def Req.outOn (r : Req) (k : Fin 64) : Bool :=
  r.station == some k && r.due.isNone && !r.fill && (r.sent || r.isSlot)

/-- A page's fetch was sent on a station and is not answered. -/
def CachePage.outOn (c : CachePage) (k : Fin 64) : Bool := c.fetch.any fun f => f.sent && f.station == some k

/-- A page's fetch ends with a fault: the reads that wait for it fault, and a prefetched page is dropped (R369, R374). -/
def State.failFetch (s : State) (c : CachePage) (f : FarFault) : State :=
  match c.state with
  | .filling _ => s.failPage c.poolid c.page f
  | _ => s.dropPage c.poolid c.page

/-- The slot that the home of a conversion asks for on a station is not granted yet. -/
def Home.asksOn (h : Home) (k : Fin 64) : Bool := h.asks.any fun a => a.plane == k && a.name.isNone && a.due.isNone

/-- Requests of a list end with a fault, those that are still there. -/
def State.failReqs (s : State) (rs : List Req) (f : FarFault) : State :=
  rs.foldl (fun s r => if (s.reqAt r.id).isNone then s
    else if r.isSlot && r.conv.isNone then s.slotLost r (engFar f 0 0 0) else s.failReq r f) s

/-- Requests that this package sent on a station and that are not answered end with a fault: those of instructions, PSTs and copy
rows, slot messages, those of conversions, and page fetches (R411, R412, R417); an allocation fails its conversion (R425). -/
def State.failStation (s : State) (k : Fin 64) (f : FarFault) : State :=
  let pages := s.cache.filter fun c => c.outOn k
  let homes := s.homes.filter fun h => h.asksOn k
  let s1 := homes.foldl (fun s h => s.slotAborts h 1) (s.failReqs (s.reqs.filter fun r => r.outOn k) f)
  (pages.foldl (fun s c => s.failFetch c f) s1).pumpOn

/-- What waited to be sent remaps; what finds no live station any more fails with ROUTE (R405, R412, R417). -/
def State.remap (s : State) : State :=
  let s1 := s.sendWaiting
  let lost := s1.reqs.filter fun r => !r.sent && !r.fill && r.due.isNone && !r.isSlot && s1.noRoute r.ref
  let pages := s1.cache.filter fun c => c.fetch.any fun f => !f.sent && (s1.planeOf f.node c.page).isNone
  if lost.isEmpty && pages.isEmpty then s1
  else (pages.foldl (fun s c => s.failFetch c s1.ownRoute) (s1.failReqs lost s1.ownRoute)).pumpOn

/-- Requests relayed onto a station that has gone DOWN are answered ROUTE with the own station (R416). -/
def State.dropRelays (s : State) (k : Fin 64) : State :=
  (s.relays.filter fun r => r.station == k).foldl (fun s r => s.relayBack r.src r.page (.fault (.route s.ownStation)))
    { s with relays := s.relays.filter fun r => r.station != k }

/-- A station goes DOWN: its unanswered requests end with a fault, and those that waited to be sent remap (R412). -/
def State.stationDown (s : State) (k : Fin 64) (f : FarFault) : State :=
  (((s.modStation k fun t => { t with state := .down, wasUp := false, matched := false }).failStation k f).dropRelays k).remap

/-- ROUTE naming this package's own station (R412). -/
def State.lose (s : State) (k : Fin 64) : State := s.stationDown k s.ownRoute

/-- Training starts at a mode; DIRECT takes effect (R407, R409). -/
def Station.train (t : Station) (mode : Fin 3) : Station :=
  { t with state := .train, mode := mode, lane := t.direct, matched := false, nokeyLogged := false }

/-- A next transmit key is taken at the flit boundary: counter 0, key index inverted (R410). -/
def Station.switchKey (t : Station) : Station :=
  match t.txnext with
  | some k => { t with txkey := some k, txnext := none, txctr := 0, kidx := !t.kidx }
  | none => t

/-- A station whose peer has been identified goes UP once it holds both keys (R409). -/
def Station.settle (t : Station) : Station :=
  if t.state == .idcheck && t.matched && (t.txkey.isSome || t.txnext.isSome) && t.rxkey.isSome then
    { t with state := .up, wasUp := true }.switchKey
  else if t.state == .up || t.state == .quiescing then t.switchKey
  else t

/-- A station receives encrypted flits, in KEYEXH too (R410, R411). -/
def Station.receives (t : Station) : Bool := t.state == .up || t.state == .quiescing || t.state == .keyexh

/-- Flits pass on a station that carries traffic: the counter of the transmit key advances by one per flit sent, replays count,
and the receiver goes over to a next key with the first flit that carries its index bit (R406, R410).  How many flits pass
between two reads, how many are replays, and whether the new index bit has come are free values (log 15); the counter stays
below the point that KEYLOW reports until that event, and never passes the last flit of a key (R411). -/
def Station.count (t : Station) (fresh : Nat) : Station :=
  let t1 : Station := if (t.state == .up || t.state == .quiescing) && t.txkey.isSome then
    let cap := if t.txctr.toNat ≤ 2 ^ 47 then 2 ^ 47 else 2 ^ 48 - 1
    { t with
      txctr := BitVec.ofNat 48 (Nat.min (t.txctr.toNat + Config.flits fresh) cap)
      replayed := t.replayed + BitVec.ofNat 32 (Config.flits (fresh + 1)) }
    else t
  if t.receives && t.rxnext.isSome && Config.keepsLine (fresh + 2) then { t1 with rxkey := t.rxnext, rxnext := none } else t1

def State.countFlits (s : State) (k : Fin 64) : State :=
  { s.modStation k fun t => t.count s.fresh with fresh := s.fresh + 3 }

/-! ## Bring-up (R409) -/

/-- The identity flit that this package sends on a station. -/
def State.ownIdentity (s : State) (k : Fin 64) : Identity :=
  { stn := s.mgmt.stnid, mem := false, idx := BitVec.ofNat 6 k.val, isSwitch := false, digest := Config.identityDigest }

/-- TRAIN_TEST_RUN_PASS: the station goes on to IDCHECK and sends its identity flit. -/
def execTrainTestRunPass (k : Fin 64) (s : State) : Out :=
  if s.stations[k].state == .train then
    .next ((s.modStation k fun t => { t with state := .idcheck, matched := false }).send (.identity k (s.ownIdentity k)))
  else .next s

/-- TRAIN_TEST_TIMEOUT: the next slower mode, or DOWN after mode 2; a retrain that fails ends the requests sent on the
station with ROUTE (R412). -/
def execTrainTestTimeout (k : Fin 64) (s : State) : Out :=
  let t := s.stations[k]
  if t.state != .train then .next s
  else if t.mode.val < 2 then .next (s.modStation k fun t => { t with mode := t.mode + 1 })
  else .next (s.lose k)

/-- The comparison of an identity flit with EXPPEER (R409). -/
def Station.accepts (t : Station) (id : Identity) : Bool :=
  let kind := bitsAt t.exppeer 17 2
  let idx := id.idx.toNat == bitsAt t.exppeer 11 6
  if kind == 0 then id.isSwitch && idx
  else if kind == 1 then
    !id.isSwitch && idx && id.stn.toNat == bitsAt t.exppeer 0 10 && id.mem == bitAt t.exppeer 10
  else true

/-- The fields of an identity flit as a word: station ID, memory bit, index, switch marker. -/
def Identity.fields (id : Identity) : Word :=
  BitVec.ofNat 64 (id.stn.toNat + (if id.mem then 2 ^ 10 else 0) + id.idx.toNat * 2 ^ 11 + (if id.isSwitch then 2 ^ 17 else 0))

/-- IDENTITY_FLIT: a match goes UP once both keys are held, and logs NOKEY once until then; a mismatch is DOWN. -/
def execIdentityFlit (k : Fin 64) (id : Identity) (s : State) : Out :=
  let t := s.stations[k]
  if t.state != .idcheck then .next s
  else
    let s1 := s.modStation k fun t => { t with pstn := id.stn, pmem := id.mem, pidx := id.idx, psw := id.isSwitch }
    if !t.accepts id then .next ((s1.lose k).stationEvent k .peermismatch [Identity.fields id, id.digest])
    else
      let s2 := (s1.modStation k fun t => { t with matched := true }.settle).sendWaiting
      if s2.stations[k].state == .up || t.nokeyLogged then .next s2
      else .next ((s2.modStation k fun t => { t with nokeyLogged := true }).stationEvent k .nokey [])

/-! ## Keys (R410, R411) -/

/-- LDTX: the key waits as the next one until a flit boundary; in KEYEXH it makes the station UP at once. -/
def State.loadTx (s : State) (k : Fin 64) : State :=
  (s.modStation k fun t =>
    let t1 := { t with txnext := some t.keydata }
    if t.state == .keyexh then { t1 with state := .up, wasUp := true }.switchKey else t1.settle).sendWaiting

/-- LDRX: the key is the current one when there is none, else the next one; an earlier next key may have become the current one
by then. -/
def State.loadRx (s : State) (k : Fin 64) : State :=
  ((s.countFlits k).modStation k fun t =>
    (if t.rxkey.isNone then { t with rxkey := some t.keydata } else { t with rxnext := some t.keydata }).settle).sendWaiting

def execKeyctlLdtx (k : Fin 64) (s : State) : Out := .next (s.loadTx k)
def execKeyctlLdrx (k : Fin 64) (s : State) : Out := .next (s.loadRx k)

/-- AUTHFAIL: sixteen consecutive failures make the station DOWN. -/
def execAuthfail (k : Fin 64) (s : State) : Out :=
  if s.stations[k].receives then .next ((s.lose k).stationEvent k .authfail [])
  else .next s

/-- KEYLOW: the counter of the current key passes 2^47. -/
def execKeylow (k : Fin 64) (s : State) : Out :=
  let t := s.stations[k]
  if (t.state == .up || t.state == .quiescing) && t.txkey.isSome && t.txctr.toNat ≤ 2 ^ 47 then
    .next ((s.modStation k fun t => { t with txctr := BitVec.ofNat 48 (2 ^ 47 + 1) }).stationEvent k .keylow [])
  else .next s

/-- KEY_EXHAUSTION: the next flit would carry 2^48 − 1 and no next key waits.  The station is no longer live, so what waited for
it remaps. -/
def execKeyExhaustion (k : Fin 64) (s : State) : Out :=
  let t := s.stations[k]
  if (t.state == .up || t.state == .quiescing) && t.txnext.isNone && 2 ^ 47 < t.txctr.toNat then
    .next ((s.modStation k fun t =>
      { t with state := .keyexh, txctr := BitVec.ofNat 48 (2 ^ 48 - 1), since := s.gtc.toNat }).remap.stationEvent k .keyexh [])
  else .next s

/-- KEYWAIT_EXPIRY: DOWN, and the unanswered requests end with LINKKEY. -/
def execKeywaitExpiry (k : Fin 64) (s : State) : Out :=
  let t := s.stations[k]
  if t.state == .keyexh && t.since + 1000 * bitsAt t.keywait 0 32 ≤ s.gtc.toNat then
    .next (s.stationDown k (.linkkey s.ownStation))
  else .next s

/-! ## Retraining (R412, R413) -/

/-- A retrain starts at a mode; keys and counter are kept (R410). -/
def State.retrain (s : State) (k : Fin 64) (mode : Fin 3) : State :=
  s.modStation k fun t => { t.train mode with retrains := t.retrains + 1 }

def execLinkRetrain (k : Fin 64) (s : State) : Out :=
  if s.stations[k].state == .up then .next (s.retrain k s.stations[k].mode) else .next s

/-- RING_HANDOVER: the other ring of each pair carries the traffic; only time changes. -/
def execRingHandover (k : Fin 64) (s : State) : Out :=
  if s.stations[k].state == .up then .next (s.modStation k fun t => { t with spareRing := !t.spareRing }) else .next s

/-- RING_LOCK_TIMEOUT: a retrain under R412. -/
def execRingLockTimeout (k : Fin 64) (s : State) : Out :=
  if s.stations[k].state == .up then .next (s.retrain k s.stations[k].mode) else .next s

/-! ## Control (R407, R417) -/

/-- A write of EN. -/
def State.writeEn (s : State) (k : Fin 64) (on : Bool) : State :=
  let s1 := s.modStation k fun t => { t with en := on }
  if !on then s1.lose k
  else if s.stations[k].state == .down then s1.modStation k fun t => t.train t.best
  else s1

/-- A write of QUIESCE: 1 in UP starts a quiesce, 0 in QUIESCED starts training. -/
def State.writeQuiesce (s : State) (k : Fin 64) (on : Bool) : State :=
  let t := s.stations[k]
  let s1 := s.modStation k fun t => { t with quiesce := on }
  if on && t.state == .up then
    (s1.modStation k fun t => { t with state := .quiescing, wasUp := false, since := s.gtc.toNat }).remap
  else if !on && t.state == .quiesced && t.en then s1.modStation k fun t => t.train t.best
  else s1

/-- A write of UP: retrains from BEST.  In QUIESCING, QUIESCED and KEYEXH it does nothing (DEDUCED, log 41). -/
def State.writeUp (s : State) (k : Fin 64) : State :=
  let t := s.stations[k]
  if !t.en then s
  else match t.state with
    | .up => s.retrain k t.best
    | .train => s.modStation k fun t => t.train t.best
    | .idcheck => s.modStation k fun t => t.train t.best
    | .down => s.modStation k fun t => t.train t.best
    | _ => s

def execStctlEn (k : Fin 64) (on : Bool) (s : State) : Out := .next (s.writeEn k on)
def execStctlQuiesce (k : Fin 64) (on : Bool) (s : State) : Out := .next (s.writeQuiesce k on)
def execStctlUp (k : Fin 64) (s : State) : Out := .next (s.writeUp k)

/-- Requests of this package, and requests that it relayed, are unanswered on a station (R417). -/
def State.outOn (s : State) (k : Fin 64) : Bool :=
  (s.reqs.any fun r => r.outOn k) || (s.cache.any fun c => c.outOn k) || (s.homes.any fun h => h.asksOn k)
    || s.relays.any fun r => r.station == k

/-- QDONE: every request sent on the station has been answered, and QDONE flits have been exchanged. -/
def execQdone (k : Fin 64) (s : State) : Out :=
  let t := s.stations[k]
  if t.state == .quiescing && !s.outOn k then
    .next (s.modStation k fun t => { t with state := .quiesced, forced := false })
  else .next s

/-- QUIESCE_TIMEOUT: the unanswered requests end with ROUTE, and the station is QUIESCED by force. -/
def execQuiesceTimeout (k : Fin 64) (s : State) : Out :=
  let t := s.stations[k]
  if t.state == .quiescing && t.since + 1000 * bitsAt t.qtmo 0 32 ≤ s.gtc.toNat then
    .next (((s.modStation k fun t => { t with state := .quiesced, forced := true }).failStation k s.ownRoute).dropRelays k).remap
  else .next s

/-- STCTL written whole (R407): a ninth DIRECT is stored 0 and logged, and BEST = 3 is stored 2. -/
def State.writeStctl (s : State) (k : Fin 64) (v : Word) : State :=
  let others := ((List.finRange 64).filter fun j => j != k && s.stations[j].direct).length
  let full := bitAt v 2 && 8 ≤ others
  let best : Fin 3 := match bitsAt v 3 2 with
    | 0 => 0 | 1 => 1 | _ => 2
  let s1 := s.modStation k fun t => { t with direct := bitAt v 2 && !full, best := best }
  let s2 := if full then s1.stationEvent k .dlfull [] else s1
  let s3 := (s2.writeEn k (bitAt v 0)).writeQuiesce k (bitAt v 1)
  if bitAt v 5 then s3.writeUp k else s3

end Sys2Proof.Machine
end

