-- ==== Sys2Proof/Machine/VecOps.lean ====
section
/-! DEFINITION. Element and axis operations of the vector engine on 32-bit patterns (R232 to R249). -/

namespace Sys2Proof.Machine

/-- A panel: 16 rows of 64 patterns, zero in inactive rows (R235). -/
abbrev Panel := List (List Nat)

/-- Static tag of a value (R234). -/
inductive VTag | fp | int | qnt
  deriving DecidableEq, Repr

/-- Operands that an operation reads: A, B, C (R236). -/
def vReads (code : Nat) : Bool × Bool × Bool :=
  if [0x04, 0x05, 0x19, 0x1A, 0x2C].contains code then (true, true, true)
  else if code == 0x2E then (false, false, false)
  else if [0x08, 0x09, 0x0B, 0x0C, 0x24, 0x1E, 0x2A, 0x2B, 0x2D, 0x2F].contains code
      || (0x0E ≤ code && code ≤ 0x18) then (true, false, false)
  else (true, true, false)

/-- C holds a modifier instead of a selector (R232). -/
def vModifier (code : Nat) : Bool := code == 0x2A || code == 0x2B || code == 0x2E

/-- Assigned element operation codes (R117). -/
def vAssigned (code : Nat) : Bool := 1 ≤ code && code ≤ 0x2F

/-- Axis codes (R118). -/
def axAssigned (code : Nat) : Bool := 0x41 ≤ code && code ≤ 0x48

/-! ## Element operations (R236 to R247) -/

/-- A compare's result. -/
def vBool (r : Bool × Flags) : Nat × Flags := (if r.1 then 0xFFFFFFFF else 0, r.2)

/-- VFLOOR, VCEIL and VRNDI: the integral value by a rounding mode, without NX (R236). -/
def vIntegral (env : Env) (rm : Nat) (a : Nat) : Nat × Flags :=
  match f32In env a with
  | .nan s => nanResult [.nan s]
  | .inf s => (inf32 s, 0)
  | .num s m e =>
    if m == 0 then (withSign 0 s, 0)
    else
      let (n, d) := scaleRat m 1 e
      ((Fp.fp32.round Env.rne s (roundDiv rm s n d) 1 0).1, 0)

/-- An exact operation on the sign: VABS, VNEG and VCPSGN (R236). -/
def vSign (env : Env) (a : Nat) (neg : Bool → Bool) : Nat × Flags :=
  match f32In env a with
  | .nan s => nanResult [.nan s]
  | .inf s => (inf32 (neg s), 0)
  | .num s m e => exact32 env (.num (neg s) m e)

/-- Formats of VCVT modifiers 0x02 to 0x08 (R237). -/
def cvtFormat (m : Nat) : Fp :=
  match m with
  | 0x02 => .bf16 | 0x03 => .fp16 | 0x04 => .e4m3 | 0x05 => .e5m2 | 0x06 => .e3m2 | 0x07 => .e2m3 | _ => .e2m1

/-- A pattern as a 32-bit signed integer, and back. -/
def patOf (v : Int) : Nat := (v % 2 ^ 32).toNat

/-- VCVT (R237). -/
def vCvt (env : Env) (m a : Nat) : Nat × Flags :=
  if m == 0 then
    let r := toInt env 32 (f32In env a)
    (patOf r.1, r.2)
  else if m == 1 then Fp.fp32.convert env (ofInt (signedOf 32 a))
  else
    let r := f32To env (cvtFormat m) a
    let w := widenNarrow env (cvtFormat m) r.1
    (w.1, r.2 ||| w.2)

/-- VDQ: (q − z) × s with one rounding (R245). -/
def vDq (env : Env) (q s z : Nat) : Nat × Flags :=
  let d := signedOf 32 q - signedOf 32 z
  match f32In env s with
  | .nan g => (cnan32, if g then fNV else 0)
  | .inf n => if d == 0 then (cnan32, fNV) else (inf32 (n != decide (d < 0)), 0)
  | .num n m e => Fp.fp32.convert env (.num (n != decide (d < 0)) (d.natAbs * m) e)

/-- An element operation on one lane; `m` is the modifier in C (R236).  VSQRT, which R88 and R238 name, has no code in R117, so no
code selects it here: no command of the model computes it (DEDUCED, log 61). -/
def vLane (env : Env) (code m a b c : Nat) : Nat × Flags :=
  match code with
  | 0x01 => f32Add env a b
  | 0x02 => f32Sub env a b
  | 0x03 => f32Mul env a b
  | 0x04 => f32Fma env a b c
  | 0x05 => match f32In env c with
    | .nan _ => f32Fma env a b c
    | _ => f32Fma env a b (negCode c)
  | 0x06 => f32Min env a b
  | 0x07 => f32Max env a b
  | 0x08 => vSign env a fun _ => false
  | 0x09 => vSign env a fun s => !s
  | 0x0A =>
    let r := vSign env a fun _ => b.testBit 31
    (r.1, r.2 ||| if (Fp.fp32.decode b).isSig then fNV else 0)
  | 0x0B => vRcp env a
  | 0x0C => vRsq env a
  | 0x0D => f32Div env a b
  | 0x0E => vExp2 env.ftz a
  | 0x0F => vLog2 env.ftz a
  | 0x10 => vExp env.ftz a
  | 0x11 => vLog env.ftz a
  | 0x12 => vTanh env.ftz a
  | 0x13 => vSigm env.ftz a
  | 0x14 => vGelu env.ftz a
  | 0x15 => vSin env.ftz a
  | 0x16 => vCos env.ftz a
  | 0x17 => vIntegral env 2 a
  | 0x18 => vIntegral env 3 a
  | 0x19 =>
    let r := f32Max env a b
    let q := f32Min env r.1 c
    (q.1, r.2 ||| q.2)
  | 0x1A => (if a != 0 then b else c, 0)
  | 0x1B => vBool (f32Cmp env .eq a b)
  | 0x1C => vBool (f32Cmp env .lt a b)
  | 0x1D => vBool (f32Cmp env .le a b)
  | 0x1E => vBool ((Fp.fp32.decode a).isNan, 0)
  | 0x1F => ((a + b) % 2 ^ 32, 0)
  | 0x20 => ((a + 2 ^ 32 - b) % 2 ^ 32, 0)
  | 0x21 => (a * b % 2 ^ 32, 0)
  | 0x22 => (if signedOf 32 a < signedOf 32 b then b else a, 0)
  | 0x23 => (if signedOf 32 b < signedOf 32 a then b else a, 0)
  | 0x24 => vIntegral env env.rm a
  | 0x25 => (a &&& b, 0)
  | 0x26 => (a ||| b, 0)
  | 0x27 => (a ^^^ b, 0)
  | 0x28 => (a * 2 ^ (b % 32) % 2 ^ 32, 0)
  | 0x29 => (a / 2 ^ (b % 32), 0)
  | 0x2A => vCvt env m a
  | 0x2C => vDq env a b c
  | _ => (a, 0)

/-- OR of the flags of a list. -/
def orFlags (l : List Flags) : Flags := l.foldl (· ||| ·) 0

/-- A panel whose first `rows` rows are given. -/
def padRows (l : List (List Nat)) : Panel := l ++ List.replicate (16 - l.length) (List.replicate 64 0)

def zeroPanel : Panel := List.replicate 16 (List.replicate 64 0)

/-- A panel of one pattern in its active rows. -/
def fillPanel (rows v : Nat) : Panel := padRows (List.replicate rows (List.replicate 64 v))

/-- Element `(r, c)`. -/
def Panel.cell (p : Panel) (r c : Nat) : Nat := (p[r]?.getD []).getD c 0

/-- An element operation over the active lanes. -/
def vMap (env : Env) (code m rows : Nat) (a b c : Panel) : Panel × Flags :=
  let rs := (List.range rows).map fun r =>
    ((a.getD r []).zip ((b.getD r []).zip (c.getD r []))).map fun l => vLane env code m l.1 l.2.1 l.2.2
  (padRows (rs.map fun row => row.map (·.1)), orFlags (rs.map fun row => orFlags (row.map (·.2))))

/-- A panel given by its lanes. -/
def lanePanel (rows : Nat) (f : Nat → Nat → Nat) : Panel :=
  padRows ((List.range rows).map fun r => (List.range 64).map (f r))

/-- VIOTA (R247). -/
def vIota (m rows serial : Nat) : Panel :=
  lanePanel rows fun r c => match m with
    | 0 => c
    | 1 => r
    | 2 => 64 * r + c
    | _ => serial % 2 ^ 32

/-- VBSCL (R246), from the two scale words of each row. -/
def vBscl (rows : Nat) (ws : List (Nat × Nat)) : Panel :=
  lanePanel rows fun r c =>
    let p := ws[r]?.getD (0, 0)
    let w := if c < 32 then p.1 else p.2
    if swFmt w == 0 then 0
    else if swExp w == 0xFF then cnan32
    else (Fp.fp32.convert Env.rne (scaleNum w (.num false 1 0))).1

/-- Port code of VQNT's target (R244). -/
def qntCode (m : Nat) : Nat := [0x21, 0x22, 0x41, 0x42, 0x61, 0x62, 0x63].getD m 0x23

/-- A quantised row: two scale words with their codes. -/
abbrev QRow := (Nat × List Nat) × (Nat × List Nat)

/-- VQNT (R244). -/
def vQnt (env : Env) (m rows : Nat) (a : Panel) : List QRow × Flags :=
  match narrowOf (qntCode m) with
  | none => ([], 0)
  | some f =>
    let rs := (a.take rows).map fun row =>
      (quantise env (qntCode m) f (row.take 32), quantise env (qntCode m) f (row.drop 32))
    (rs.map fun p => ((p.1.1, p.1.2.1), (p.2.1, p.2.2.1)), orFlags (rs.map fun p => p.1.2.2 ||| p.2.2.2))

/-! ## Axis operations (R249) -/

/-- One axis operation with its parameter over a source panel. -/
def axisOp (env : Env) (isInt : Bool) (code sub k rows : Nat) (v : Panel) : Panel × Flags :=
  let op := redOpOf sub
  match code with
  | 0x41 =>
    let rs := (v.take rows).map fun row => treeReduce env isInt op row
    (padRows (rs.map fun r => List.replicate 64 r.1), orFlags (rs.map (·.2)))
  | 0x42 =>
    let rs := (List.range 64).map fun c => treeReduce env isInt op ((List.range rows).map fun r => v.cell r c)
    (padRows (List.replicate rows (rs.map (·.1))), orFlags (rs.map (·.2)))
  | 0x43 => (lanePanel rows fun r c => v.cell r ((c + 64 - k) % 64), 0)
  | 0x44 => (lanePanel rows fun r c => v.cell ((r + 16 - k) % 16) c, 0)
  | 0x45 => (lanePanel rows fun r _ => v.cell r k, 0)
  | 0x46 => (lanePanel rows fun _ c => v.cell k c, 0)
  | 0x47 =>
    let rs := (v.take rows).map fun row => scanRow env isInt op row
    (padRows (rs.map (·.1)), orFlags (rs.map (·.2)))
  | _ => (lanePanel rows fun r c => v.cell (c % 16) (16 * (c / 16) + r), 0)

/-! ## Ports -/

/-- Width in bits of a port's format (R226); the per-block class codes have their class's width. -/
def portWidth (fmt : Nat) : Nat :=
  match fmt / 32 with
  | 0 => 1 | 1 => 4 | 2 => 6 | 3 => 8 | 4 => 16 | _ => 32

/-- bb of R226: bytes of a unit of 32 elements. -/
def unitBytes (fmt : Nat) : Nat := 4 * portWidth fmt

/-- The seven fixed scaled codes of R228. -/
def fixedScaled (fmt : Nat) : Bool := [0x21, 0x22, 0x41, 0x42, 0x61, 0x62, 0x63].contains fmt

/-- The per-block class codes (R228). -/
def classCode (fmt : Nat) : Bool := fmt == 0x3F || fmt == 0x5F || fmt == 0x7F

/-- Formats that an input port accepts, and those that an output port accepts (R228). -/
def outFmtOk (fmt : Nat) : Bool := fixedScaled fmt || [0x01, 0x64, 0x81, 0x82, 0xA1, 0xA2].contains fmt
def inFmtOk (fmt : Nat) : Bool := outFmtOk fmt || classCode fmt

/-- ECC for a poison block, and FORMAT for a scale word, at its byte address (R230, R252).  The implied scale word of a port that
reads unscaled has no address: that of its unit's payload is reported (log 25). -/
def poisonTrap (a : Int) : Trap := ⟨Cause.ecc, 1, BitVec.ofNat 64 (a % 2 ^ 52).toNat⟩
def scaleTrap (sub : Byte) (w : Nat) (a : Int) : Trap :=
  ⟨Cause.format, sub, BitVec.ofNat 64 (w % 2 ^ 32 + (a % 2 ^ 32).toNat * 2 ^ 32)⟩

/-- The rows of R230 for one scale word: poison, CODE, AUXBAD.  `cb4` says whether CB4 is accepted, and which
codebooks are loaded (R265). -/
def checkScale (fmt w : Nat) (a : Int) (cb4 : Option (Nat → Bool)) : Except Trap Unit :=
  let f := swFmt w
  if f == 0xFF then .error (poisonTrap a)
  else if f == 0 then .ok ()
  else
    match narrowOf f with
    | none => .error (scaleTrap Sub.code w a)
    | some n =>
      let fits := if classCode fmt then fmtClass f == fmtClass fmt else f == fmt
      if !fits || (n == .cb4 && cb4.isNone) then .error (scaleTrap Sub.code w a)
      else if !auxOk n (swAux w) (cb4.getD fun _ => false) then .error (scaleTrap Sub.auxbad w a)
      else .ok ()

/-- An unscaled element as a port delivers it (R228, R229). -/
def portElem (env : Env) (fmt c : Nat) : Nat × Flags :=
  match fmt with
  | 0x81 => widenNarrow env .bf16 c
  | 0x82 => widenNarrow env .fp16 c
  | 0x01 | 0x64 | 0xA1 | 0xA2 => (c, 0)
  | _ =>
    match narrowOf fmt with
    | some (.fp g) => widenNarrow env g c
    | some (.int w) => (patOf (signedOf w c), 0)
    | _ => (c, 0)

/-- A row of 64 unscaled elements. -/
def plainRow (env : Env) (fmt : Nat) (bs : List Byte) : List Nat × Flags :=
  let rs := (elemsOf bs (portWidth fmt) 64).map (portElem env fmt)
  (rs.map (·.1), orFlags (rs.map (·.2)))

/-- A block of 32 scaled elements as FP32 (R230, R73). -/
def scaledBlock (env : Env) (w : Nat) (bs : List Byte) (fmt : Nat) : List Nat × Flags :=
  match narrowOf (swFmt w) with
  | none => (List.replicate 32 0, 0)
  | some f =>
    let rs := (elemsOf bs (portWidth fmt) 32).map fun c => dequant env w f (fun _ => 0) c
    (rs.map (·.1), orFlags (rs.map (·.2)))

/-- Conversion of one element at an output port (R231).  BIN1 takes a subnormal source as it is, also with FTZ = 1 (log 60). -/
def outElem (env : Env) (fmt : Nat) (tag : VTag) (x : Nat) : Nat × Flags :=
  let int := tag == .int
  match fmt with
  | 0xA1 => if int then Fp.fp32.convert env (ofInt (signedOf 32 x)) else (x, 0)
  | 0x81 => if int then Fp.bf16.convert env (ofInt (signedOf 32 x)) else f32To env .bf16 x
  | 0x82 => if int then Fp.fp16.convert env (ofInt (signedOf 32 x)) else f32To env .fp16 x
  | 0xA2 =>
    if int then (x, 0)
    else
      let r := toInt env 32 (f32In env x)
      (patOf r.1, r.2)
  | 0x64 =>
    if int then
      let v := signedOf 32 x
      if v < 0 then (0, fNV) else if v > 255 then (255, fNV) else (x, 0)
    else
      let r := toUInt env 8 (f32In env x)
      (r.1.toNat, r.2)
  | _ => (if (if int then x else absCode x) != 0 then 1 else 0, 0)

end Sys2Proof.Machine
end

