-- ==== Sys2Proof/Machine/Matrix.lean ====
section
/-! DEFINITION. The matrix engine (R258 to R271) and its arithmetic (R76 to R82). -/

namespace Sys2Proof.Machine

/-! ## Template fields (R258) -/

def mOp (t : TemplateBits) : Nat := bitsAt (tF t 0) 0 8
def mCint (t : TemplateBits) : Bool := bitAt (tF t 0) 9
def mBand (t : TemplateBits) : Bool := bitAt (tF t 0) 10
def mBcol (t : TemplateBits) : Bool := bitAt (tF t 0) 11
def mFmtA (t : TemplateBits) : Nat := bitsAt (tF t 3) 0 8
def mFmtB (t : TemplateBits) : Nat := bitsAt (tF t 3) 8 8
def mFmtD (t : TemplateBits) : Nat := bitsAt (tF t 4) 0 8
def mUscA (t : TemplateBits) : Bool := bitAt (tF t 4) 8
def mUscB (t : TemplateBits) : Bool := bitAt (tF t 4) 9
def mMca (t : TemplateBits) : Bool := bitAt (tF t 4) 10
def mMcb (t : TemplateBits) : Bool := bitAt (tF t 4) 11
def mSwz (t : TemplateBits) : Nat := bitsAt (tF t 4) 12 2
def mBase (t : TemplateBits) (f : Nat) : Nat := tN t f 2 % 2 ^ 25
def mImax (t : TemplateBits) : Nat := tN t 21 1
def mCount (t : TemplateBits) (l : Nat) : Nat := tN t (24 + 5 * l) 1

/-- Number of steps (R259). -/
def mSteps (t : TemplateBits) : Nat := (List.range 6).foldl (fun n l => n * mCount t l) 1

/-- Index of level `l` in step `k`, L0 innermost. -/
def mIndex (t : TemplateBits) (k l : Nat) : Nat :=
  k / ((List.range l).foldl (fun n j => n * mCount t j) 1) % mCount t l

/-- Unit offset of a step: `j` is 1 to 4 for A, B, C and D (R259). -/
def mOffset (t : TemplateBits) (j k : Nat) : Int :=
  (List.range 6).foldl (fun u l => u + mIndex t k l * tZ t (24 + 5 * l + j) 1) 0

/-! ## Decoded blocks (R76, R78) -/

/-- Exponent of a format's unit u (R76). -/
def unitExp : Narrow → Int
  | .fp .e2m1 => -1 | .fp .e2m3 => -3 | .fp .e3m2 => -4 | .fp .e4m3 => -9 | .fp _ => -16
  | .int _ => 0
  | .cb4 => -23

/-- A finite value divided by 2^x, exactly an integer (R76). -/
def unitsOf (x : Int) : Num → Int
  | .num s m e =>
    let d := e - x
    let v : Int := if d ≥ 0 then m * 2 ^ d.toNat else m / 2 ^ (-d).toNat
    if s then -v else v
  | _ => 0

def Num.isInf : Num → Bool
  | .inf _ => true
  | _ => false

/-- A block as an MMA step reads it: its scale word, its elements before scaling, and the finite ones in units. -/
structure Blk where
  word : Nat
  els : List Num
  units : List Int
  unit : Int
  finite : Bool

/-- Decodes a block of 32 codes (R60, R76); `cb` are the codebooks of CBOBJ. -/
def Blk.of (w width : Nat) (bs : List Byte) (cb : Nat → Nat → Nat) : Blk :=
  match narrowOf (swFmt w) with
  | none => ⟨w, [], [], 0, true⟩
  | some f =>
    let z := match f with
      | .int _ => zeroPoint w
      | _ => 0
    let els := (elemsOf bs width 32).map (f.value z (cb (swAux w)))
    ⟨w, els, els.map (unitsOf (unitExp f)), unitExp f, els.all fun v => !(v.isNan || v.isInf)⟩

/-- What a pair of blocks contributes (R78). -/
inductive Contrib
  | none
  | nan (fl : Flags)
  | inf (neg : Bool)
  | num (neg : Bool) (m : Nat) (e : Int)
  deriving DecidableEq, Repr

/-- An exact sum as a contribution. -/
def Contrib.ofInt (s : Int) (e : Int) : Contrib := if s == 0 then .none else .num (s < 0) s.natAbs e

/-- Infinite products, invalid products and NaN elements of two rows (R78). -/
def specialPair (a b : List Num) : Option Contrib :=
  let ps := a.zip b
  let prods := ps.map fun p => mulExact p.1 p.2
  let infs := prods.filterMap fun p => match p with
    | some (.inf s) => some s
    | _ => none
  if ps.any (fun p => p.1.isNan || p.2.isNan) || prods.any (·.isNone) || infs.contains true && infs.contains false then
    some (.nan fNV)
  else infs.head?.map .inf

/-- Sum of products of two integer rows. -/
def dot (a b : List Int) : Int := (a.zip b).foldl (fun s p => s + p.1 * p.2) 0

/-- block_pair (R78). -/
def blockPair (a b : Blk) : Contrib :=
  if swFmt a.word == 0 || swFmt b.word == 0 then .none
  else if swExp a.word == 0xFF || swExp b.word == 0xFF then .nan 0
  else
    match (if a.finite && b.finite then Option.none else specialPair a.els b.els) with
    | some c => c
    | Option.none =>
      .ofInt (dot a.units b.units * (256 + swFine a.word) * (256 + swFine b.word))
        (a.unit + b.unit + swExp a.word + swExp b.word - 270)

/-- floor(v / 2^q) of a finite product. -/
def floorAt (q : Int) : Num → Int
  | .num s m e =>
    let d := e - q
    if d ≥ 0 then (if s then -(m * 2 ^ d.toNat : Nat) else (m * 2 ^ d.toNat : Nat))
    else (if s then -((m : Int)) else m) / 2 ^ (-d).toNat
  | _ => 0

/-- A BF16 step for one cell (R80). -/
def bf16Pair (a b : List Num) : Contrib :=
  match specialPair a b with
  | some c => c
  | Option.none =>
    let ps := (a.zip b).filterMap fun p => match mulExact p.1 p.2 with
      | some (.num s m e) => if m == 0 then Option.none else some (Num.num s m e)
      | _ => Option.none
    let lg := ps.map fun p => match p with
      | .num _ m e => (m.log2 : Int) + e
      | _ => 0
    match lg with
    | [] => .none
    | l :: ls =>
      let q := ls.foldl max l - 62
      .ofInt (ps.foldl (fun s p => s + floorAt q p) 0) q

/-- The promotion of a contribution into a cell (R79). -/
def promote (env : Env) (c : Nat) : Contrib → Nat × Flags
  | .none => (c, 0)
  | .nan fl => (cnan32, fl)
  | .inf s => addVal env (f32In env c) (.inf s)
  | .num s m e => addVal env (f32In env c) (.num s m e)

/-! ## Start checks (R256, R264, R265, R270) -/

def fixedNarrow (f : Nat) : Bool := (narrowOf f).isSome
def mmaFmt (f : Nat) : Bool := fixedNarrow f || classCode f || f == 0x81

/-- A pair of fixed format codes, or of a block's codes, that R77 permits. -/
def pairOk (a b : Nat) : Bool :=
  if a == 0x81 || b == 0x81 then a == b
  else !(a == 0x23 && (b == 0x23 || b == 0x62) || b == 0x23 && a == 0x62)

/-- Both ports read INT4 or INT8 unscaled (R265). -/
def intPair (t : TemplateBits) : Bool :=
  (mFmtA t == 0x22 || mFmtA t == 0x63) && mUscA t && (mFmtB t == 0x22 || mFmtB t == 0x63) && mUscB t

/-- CINT as R264 gives it for an operation: none where it is free. -/
def cintRule (op : Nat) : Option Bool :=
  match op with
  | 0x02 | 0x07 | 0x08 => some false
  | 0x03 => some true
  | _ => none

def usesA (t : TemplateBits) : Bool := [0x01, 0x02, 0x03, 0x08, 0x0A].contains (mOp t)
def usesB (t : TemplateBits) : Bool := [0x01, 0x02, 0x03].contains (mOp t)
def usesC (t : TemplateBits) : Bool := 1 ≤ mOp t && mOp t ≤ 9
def usesD (t : TemplateBits) : Bool := [0x05, 0x06, 0x07, 0x0A].contains (mOp t) || mOp t == 0x09 && mSwz t != 0

def fmtAOk (t : TemplateBits) : Bool :=
  match mOp t with
  | 0x01 => mmaFmt (mFmtA t)
  | 0x02 => mFmtA t == 0x81
  | 0x03 => mFmtA t == 0x01
  | 0x08 => mFmtA t == 0xA1 || mFmtA t == 0x81
  | 0x0A => mmaFmt (mFmtA t) || mFmtA t == 0x01
  | _ => true

def fmtBOk (t : TemplateBits) : Bool :=
  match mOp t with
  | 0x01 => mmaFmt (mFmtB t)
  | 0x02 => mFmtB t == 0x81
  | 0x03 => mFmtB t == 0x01
  | _ => true

def fmtDOk (t : TemplateBits) : Bool :=
  let f := mFmtD t
  match mOp t with
  | 0x05 => f == 0xA1 || f == 0x81 || f == 0x82 || f == 0xA2 && mCint t
  | 0x06 => f == 0xA1 || f == 0x81 || f == 0x82 || f == 0xA2
  | 0x07 => fixedScaled f || f == 0x23
  | 0x09 => mSwz t == 0 || f == (if mCint t then 0xA2 else 0xA1)
  | 0x0A => f == mFmtA t
  | _ => true

/-- FORMAT found by a matrix command's start checks (R61). -/
def mFormat (t : TemplateBits) (sub : Byte) : Trap :=
  ⟨Cause.format, sub, BitVec.ofNat 64 (mFmtA t + mFmtB t * 2 ^ 8 + mFmtD t * 2 ^ 16)⟩

/-- The multicast group of a port names an entry in which the issuing context is a member (R263). -/
def State.mcastOk (s : State) (x : Ctx) (g : Byte) : Bool := (s.groupMask x g).getLsbD x.rank

/-- The start checks of a matrix command (R256, R270).  MCA and MCB are checked on ports that the operation reads, and on no other
(DEDUCED, log 25). -/
def State.matChecks (s : State) (x : Ctx) (c : Cmd) : Except Trap Unit :=
  let t := c.bits
  let op := mOp t
  let mayUsc := op == 0x01 || op == 0x0A
  checkAll <|
    [(op == 0 || 0x0C < op, engTrap Sub.badop 0)]
    ++ commonChecks x .mxq c
    ++ ([(0, 12, 4), (1, 11, 5), (4, 14, 2), (9, 9, 7), (11, 9, 7), (13, 9, 7), (15, 9, 7), (23, 9, 7)]
        ++ (List.range 10).map fun k => (54 + k, 0, 16)).map (resCheck t)
    ++ [((cintRule op).any fun v => v != mCint t, badFld 0),
        (mUscA t && !(mayUsc && fixedNarrow (mFmtA t)), badFld 4),
        (mUscB t && !(mayUsc && fixedNarrow (mFmtB t)), badFld 4),
        (usesA t && mBase t 8 % 8 != 0, badFld 8),
        (usesB t && mBase t 10 % 8 != 0, badFld 10),
        (usesC t && mBase t 12 % 8 != 0, badFld 12),
        (usesD t && mBase t 14 % 8 != 0, badFld 14),
        (op == 0x0A && mBase t 22 % 8 != 0, badFld 22),
        (op == 0x09 && mSwz t == 3, badFld 4),
        (usesA t && mMca t && !s.mcastOk x ((tF t 5).extractLsb' 0 8), badFld 5),
        (usesB t && mMcb t && !s.mcastOk x ((tF t 5).extractLsb' 8 8), badFld 5),
        (op == 0x0A && mImax t == 0, badFld 21),
        (!fmtAOk t, mFormat t Sub.code), (!fmtBOk t, mFormat t Sub.code), (!fmtDOk t, mFormat t Sub.code),
        (op == 0x07 && mFmtD t == 0x23, ⟨Cause.format, Sub.qdst, 0x23⟩),
        (op == 0x01 && (!pairOk (mFmtA t) (mFmtB t) || mCint t != intPair t), mFormat t Sub.pair)]

/-! ## Addresses of a step (R259) -/

def payloadAt (t : TemplateBits) (f fmt : Nat) (u : Int) : Int := mBase t f + u * unitBytes fmt
def mScaleAt (t : TemplateBits) (f soff : Nat) (u : Int) : Int := mBase t f + 256 * tN t soff 1 + 4 * u

/-- A port reads scale words. -/
def mScaled (fmt : Nat) (usc : Bool) : Bool := (fixedNarrow fmt || classCode fmt) && !usc

/-- Units of port A in a step, ascending. -/
def aUnits (t : TemplateBits) (k : Nat) : List Int :=
  let p := tZ t 6 1
  let ua := mOffset t 1 k
  match mOp t with
  | 0x02 => (List.range 32).flatMap fun (j : Nat) => [j * p + ua, j * p + ua + 1]
  | 0x08 => [ua, ua + 1]
  | _ => (List.range 64).map fun (i : Nat) => i * p + ua

def bUnits (t : TemplateBits) (k : Nat) : List Int := (List.range 64).map fun (j : Nat) => j * tZ t 7 1 + mOffset t 2 k

/-- First unit of each D row. -/
def dUnits (t : TemplateBits) (k : Nat) : List Int := (List.range 64).map fun (i : Nat) => i * tZ t 16 1 + mOffset t 4 k

/-- Accesses of `n` units one after another: their payloads, then their scale words; each lies in one window (R260). -/
def unitAcc (t : TemplateBits) (f fmt soff n : Nat) (scaled : Bool) (u : Int) : List (Int × Nat) :=
  (List.range n).map (fun (j : Nat) => (payloadAt t f fmt (u + j), unitBytes fmt)) ++
    if scaled then (List.range n).map fun (j : Nat) => (mScaleAt t f soff (u + j), 4) else []

def aAcc (t : TemplateBits) (k : Nat) : List (Int × Nat) :=
  (aUnits t k).flatMap (unitAcc t 8 (mFmtA t) 17 1 (mScaled (mFmtA t) (mUscA t)))
def bAcc (t : TemplateBits) (k : Nat) : List (Int × Nat) :=
  (bUnits t k).flatMap (unitAcc t 10 (mFmtB t) 18 1 (mScaled (mFmtB t) (mUscB t)))
def cAcc (t : TemplateBits) (k : Nat) : List (Int × Nat) :=
  (List.range 64).map fun (i : Nat) => ((mBase t 12 : Int) + 256 * (mOffset t 3 k + i), 256)
/-- D of MGATH has scale words whenever its format is scaled: a port A that reads unscaled gives the implied one of R63 (R269,
R271, log 24). -/
def dAcc (t : TemplateBits) (k : Nat) : List (Int × Nat) :=
  let n := if mOp t == 0x0A then 1 else 2
  (dUnits t k).flatMap (unitAcc t 14 (mFmtD t) 19 n (mScaled (mFmtD t) false))

/-- Places of a list of accesses (R260). -/
def State.matPlaces (s : State) (w : Who) (roles : List Nat) (out : Bool) (l : List (Int × Nat)) : Except Trap (List Nat) :=
  l.foldr (fun a r => match s.portAddr w roles out a.1 a.2, r with
    | .error t, _ => .error t
    | .ok _, .error t => .error t
    | .ok p, .ok ps => .ok (p :: ps)) (.ok [])

/-! ## Reading the operands of a step -/

/-- Bytes at a place, those delivered by a multicast fetch first (R263). -/
def State.matRead (s : State) (w : Who) (c : Cmd) (p n : Nat) : State × List Byte :=
  let (s1, bs) := s.portRead w c p n
  (s1, overlay c.placed p bs)

/-- Reads a list of accesses. -/
def State.matReads (s : State) (w : Who) (c : Cmd) : List Nat → List (Int × Nat) → State × List (List Byte)
  | p :: ps, a :: as =>
    let (s1, bs) := s.matRead w c p a.2
    let (s2, rest) := s1.matReads w c ps as
    (s2, bs :: rest)
  | _, _ => (s, [])

/-- Codebooks of CBOBJ on this package (R265). -/
def State.codebooks (s : State) (x : Ctx) (t : TemplateBits) (k : Nat) : Option (Vector (BitVec 16) 16) :=
  (s.objOf x (tN t 20 1)).bind fun o => (o.codebooks[k]?).join

/-- Entry `q` of a codebook as a BF16 code. -/
def entryOf (cb : Option (Vector (BitVec 16) 16)) (q : Nat) : Nat := (cb.bind fun v => v[q]?).elim 0 (·.toNat)

/-- Scale words of a port's units: those read, or the implied one of R63. -/
def wordsOf (fmt : Nat) (scaled : Bool) (bs : List (List Byte)) : List (Nat × List Byte) :=
  if scaled then
    (List.range (bs.length / 2)).map fun i => (leNat (bs.getD (2 * i + 1) []), bs.getD (2 * i) [])
  else bs.map fun b => (fmt + 127 * 2 ^ 8, b)

/-- The scale-word checks of a port, units ascending, poison first (R270 step 2). -/
def scaleChecks (fmt : Nat) (loaded : Nat → Bool) (addr : Nat → Int) (poison : Nat → Option Trap) :
    Nat → List (Nat × List Byte) → Except Trap Unit
  | _, [] => .ok ()
  | i, (w, _) :: rest =>
    match poison i, checkScale fmt w (addr i) (some loaded) with
    | some t, _ => .error t
    | none, .error t => .error t
    | none, .ok _ => scaleChecks fmt loaded addr poison (i + 1) rest

/-- Poison in the scale word of unit `i` of a port that reads scale words. -/
def State.scalePoison (s : State) (acc : List (Int × Nat)) (ps : List Nat) (i : Nat) : Option Trap :=
  s.payloadPoison ((acc.drop (2 * i + 1)).take 1) ((ps.drop (2 * i + 1)).take 1)

/-- First cell in row-major order whose pair of blocks R77 does not permit (R270); zero blocks pair with any. -/
def badPair (a b : List (Nat × List Byte)) : Option Nat :=
  a.findIdx? fun x => b.any fun y =>
    swFmt x.1 != 0 && swFmt y.1 != 0 && !pairOk (swFmt x.1) (swFmt y.1)

/-- Cells of a tile from its 64 rows. -/
def cellsOf (rows : List (List Byte)) : List (List Nat) := rows.map fun r => elemsOf r 32 64

/-- Applies a function of the row and column indices to every cell. -/
def mapCells (c : List (List Nat)) (f : Nat → Nat → Nat → Nat × Flags) : List (List Nat) × Flags :=
  let rs := c.mapIdx fun i row => row.mapIdx fun j v => f i j v
  (rs.map fun r => r.map (·.1), orFlags (rs.map fun r => orFlags (r.map (·.2))))

/-- A result of a step: new C rows, D writes as bytes in the order of its accesses, and the flags raised. -/
structure StepOut where
  c : Option (List (List Nat))
  d : List (List Byte)
  fl : Flags

/-- Element `i` of a list of BF16 units that lie one after another. -/
def bf16Of (units : List (List Byte)) : List (List Num) := units.map fun u => (elemsOf u 16 32).map Fp.bf16.decode

/-- MMA and MMAT over a tile (R265, R266). -/
def mmaTile (env : Env) (t : TemplateBits) (cb : Nat → Nat → Nat) (a b : List (Nat × List Byte)) (c : List (List Nat)) : StepOut :=
  let r :=
    if mOp t == 0x02 then
      let us := bf16Of (a.map (·.2))
      let rows := (List.range 64).map fun i => (List.range 32).map fun k => (us.getD (2 * k + i / 32) []).getD (i % 32) (.num false 0 0)
      let cols := bf16Of (b.map (·.2))
      mapCells c fun i j v => promote env v (bf16Pair (rows.getD i []) (cols.getD j []))
    else if mFmtA t == 0x81 then
      let rows := bf16Of (a.map (·.2))
      let cols := bf16Of (b.map (·.2))
      mapCells c fun i j v => promote env v (bf16Pair (rows.getD i []) (cols.getD j []))
    else
      let blk := fun (fmt : Nat) (x : Nat × List Byte) => Blk.of x.1 (portWidth fmt) x.2 cb
      let zero : Blk := ⟨0, [], [], 0, true⟩
      let rows := a.map (blk (mFmtA t))
      let cols := b.map (blk (mFmtB t))
      if mCint t then
        mapCells c fun i j v => (patOf (v + dot (rows.getD i zero).units (cols.getD j zero).units), 0)
      else mapCells c fun i j v => promote env v (blockPair (rows.getD i zero) (cols.getD j zero))
  ⟨some r.1, [], r.2⟩

/-- MMAB over a tile (R267). -/
def mmabTile (t : TemplateBits) (a b : List (Nat × List Byte)) (c : List (List Nat)) : StepOut :=
  let bit := fun (l : List (Nat × List Byte)) i => leNat ((l.getD i (0, [])).2)
  let r := mapCells c fun i j v =>
    let x := if mBand t then bit a i &&& bit b j else bit a i ^^^ bit b j
    ((v + popcount (BitVec.ofNat 32 x)) % 2 ^ 32, 0)
  ⟨some r.1, [], 0⟩

/-- A row of two units, as its units. -/
def halves (bs : List Byte) : List (List Byte) := [bs.take (bs.length / 2), bs.drop (bs.length / 2)]

/-- Two units as a row. -/
def joinUnits : List (List Byte) → List (List Byte)
  | a :: b :: rest => (a ++ b) :: joinUnits rest
  | l => l

/-- D rows of a plain format from a tile. -/
def dRows (env : Env) (t : TemplateBits) (tag : VTag) (c : List (List Nat)) : StepOut :=
  let rs := c.map fun row => row.map (outElem env (mFmtD t) tag)
  ⟨none, rs.flatMap fun r => halves (packElems (portWidth (mFmtD t)) (r.map (·.1))), orFlags (rs.map fun r => orFlags (r.map (·.2)))⟩

/-- D rows of MSTCQ (R268): payload of both blocks, then their scale words. -/
def quantRows (env : Env) (t : TemplateBits) (c : List (List Nat)) : StepOut :=
  match narrowOf (mFmtD t) with
  | none => ⟨none, [], 0⟩
  | some f =>
    let rs := c.map fun row => (quantise env (mFmtD t) f (row.take 32), quantise env (mFmtD t) f (row.drop 32))
    ⟨none, rs.flatMap fun p => packElems (portWidth (mFmtD t)) p.1.2.1 ::
        [packElems (portWidth (mFmtD t)) p.2.2.1, leBytes 4 p.1.1, leBytes 4 p.2.1],
      orFlags (rs.map fun p => p.1.2.2 ||| p.2.2.2)⟩

/-- The transpose of a tile. -/
def transposeCells (c : List (List Nat)) : List (List Nat) :=
  (List.range 64).map fun i => (List.range 64).map fun j => (c.getD j []).getD i 0

/-- What a step computes from its operands (R265 to R268). -/
def stepOut (t : TemplateBits) (cb : Nat → Nat → Nat) (a b : List (Nat × List Byte)) (c : List (List Nat))
    (d : List (List Byte)) : StepOut :=
  let env := Env.of (tF t 2)
  let tag : VTag := if mCint t then .int else .fp
  match mOp t with
  | 0x01 | 0x02 => mmaTile env t cb a b c
  | 0x03 => mmabTile t a b c
  | 0x04 => ⟨some (List.replicate 64 (List.replicate 64 0)), [], 0⟩
  | 0x05 =>
    let rs := (joinUnits d).map fun row => (elemsOf row (portWidth (mFmtD t)) 64).map fun v =>
      match mFmtD t with
      | 0xA2 => (v, 0)
      | 0x81 => widenNarrow env .bf16 v
      | 0x82 => widenNarrow env .fp16 v
      | _ => widenNarrow env .fp32 v
    ⟨some (rs.map fun r => r.map (·.1)), [], orFlags (rs.map fun r => orFlags (r.map (·.2)))⟩
  | 0x06 => dRows env t tag c
  | 0x07 => quantRows env t c
  | 0x08 =>
    let bs := (a.flatMap fun u => u.2)
    let bias := (elemsOf bs (portWidth (mFmtA t)) 64).map fun v =>
      if mFmtA t == 0x81 then widenNarrow env .bf16 v else (v, (0 : Flags))
    let r := mapCells c fun i j v =>
      let e := bias.getD (if mBcol t then i else j) (0, 0)
      let s := f32Add env v e.1
      (s.1, s.2 ||| e.2)
    ⟨some r.1, [], r.2⟩
  | _ =>
    let x := if mSwz t == 1 then c else transposeCells c
    if mSwz t == 0 then ⟨some x, [], 0⟩ else ⟨none, x.flatMap fun row => halves (packElems 32 row), 0⟩

/-- Writes bytes at places in order. -/
def State.writeAll (s : State) (l : List (Nat × List Byte)) : State := l.foldl (fun s p => s.homeWrite p.1 p.2) s

/-- One step of an operation other than MGATH, with the checks of R270; a fault comes with the flags to OR. -/
def State.matStep (s : State) (w : Who) (c : Cmd) (k : Nat) : Except (Trap × Flags) (State × Flags) :=
  let t := c.bits
  let op := mOp t
  let x := s.ctxOf w
  let aA := if usesA t then aAcc t k else []
  let bA := if usesB t then bAcc t k else []
  let cA := if usesC t then cAcc t k else []
  let dA := if usesD t then dAcc t k else []
  let dWrites := op != 0x05
  match s.matPlaces w anyPort false aA, s.matPlaces w anyPort false bA, s.matPlaces w opbufPort true cA,
      s.matPlaces w anyPort dWrites dA with
  | .error e, _, _, _ => .error (e, 0)
  | _, .error e, _, _ => .error (e, 0)
  | _, _, .error e, _ => .error (e, 0)
  | _, _, _, .error e => .error (e, 0)
  | .ok aP, .ok bP, .ok cP, .ok dP =>
    let (s1, aB) := s.matReads w c aP aA
    let (s2, bB) := s1.matReads w c bP bA
    let (s3, cB) := s2.matReads w c cP (if op == 0x04 || op == 0x05 then [] else cA)
    let (s4, dB) := s3.matReads w c dP (if dWrites then [] else dA)
    let sa := mScaled (mFmtA t) (mUscA t)
    let sb := mScaled (mFmtB t) (mUscB t)
    let aW := wordsOf (mFmtA t) sa aB
    let bW := wordsOf (mFmtB t) sb bB
    let loaded := fun k => (s.codebooks x t k).isSome
    let cb := fun k q => entryOf (s.codebooks x t k) q
    let aAddr := fun i => if sa then mScaleAt t 8 17 ((aUnits t k).getD i 0) else payloadAt t 8 (mFmtA t) ((aUnits t k).getD i 0)
    let bAddr := fun i => if sb then mScaleAt t 10 18 ((bUnits t k).getD i 0) else payloadAt t 10 (mFmtB t) ((bUnits t k).getD i 0)
    let narrow := op == 0x01 && mFmtA t != 0x81
    let pre : Except Trap Unit :=
      if !narrow then .ok ()
      else match scaleChecks (mFmtA t) loaded aAddr (fun i => if sa then s4.scalePoison aA aP i else none) 0 aW with
        | .error e => .error e
        | .ok _ =>
          match scaleChecks (mFmtB t) loaded bAddr (fun i => if sb then s4.scalePoison bA bP i else none) 0 bW with
          | .error e => .error e
          | .ok _ =>
            match badPair aW bW with
            | some i => .error (scaleTrap Sub.pair ((aW.getD i (0, [])).1) (aAddr i))
            | none => .ok ()
    let poison := [(aA, aP), (bA, bP), (if op == 0x04 || op == 0x05 then [] else cA, cP), (if dWrites then [] else dA, dP)].findSome?
      fun e => s4.payloadPoison e.1 e.2
    match pre, poison with
    | .error e, _ => .error (e, 0)
    | .ok _, some e => .error (e, 0)
    | .ok _, none =>
      let r := stepOut t cb aW bW (cellsOf cB) dB
      if enabled t r.fl then .error (fpxTrap r.fl, r.fl)
      else
        let acc := fun (wr : Bool) (l : List (Int × Nat)) => l.map fun (a : Int × Nat) => (a.1.toNat, a.2, wr)
        match s4.detectAll w c (acc false aA ++ acc false bA ++ acc r.c.isSome cA ++ acc dWrites dA) with
        | .error e => .error (e, 0)
        | .ok s5 =>
          let cw := match r.c with
            | some rows => cP.zip (rows.map fun row => packElems 32 row)
            | none => []
          .ok (s5.writeAll (cw ++ dP.zip r.d), r.fl)

/-! ## MGATH (R269) -/

/-- The 64 indices, read before the first step. -/
def State.gathIndex (s : State) (w : Who) (c : Cmd) : Except Trap (State × List IWord) :=
  let a : Int := mBase c.bits 22
  match s.portAddr w anyPort false a 256 with
  | .error e => .error e
  | .ok p =>
    let (s1, bs) := s.portRead w c p 256
    if let some e := s.payloadPoison [(a, 256)] [p] then .error e
    else match s1.detectAll w c [(a.toNat, 256, false)] with
    | .error e => .error e
    | .ok s2 => .ok (s2, (elemsOf bs 32 64).map (BitVec.ofNat 32))

/-- Accesses of the A unit that an index of MGATH selects. -/
def gathAcc (t : TemplateBits) (k : Nat) (v : IWord) : List (Int × Nat) :=
  if v.toInt < 0 then []
  else unitAcc t 8 (mFmtA t) 17 1 (mScaled (mFmtA t) (mUscA t)) (v.toInt * tZ t 6 1 + mOffset t 1 k)

/-- One step of MGATH: its indices, its addresses, then poison (R269, R270).  Blocks are copied unchanged; one that port A reads
unscaled takes its implied scale word (R63). -/
def State.gathStep (s : State) (w : Who) (c : Cmd) (idx : List IWord) (k : Nat) : Except (Trap × Flags) (State × Flags) :=
  let t := c.bits
  match idx.findIdx? fun v => (mImax t : Int) ≤ v.toInt with
  | some i => .error (badAddr (mBase t 22 + 4 * i), 0)
  | none =>
    let sc := mScaled (mFmtA t) (mUscA t)
    let sd := mScaled (mFmtD t) false
    let aA := idx.flatMap (gathAcc t k)
    let dA := dAcc t k
    match s.matPlaces w anyPort false aA, s.matPlaces w anyPort true dA with
    | .error e, _ => .error (e, 0)
    | _, .error e => .error (e, 0)
    | .ok aP, .ok dP =>
      let (s1, aB) := s.matReads w c aP aA
      let per := if sc then 2 else 1
      let zero := (List.replicate (unitBytes (mFmtA t)) (0 : Byte)) :: (if sd then [List.replicate 4 0] else [])
      let implied := if sd && !sc then [leBytes 4 (mFmtA t + 127 * 2 ^ 8)] else []
      let r := idx.foldl (fun (r : List (List Byte) × List (List Byte)) v =>
        if v.toInt < 0 then (r.1 ++ zero, r.2) else (r.1 ++ r.2.take per ++ implied, r.2.drop per)) ([], aB)
      let acc := fun (wr : Bool) (l : List (Int × Nat)) => l.map fun (a : Int × Nat) => (a.1.toNat, a.2, wr)
      if let some e := s1.payloadPoison aA aP then .error (e, 0)
      else match s1.detectAll w c (acc false aA ++ acc true dA) with
        | .error e => .error (e, 0)
        | .ok s2 => .ok (s2.writeAll (dP.zip r.1), 0)

/-! ## Multicast (R263) -/

/-- The fetch of a unit whose payload lies in a cluster member's window: the source core, and the accesses. -/
def peerUnit (w : Who) (acc : List (Int × Nat)) : Option (CoreId × List (Int × Nat)) :=
  match acc with
  | [] => none
  | a :: _ => if a.1 < 0x01000000 then none else (windowOf w.core a.1).map fun p => (p.1, acc)

/-- The multicast fetches of a step, one for each unit that the step reads from a cluster member's window: group, source core
and accesses (R263). -/
def stepFetches (w : Who) (c : Cmd) (k : Nat) : List (Byte × CoreId × List (Int × Nat)) :=
  let t := c.bits
  let port := fun (on : Bool) (g : Byte) (units : List (List (Int × Nat))) =>
    if !on then [] else units.filterMap fun u => (peerUnit w u).map fun p => (g, p.1, p.2)
  let aUs := if mOp t == 0x0A then
      (if c.idx.any fun v => (mImax t : Int) ≤ v.toInt then [] else c.idx.map (gathAcc t k))
    else (aUnits t k).map (unitAcc t 8 (mFmtA t) 17 1 (mScaled (mFmtA t) (mUscA t)))
  let bUs := (bUnits t k).map (unitAcc t 10 (mFmtB t) 18 1 (mScaled (mFmtB t) (mUscB t)))
  port (usesA t && mMca t) ((tF t 5).extractLsb' 0 8) aUs ++ port (usesB t && mMcb t) ((tF t 5).extractLsb' 8 8) bUs

/-- Requests a fetch at its source core: it joins the fetch of its serial number, or begins it; one whose time has run
out is an ordinary read. -/
def State.requestFetch (s : State) (w : Who) (g : Byte) (src : CoreId) : State × Nat :=
  let x := s.ctxOf w
  match x.team with
  | none => (s, 0)
  | some t =>
    let n := countOf x.mcasts g
    let s1 := s.modCtx w fun x => { x with mcasts := countUp x.mcasts g }
    let mine := fun (m : Mcast) => m.team == t && m.group == g && m.serial == n
    match (s.core src).mcast.find? mine with
    | some m =>
      if m.late then (s1, 0)
      else (s1.modCore src fun k => { k with mcast := k.mcast.map fun m => if mine m then { m with joined := x.rank :: m.joined } else m }, 1)
    | none =>
      (s1.modCore src fun k => { k with mcast := k.mcast ++
        [{ team := t, group := g, serial := n, joined := [x.rank], since := s.cycle, late := false }] }, 1)

/-- Requests every fetch of a step; the number that are outstanding. -/
def State.requestFetches (s : State) (w : Who) (l : List (Byte × CoreId × List (Int × Nat))) : State × Nat :=
  l.foldl (fun r f =>
    let q := r.1.requestFetch w f.1 f.2.1
    (q.1, r.2 + q.2)) (s, 0)

/-- A fetch is served to a rank: the bytes of its own unit of that serial number are delivered, so a joiner whose address or
length differs receives what it asked for (R263). -/
def State.deliverFetch (s : State) (m : Mcast) (r : Nat) : State :=
  match (s.teamAt m.team).bind fun t => t.whoOf r with
  | none => s
  | some w =>
    match (s.ctxOf w).queues[1].findIdx? fun c => c.phase == .running with
    | none => s
    | some k =>
      s.modCmd w .mxq k fun c =>
        let mine := (stepFetches w c c.row).filter fun f => f.1 == m.group
        let acc := ((mine[m.serial + mine.length - countOf (s.ctxOf w).mcasts m.group]?).map (·.2.2)).getD []
        let got := acc.flatMap fun a =>
          match windowOf w.core a.1 with
          | some (q, off) =>
            let p := scratchPlace q off
            (s.rawRead p a.2).mapIdx fun j b => (p + j, b)
          | none => []
        { c with placed := got ++ c.placed, link := c.link - 1 }

/-- Members of the fetch's group whose cores lie in the source core's cluster (R263). -/
def State.mcastMembers (s : State) (src : CoreId) (m : Mcast) : List Nat :=
  match s.teamAt m.team with
  | none => []
  | some t =>
    let mask := match s.launchAt t.launch with
      | some l => ((l.groups.find? fun e => e.1 == m.group).map (·.2)).getD 0
      | none => 0
    (ranksOf mask).filter fun r => match t.whoOf r with
      | some w => w.core.val / 8 == src.val / 8
      | none => false

/-- MULTICAST_FETCH_SERVE: the source serves the oldest fetch that every member has joined (R263). -/
def execMulticastFetchServe (core : CoreId) (s : State) : Out :=
  match (s.core core).mcast.find? fun m => !m.late && (s.mcastMembers core m).all m.joined.contains with
  | none => .next s
  | some m =>
    let s1 := m.joined.foldl (fun s r => s.deliverFetch m r) s
    .next (s1.modCore core fun k => { k with mcast := k.mcast.erase m })

/-- MULTICAST_JOIN_TIMEOUT: 4,096 cycles after the first request the pending ones are served one by one (R263). -/
def execMulticastJoinTimeout (core : CoreId) (s : State) : Out :=
  match (s.core core).mcast.find? fun m => !m.late && m.since + 4096 ≤ s.cycle with
  | none => .next s
  | some m =>
    let s1 := m.joined.foldl (fun s r => s.deliverFetch m r) s
    .next (s1.modCore core fun k => { k with mcast := k.mcast.map fun e =>
      if e == m then { m with joined := [], late := true } else e })

/-! ## Commands -/

/-- Bytes that the step credits at completion (R271): a C run of MMA, MMAT and MMAB counts at its first step. -/
def stepBytes (t : TemplateBits) (k : Nat) : Nat :=
  match mOp t with
  | 0x01 | 0x02 | 0x03 => if k == 0 || mOffset t 3 k != mOffset t 3 (k - 1) then 16384 else 0
  | 0x04 | 0x05 | 0x08 | 0x09 => 16384
  | 0x06 => 512 * portWidth (mFmtD t)
  | 0x07 => 128 * (unitBytes (mFmtD t) + 4)
  | 0x0A => 64 * unitBytes (mFmtD t) + if mScaled (mFmtA t) false then 256 else 0
  | _ => 0

/-- Steps from `k` on, `n` of them; it stops at a step whose multicast fetches are outstanding. -/
def State.matLoop (w : Who) (c : Cmd) : Nat → Nat → State → Flags → Nat → Started
  | 0, _, s, fl, n => .done s n fl
  | m + 1, k, s, fl, n =>
    let fetches := if c.placed.isEmpty then stepFetches w c k else []
    let (s0, wait) := if fetches.isEmpty then (s, 0) else s.requestFetches w fetches
    if 0 < wait then
      .running s0 fun d => { d with row := k, link := wait, bytes := n, flags := fl, idx := c.idx }
    else
      match (if mOp c.bits == 0x0A then s0.gathStep w c c.idx k else s0.matStep w c k) with
      | .error (t, f) => .fault s0 t (fl ||| f)
      | .ok (s1, f) => s1.matLoop w { c with placed := [] } m (k + 1) (fl ||| f) (n + stepBytes c.bits k)

/-- The steps of a command that has just started. -/
def State.matBody (w : Who) (s : State) (_k : Nat) (c : Cmd) : Started :=
  let n := if mOp c.bits == 0x0B || mOp c.bits == 0x0C then 0 else mSteps c.bits
  if mOp c.bits == 0x0A && n != 0 then
    match s.gathIndex w c with
    | .error e => .fault s e 0
    | .ok (s1, idx) => s1.matLoop w { c with idx := idx } n 0 0 0
  else s.matLoop w c n 0 0 0

/-- Byte intervals that a matrix command could access (R33). -/
def matRefs (t : TemplateBits) : List (Int × Int) :=
  let counts := (List.range 6).map (mCount t)
  if counts.contains 0 || mOp t == 0x0B || mOp t == 0x0C then []
  else
    let span := fun (j rows : Nat) (pitch : Int) =>
      nestSpan ((rows, pitch) :: counts.mapIdx fun l n => (n, tZ t (24 + 5 * l + j) 1))
    let port := fun (f fmt soff units : Nat) (scaled : Bool) (sp : Int × Int) =>
      let bb : Int := unitBytes fmt
      ((mBase t f : Int) + sp.1 * bb, (mBase t f : Int) + (sp.2 + units) * bb) ::
        if scaled then [(mScaleAt t f soff sp.1, mScaleAt t f soff sp.2 + 4 * units)] else []
    let wide : List (Int × Int) := [(0, 0x200000), (0x01000000, 0x02000000)]
    (if mOp t == 0x0A then wide
      else if usesA t then
        port 8 (mFmtA t) 17 (if mOp t == 0x08 || mOp t == 0x02 then 2 else 1) (mScaled (mFmtA t) (mUscA t))
          (span 1 (if mOp t == 0x08 then 1 else if mOp t == 0x02 then 32 else 64) (tZ t 6 1))
      else [])
    ++ (if usesB t then port 10 (mFmtB t) 18 1 (mScaled (mFmtB t) (mUscB t)) (span 2 64 (tZ t 7 1)) else [])
    ++ (if usesC t then
        let sp := span 3 1 0
        [((mBase t 12 : Int) + 256 * sp.1, (mBase t 12 : Int) + 256 * (sp.2 + 64))]
      else [])
    ++ (if usesD t then
        port 14 (mFmtD t) 19 (if mOp t == 0x0A then 1 else 2) (mScaled (mFmtD t) false) (span 4 64 (tZ t 16 1))
      else [])
    ++ (if mOp t == 0x0A then [((mBase t 22 : Int), (mBase t 22 : Int) + 256)] else [])

/-- The go rule (R262): no matrix command of the core still has steps to issue, and no MSYNC has yet to complete. -/
def State.matGo (s : State) (core : CoreId) : Bool :=
  (s.core core).ctx.toList.all fun y => y.queues[1].all fun c =>
    c.phase == .queued || c.phase == .done && !c.isSync .mxq

/-- A matrix command that waits for multicast fetches goes on when they have been served (R263). -/
def State.matResume (s : State) (w : Who) (op : Nat) : Option State :=
  let x := s.ctxOf w
  match x.queues[1].findIdx? fun c => c.phase == .running && c.link == 0 && mOp c.bits == op with
  | none => none
  | some k =>
    match x.queues[1][k]? with
    | none => none
    | some c =>
      some (match s.matLoop w c (mSteps c.bits - c.row) c.row c.flags c.bytes with
        | .done s1 n fl => s1.doneCmd w .mxq k n fl
        | .running s1 f => s1.modCmd w .mxq k fun d => f { d with placed := [] }
        | .fault s1 t fl => s1.failCmd w .mxq k c t fl)

/-- A command is held by a bank role change (R33). -/
def State.matHeld (s : State) (w : Who) (_ : Queue) (c : Cmd) : Bool := s.heldBy w c (matRefs c.bits)

/-- The command in the shadow slot of a core's matrix engine, as far as it still heads its queue (R262). -/
def State.shadowOf (s : State) (core : CoreId) : Option (CtxNo × Nat × Cmd) :=
  (s.core core).shadow.bind fun e => ((s.core core).ctx[e.1].nextCmd .mxq).bind fun n =>
    if n.2.order == e.2 && n.2.checked then some (e.1, n) else none

/-- The next command in rotation is taken into the shadow slot, where its start checks are made.  A command that has come back
from the slot is taken again only when its tokens are there (R253, R262). -/
def State.takeShadow (s : State) (w : Who) (mine : Nat → Bool) : State :=
  let x := s.ctxOf w
  match x.nextCmd .mxq with
  | none => s
  | some (k, c) =>
    if !mine (mOp c.bits) || s.nextQueue w.core .matrix s.matHeld (·.checked) != some (w.ctx, .mxq) then s
    else
      let s1 := s.serving w .mxq
      match if c.checked then .ok () else s.matChecks x c with
      | .error t => s1.failCmd w .mxq k c t 0
      | .ok _ => (s1.modCmd w .mxq k fun c => { c with checked := true }).modCore w.core fun k =>
          { k with shadow := some (w.ctx, c.order) }

/-- The shadow command goes when the go rule allows it and its tokens are there; without its tokens it goes back to the head of
its queue, with its start checks kept (R262). -/
def State.goShadow (s : State) (w : Who) (mine : Nat → Bool) : State :=
  match s.shadowOf w.core with
  | none => s
  | some (j, k, c) =>
    if j != w.ctx || !mine (mOp c.bits) || !s.matGo w.core || s.mgmt.pkghlt || (s.ctxOf w).run == .halted then s
    else
      let s1 := s.modCore w.core fun k => { k with shadow := none }
      if (s.ctxOf w).tokensReady .mxq c then s1.runCmd w .mxq k c (fun s k c => s.matBody w k c) else s1

/-- A matrix command of one operation, or one whose code is unassigned: it goes on, or enters the shadow slot, and becomes active
as soon as the go rule allows it. -/
def State.matCommand (s : State) (w : Who) (op : Nat) : Out :=
  let mine := fun k => k == op || k == 0 || decide (0x0C < k)
  match s.matResume w op with
  | some s1 => .next s1
  | none =>
    if (s.shadowOf w.core).isSome then .next (s.goShadow w mine)
    else .next ((s.takeShadow w mine).goShadow w mine)

def execMma (who : Who) (s : State) : Out := s.matCommand who 0x01
def execMmat (who : Who) (s : State) : Out := s.matCommand who 0x02
def execMmab (who : Who) (s : State) : Out := s.matCommand who 0x03
def execMzero (who : Who) (s : State) : Out := s.matCommand who 0x04
def execMldc (who : Who) (s : State) : Out := s.matCommand who 0x05
def execMstc (who : Who) (s : State) : Out := s.matCommand who 0x06
def execMstcq (who : Who) (s : State) : Out := s.matCommand who 0x07
def execMbias (who : Who) (s : State) : Out := s.matCommand who 0x08
def execMswz (who : Who) (s : State) : Out := s.matCommand who 0x09
def execMgath (who : Who) (s : State) : Out := s.matCommand who 0x0A
def execMsync (who : Who) (s : State) : Out := s.matCommand who 0x0B
def execMnop (who : Who) (s : State) : Out := s.matCommand who 0x0C

end Sys2Proof.Machine
end

