-- ==== Sys2Proof/Machine/Vector.lean ====
section
/-! DEFINITION. The vector engine: template fields (R224), start checks (R250), ports and addresses (R226, R227),
iterations (R221, R251) and VECTOR_COMMAND. -/

namespace Sys2Proof.Machine

/-! ## Template fields (R224) -/

def vCode (t : TemplateBits) (k : Nat) : Nat :=
  if k == 0 then bitsAt (tF t 0) 0 8 else bitsAt (tF t (3 + (k - 1) / 2)) (8 * ((k - 1) % 2)) 8
/-- Operand `j` of slot `k`: A, B or C. -/
def vSel (t : TemplateBits) (k j : Nat) : Nat := bitsAt (tF t (40 + k)) (5 * j) 5
def vRows (t : TemplateBits) : Nat := bitsAt (tF t 7) 10 5
def oSel (t : TemplateBits) (o : Nat) : Nat := bitsAt (tF t 7) (5 * o) 5
def oMode (t : TemplateBits) (o : Nat) : Nat := bitsAt (tF t 6) (8 + 2 * o) 2
def axCode (t : TemplateBits) (n : Nat) : Nat := bitsAt (tF t (29 + n)) 0 8
def axSub (t : TemplateBits) (n : Nat) : Nat := bitsAt (tF t (29 + n)) 8 2
def axSel (t : TemplateBits) (n : Nat) : Nat := bitsAt (tF t (29 + n)) 10 5
def axParam (t : TemplateBits) (n : Nat) : Nat := bitsAt (tF t 31) (6 * n) 6
/-- Ports 0 to 3 are P0 to P3; 4 and 5 are O0 and O1. -/
def vBaseField (p : Nat) : Nat := [8, 16, 18, 20, 10, 22].getD p 8
def vBase (t : TemplateBits) (p : Nat) : Nat := tN t (vBaseField p) 2 % 2 ^ 25
def vFmt (t : TemplateBits) (p : Nat) : Nat := bitsAt (tF t (24 + p / 2)) (8 * (p % 2)) 8
def vGeom (t : TemplateBits) (p : Nat) : Nat := bitsAt (tF t (27 + p / 3)) (5 * (p % 3)) 5
def vUsc (t : TemplateBits) (p : Nat) : Bool := bitAt (tF t 6) (12 + p)
def vSoff (t : TemplateBits) : Nat := tN t 15 1
def vConst (t : TemplateBits) (n : Nat) : Nat := tN t (48 + 2 * n) 2
def vUsed (t : TemplateBits) (k : Nat) : Bool := vCode t k != 0
def oActive (t : TemplateBits) (o : Nat) : Bool := oSel t o != 0x1F

/-- The operands that a used slot reads, as selectors. -/
def vOperands (t : TemplateBits) (k : Nat) : List Nat :=
  let r := vReads (vCode t k)
  (if r.1 then [vSel t k 0] else []) ++ (if r.2.1 then [vSel t k 1] else []) ++ (if r.2.2 then [vSel t k 2] else [])

def usedSlots (t : TemplateBits) : List Nat := (List.range 8).filter (vUsed t)
def usedAxes (t : TemplateBits) : List Nat := (List.range 2).filter fun n => axCode t n != 0
def activeOuts (t : TemplateBits) : List Nat := (List.range 2).filter (oActive t)

/-- Active input ports, in order (R226). -/
def activeIns (t : TemplateBits) : List Nat :=
  (List.range 4).filter fun p =>
    (usedSlots t).any (fun k => (vOperands t k).contains p) || (usedAxes t).any (fun n => axSel t n == p)
      || (activeOuts t).any fun o => oSel t o == p

/-- A port is read with scale words (R228, R229). -/
def readsScales (t : TemplateBits) (p : Nat) : Bool :=
  classCode (vFmt t p) || fixedScaled (vFmt t p) && !vUsc t p

/-! ## Selectors and tags (R232 to R234) -/

/-- Slot `k` may name Xn (R233). -/
def axisAt (t : TemplateBits) (n k : Nat) : Bool :=
  let s := axSel t n
  s ≤ 3 || 8 ≤ s && s ≤ 15 && s - 8 < k ||
    n == 1 && s == 4 && (axSel t 0 ≤ 3 || 8 ≤ axSel t 0 && axSel t 0 ≤ 15 && axSel t 0 - 8 < k)

/-- A selector names something that exists; `k` is the slot that names it, or 8 for an output (R232, R233). -/
def selNames (t : TemplateBits) (s k : Nat) : Bool :=
  s ≤ 3 || s == 6 || 0x10 ≤ s && s ≤ 0x17
    || (s == 4 || s == 5) && axCode t (s - 4) != 0 && (k == 8 || axisAt t (s - 4) k)
    || 8 ≤ s && s ≤ 15 && vUsed t (s - 8) && s - 8 < k

/-- Tag of a selector's value; `fuel` bounds the chain of selectors (R234). -/
def tagOf (t : TemplateBits) : Nat → Nat → VTag
  | 0, _ => .fp
  | fuel + 1, s =>
    if s ≤ 3 then
      (if [0x01, 0x64, 0xA2].contains (vFmt t s) || [0x22, 0x63].contains (vFmt t s) && vUsc t s then .int else .fp)
    else if s == 4 || s == 5 then tagOf t fuel (axSel t (s - 4))
    else if 8 ≤ s && s ≤ 15 then
      let k := s - 8
      let c := vCode t k
      if c == 0x2F then tagOf t fuel (vSel t k 0)
      else if c == 0x1A then tagOf t fuel (vSel t k 1)
      else if c == 0x2A then (if vSel t k 2 == 0 then .int else .fp)
      else if c == 0x2B then .qnt
      else if 0x1B ≤ c && c ≤ 0x23 || 0x25 ≤ c && c ≤ 0x29 || c == 0x2E then .int
      else .fp
    else .fp

def vTag (t : TemplateBits) (s : Nat) : VTag := tagOf t 24 s

/-! ## Start checks (R250) -/

/-- A selector that no operation may hold (R232). -/
def unassignedSel (s : Nat) : Bool := s == 7 || 0x18 ≤ s && s ≤ 0x1E

/-- Selector and modifier breaches of a slot (R232 to R234, R236, R237, R244, R246, R247).  An operand that the operation reads and
whose selector is 0x1F, none, is a breach, as R248 says of an axis source (DEDUCED, log 25). -/
def slotBad (t : TemplateBits) (k : Nat) : Bool :=
  let c := vCode t k
  let r := vReads c
  let reads := [r.1, r.2.1, r.2.2]
  (List.range 3).any (fun j =>
      if j == 2 && vModifier c then false
      else if reads.getD j false then !selNames t (vSel t k j) k || vTag t (vSel t k j) == .qnt
      else unassignedSel (vSel t k j))

def modifierBad (t : TemplateBits) (k : Nat) : Bool :=
  let m := vSel t k 2
  match vCode t k with
  | 0x2A => 8 < m
  | 0x2B => 7 < m
  | 0x2E => 3 < m
  | _ => false

/-- Largest parameter of an axis code (R249). -/
def axLimit (code rows : Nat) : Nat :=
  match code with
  | 0x43 => 63 | 0x44 => 15 | 0x45 => 63 | 0x46 => rows - 1 | _ => 0

/-- Breaches of an axis position (R248): its field, and its parameter's field.  A position that is not used has a source that
nothing reads, and keeps the other rules. -/
def axisBad (t : TemplateBits) (n : Nat) : Bool :=
  let s := axSel t n
  bitAt (tF t (29 + n)) 15 ||
    axCode t n != 0 && (!(s ≤ 3 || s == 4 && n == 1 && axCode t 0 != 0 || 8 ≤ s && s ≤ 15 && vUsed t (s - 8)) || vTag t s == .qnt) ||
    axSub t n != 0 && !(([0x41, 0x42, 0x47] : List Nat).contains (axCode t n))

/-- A scaled output and a VQNT source that do not match (R231, R244). -/
def quantBad (t : TemplateBits) (o : Nat) : Bool :=
  let s := oSel t o
  let f := vFmt t (4 + o)
  let q := vTag t s == .qnt
  if q then !(fixedScaled f && qntCode (vSel t (s - 8) 2) == f && oMode t o != 1)
  else fixedScaled f

/-- The start checks of a vector command, in the order of R250.  An output that selects a VQNT slot with modifier 0x07 can match no
port format; it is left to the FORMAT check, whose TRAPVAL holds the code of CB4, 0x23 (log 25).  Of several breaches DETAIL names the
first in the order of R250's list, whichever field it is in (DEDUCED, log 25). -/
def vecChecks (x : Ctx) (c : Cmd) : Except Trap Unit :=
  let t := c.bits
  let ports := activeIns t ++ (activeOuts t).map (4 + ·)
  checkAll <|
    [(!vAssigned (vCode t 0), engTrap Sub.badop 0)]
    ++ (List.range 7).map (fun k => (vUsed t (k + 1) && !vAssigned (vCode t (k + 1)), engTrap Sub.badop (3 + k / 2)))
    ++ (List.range 2).map (fun n => (axCode t n != 0 && !axAssigned (axCode t n), engTrap Sub.badop (29 + n)))
    ++ commonChecks x .vxq c
    ++ [(0, 9, 7), (1, 11, 5), (7, 15, 1), (27, 15, 1), (28, 15, 1), (31, 12, 4)].map (resCheck t)
    ++ ports.map (fun p => resCheck t (vBaseField p + 1, 9, 7))
    ++ (usedSlots t).map (fun k => resCheck t (40 + k, 15, 1))
    ++ [(vRows t == 0 || 16 < vRows t, badFld 7)]
    ++ (activeOuts t).map (fun o => (oMode t o == 3, badFld 6))
    ++ ports.map (fun p => (vBase t p % 8 != 0, badFld (vBaseField p)))
    ++ (activeIns t).map (fun p => (vUsc t p && !fixedScaled (vFmt t p), badFld 6))
    ++ (usedSlots t).map (fun k => (slotBad t k, badFld (40 + k)))
    ++ (activeOuts t).map (fun o => (!selNames t (oSel t o) 8, badFld 7))
    ++ (activeOuts t).map (fun o => (quantBad t o && !(vTag t (oSel t o) == .qnt && vSel t (oSel t o - 8) 2 == 7), badFld 26))
    ++ (usedSlots t).map (fun k => (vCode t k == 0x1A && vTag t (vSel t k 1) != vTag t (vSel t k 2), badFld (40 + k)))
    ++ (usedSlots t).map (fun k =>
        (vCode t k == 0x2D && !(vSel t k 0 ≤ 3 && readsScales t (vSel t k 0)), badFld (40 + k)))
    ++ (usedSlots t).map (fun k => (modifierBad t k, badFld (40 + k)))
    ++ (List.range 2).map (fun n => (axisBad t n, badFld (29 + n)))
    ++ (List.range 2).map (fun n => (decide (axLimit (axCode t n) (vRows t) < axParam t n), badFld 31))
    ++ (activeIns t).map (fun p =>
        (!inFmtOk (vFmt t p), (⟨Cause.format, Sub.code, BitVec.ofNat 64 (vFmt t p)⟩ : Trap)))
    ++ (activeOuts t).map (fun o =>
        (!outFmtOk (vFmt t (4 + o)), (⟨Cause.format, Sub.code, BitVec.ofNat 64 (vFmt t (4 + o))⟩ : Trap)))
    ++ (usedSlots t).map (fun k =>
        (vCode t k == 0x2B && vSel t k 2 == 7, (⟨Cause.format, Sub.qdst, 0x23⟩ : Trap)))

/-! ## Addresses (R226) -/

/-- Strides of a port's levels 0 to 3; a masked level has stride 0. -/
def vStride (t : TemplateBits) (p l : Nat) : Int :=
  let g := vGeom t p
  if g.testBit (1 + l) then 0 else tZ t (32 + 4 * (g % 2) + l) 1

/-- Indices of an iteration. -/
structure Iter where
  i1 : Nat
  i2 : Nat
  i3 : Nat
  serial : Nat
  deriving DecidableEq, Repr

def rowUnit (t : TemplateBits) (p r : Nat) (i : Iter) : Int :=
  r * vStride t p 0 + i.i1 * vStride t p 1 + i.i2 * vStride t p 2 + i.i3 * vStride t p 3

def rowAddr (t : TemplateBits) (p r : Nat) (i : Iter) : Int := vBase t p + rowUnit t p r i * unitBytes (vFmt t p)

/-- Address of a unit's scale word. -/
def scaleAddr (t : TemplateBits) (p : Nat) (u : Int) : Int := vBase t p + 256 * vSoff t + 4 * u

/-- Accesses of a port in an iteration: address and bytes, rows ascending, payload before scale words (R251). -/
def portAccesses (t : TemplateBits) (p : Nat) (i : Iter) : List (Int × Nat) :=
  let bb := unitBytes (vFmt t p)
  let scaled := if p < 4 then readsScales t p else fixedScaled (vFmt t p)
  let mode := if p < 4 then 0 else oMode t (p - 4)
  if mode == 1 then [(rowAddr t p 0 i, (vRows t * portWidth (vFmt t p) + 7) / 8)]
  else
    (List.range (if mode == 2 then 1 else vRows t)).flatMap fun r =>
      let u := rowUnit t p r i
      (rowAddr t p r i, 2 * bb) :: if scaled then [(scaleAddr t p u, 4), (scaleAddr t p (u + 1), 4)] else []

/-- Places of a list of accesses, or the first failure (R227). -/
def State.portPlaces (s : State) (w : Who) (out : Bool) : List (Int × Nat) → Except Trap (List Nat)
  | [] => .ok []
  | (a, n) :: rest =>
    match s.portAddr w anyPort out a n with
    | .error e => .error e
    | .ok p =>
      match s.portPlaces w out rest with
      | .error e => .error e
      | .ok ps => .ok (p :: ps)

/-! ## Iterations (R221, R251) -/

/-- An input port's panel and its scale words. -/
structure PortIn where
  port : Nat
  panel : Panel
  words : List (Nat × Nat)

/-- Rows of an input port from its places; the scale words are checked in order (R230). -/
def readRows (env : Env) (c : Cmd) (p : Nat) (i : Iter) :
    State → Who → List Nat → Nat → Nat → Except Trap (State × List (List Nat) × List (Nat × Nat) × Flags)
  | s, _, _, _, 0 => .ok (s, [], [], 0)
  | s, w, ps, r, n + 1 =>
    let t := c.bits
    let bb := unitBytes (vFmt t p)
    let (s1, bs) := s.portRead w c (ps.headD 0) (2 * bb)
    if readsScales t p then
      let (s2, b0) := s1.portRead w c (ps.getD 1 0) 4
      let (s3, b1) := s2.portRead w c (ps.getD 2 0) 4
      let w0 := leNat b0
      let w1 := leNat b1
      let u := rowUnit t p r i
      let check := fun (v : Nat) (u : Int) (q : Nat) =>
        match s.payloadPoison [(scaleAddr t p u, 4)] [q] with
        | some e => (Except.error e : Except Trap Unit)
        | none => checkScale (vFmt t p) v (scaleAddr t p u) none
      match check w0 u (ps.getD 1 0), check w1 (u + 1) (ps.getD 2 0) with
      | .error e, _ => .error e
      | _, .error e => .error e
      | .ok _, .ok _ =>
        let l := scaledBlock env w0 (bs.take bb) (vFmt t p)
        let h := scaledBlock env w1 (bs.drop bb) (vFmt t p)
        match readRows env c p i s3 w (ps.drop 3) (r + 1) n with
        | .error e => .error e
        | .ok (s4, rows, ws, fl) => .ok (s4, (l.1 ++ h.1) :: rows, (w0, w1) :: ws, l.2 ||| h.2 ||| fl)
    else
      let row := plainRow env (vFmt t p) bs
      match readRows env c p i s1 w (ps.drop 1) (r + 1) n with
      | .error e => .error e
      | .ok (s4, rows, ws, fl) => .ok (s4, row.1 :: rows, ws, row.2 ||| fl)

/-- All active input ports. -/
def readPorts (env : Env) (c : Cmd) (i : Iter) (w : Who) :
    State → List (Nat × List Nat) → Except Trap (State × List PortIn × Flags)
  | s, [] => .ok (s, [], 0)
  | s, (p, ps) :: rest =>
    match readRows env c p i s w ps 0 (vRows c.bits) with
    | .error e => .error e
    | .ok (s1, rows, ws, fl) =>
      match readPorts env c i w s1 rest with
      | .error e => .error e
      | .ok (s2, ins, fl2) => .ok (s2, ⟨p, padRows rows, ws⟩ :: ins, fl ||| fl2)

/-- Values of an iteration: panels by selector, quantised rows by selector, and the flags raised. -/
structure Vals where
  p : List (Nat × Panel)
  q : List (Nat × List QRow)
  fl : Flags

def Vals.get (v : Vals) (s : Nat) : Panel := ((v.p.find? fun e => e.1 == s).map (·.2)).getD zeroPanel
def Vals.has (v : Vals) (s : Nat) : Bool := s < 4 || v.p.any fun e => e.1 == s

/-- Selectors whose values an active output uses, directly or through other values (R240): operands of a used slot, and the
source of an axis position, `n` levels deep. -/
def usedSels (t : TemplateBits) : Nat → List Nat → List Nat
  | 0, l => l
  | n + 1, l => usedSels t n (l ++ l.flatMap fun s =>
      if s == 4 || s == 5 then (if axCode t (s - 4) != 0 then [axSel t (s - 4)] else [])
      else if 8 ≤ s && s ≤ 15 && vUsed t (s - 8) then vOperands t (s - 8)
      else []).eraseDups

/-- An active output uses the result of an axis position (R240). -/
def axisUsed (t : TemplateBits) (n : Nat) : Bool := (usedSels t 10 ((activeOuts t).map (oSel t))).contains (4 + n)

/-- Evaluates an axis position whose source is there; its flags count where an active output uses its result (R240). -/
def evalAxis (env : Env) (t : TemplateBits) (v : Vals) (n : Nat) : Vals :=
  if axCode t n == 0 || v.has (4 + n) || !v.has (axSel t n) then v
  else
    let r := axisOp env (vTag t (axSel t n) == .int) (axCode t n) (axSub t n) (axParam t n) (vRows t) (v.get (axSel t n))
    { v with p := (4 + n, r.1) :: v.p, fl := if axisUsed t n then v.fl ||| r.2 else v.fl }

/-- Evaluates a slot (R236). -/
def evalSlot (env : Env) (t : TemplateBits) (i : Iter) (ins : List PortIn) (v : Vals) (k : Nat) : Vals :=
  let c := vCode t k
  let m := vSel t k 2
  let a := v.get (vSel t k 0)
  if c == 0 then v
  else if c == 0x2B then
    let r := vQnt env m (vRows t) a
    { v with q := (8 + k, r.1) :: v.q, fl := v.fl ||| r.2 }
  else if c == 0x2D then
    let ws := ((ins.find? fun e => e.port == vSel t k 0).map (·.words)).getD []
    { v with p := (8 + k, vBscl (vRows t) ws) :: v.p }
  else if c == 0x2E then { v with p := (8 + k, vIota m (vRows t) i.serial) :: v.p }
  else
    let r := vMap env c m (vRows t) a (v.get (vSel t k 1)) (v.get m)
    { v with p := (8 + k, r.1) :: v.p, fl := v.fl ||| r.2 }

/-- Evaluates every slot and axis position, each once what it names is there (R233, R240). -/
def evalAll (env : Env) (t : TemplateBits) (i : Iter) (ins : List PortIn) (fl : Flags) : Vals :=
  let start : Vals :=
    { p := (ins.map fun e => (e.port, e.panel)) ++ (List.range 8).map fun n => (0x10 + n, fillPanel (vRows t) (vConst t n))
      q := [], fl := fl }
  let axes := fun v => evalAxis env t (evalAxis env t v 0) 1
  axes ((List.range 8).foldl (fun v k => evalSlot env t i ins (axes v) k) start)

/-- A byte string of `bits` bits put over old bytes: the bits above keep their old values (R231). -/
def mergeBits (old : List Byte) (v bits : Nat) : List Byte := leBytes old.length (leNat old / 2 ^ bits * 2 ^ bits + v % 2 ^ bits)

/-- A write of an output: its place, its bytes, and how many bits of them it changes. -/
structure OutWrite where
  place : Nat
  bytes : List Byte
  bits : Nat

/-- A whole number of bytes. -/
def OutWrite.whole (p : Nat) (bs : List Byte) : OutWrite := ⟨p, bs, 8 * bs.length⟩

/-- Performs a write of an output over what its place holds then. -/
def State.putOut (s : State) (x : OutWrite) : State :=
  s.homeWrite x.place (if x.bits == 8 * x.bytes.length then x.bytes
    else mergeBits (s.rawRead x.place x.bytes.length) (leNat x.bytes) x.bits)

/-- Writes of an output, in order, with the conversions' flags (R231). -/
def outWrites (env : Env) (t : TemplateBits) (v : Vals) (o : Nat) (ps : List Nat) : List OutWrite × Flags :=
  let f := vFmt t (4 + o)
  let sel := oSel t o
  let wd := portWidth f
  if vTag t sel == .qnt then
    let rows := ((v.q.find? fun e => e.1 == sel).map (·.2)).getD []
    let ws := (List.range (if oMode t o == 2 then 1 else vRows t)).flatMap fun r =>
      match rows[r]? with
      | some ((w0, c0), (w1, c1)) =>
        [.whole (ps.getD (3 * r) 0) (packElems wd (c0 ++ c1)), .whole (ps.getD (3 * r + 1) 0) (leBytes 4 w0),
          .whole (ps.getD (3 * r + 2) 0) (leBytes 4 w1)]
      | none => []
    (ws, 0)
  else
    let pn := v.get sel
    let conv := fun l => let rs := l.map (outElem env f (vTag t sel)); (rs.map (·.1), orFlags (rs.map (·.2)))
    if oMode t o == 1 then
      let r : List Nat × Flags := conv ((List.range (vRows t)).map fun r => pn.cell r 0)
      let n := vRows t * wd
      ([⟨ps.headD 0, leBytes ((n + 7) / 8) (packNat wd r.1), n⟩], r.2)
    else
      let rs : List (List Nat × Flags) := (pn.take (if oMode t o == 2 then 1 else vRows t)).map conv
      (rs.mapIdx fun r e => .whole (ps.getD r 0) (packElems wd e.1), orFlags (rs.map (·.2)))

/-- An access's address as the detector sees it. -/
def natAddr (a : Int) : Nat := a.toNat

/-- One iteration: the checks in the order of R251, then its writes; a fault comes with the flags to OR into FPS. -/
def State.vecIter (s : State) (w : Who) (c : Cmd) (i : Iter) : Except (Trap × Flags) (State × Flags) :=
  let t := c.bits
  let env := Env.of (tF t 2)
  let ins := activeIns t
  let outs := activeOuts t
  let inAcc := ins.map fun p => (p, portAccesses t p i)
  let outAcc := outs.map fun o => (o, portAccesses t (4 + o) i)
  let places := fun (out : Bool) (l : List (Nat × List (Int × Nat))) =>
    l.foldr (fun e r => match s.portPlaces w out e.2, r with
      | .error t, _ => .error t
      | .ok ps, .ok rest => .ok ((e.1, ps) :: rest)
      | .ok _, .error t => .error t) (.ok [] : Except Trap (List (Nat × List Nat)))
  match places false inAcc with
  | .error e => .error (e, 0)
  | .ok inPl =>
    match places true outAcc with
    | .error e => .error (e, 0)
    | .ok outPl =>
      match readPorts env c i w s inPl with
      | .error e => .error (e, 0)
      | .ok (s1, pin, fl) =>
        let v := evalAll env t i pin fl
        let ws := outPl.map fun e => outWrites env t v e.1 e.2
        let all := v.fl ||| orFlags (ws.map (·.2))
        let poison := (inAcc.zip inPl).findSome? fun e => s1.payloadPoison e.1.2 e.2.2
        if let some e := poison then .error (e, 0)
        else if enabled t all then .error (fpxTrap all, all)
        else
          let acc := fun (wr : Bool) (l : List (Nat × List (Int × Nat))) =>
            l.flatMap fun e => e.2.map fun a => (natAddr a.1, a.2, wr)
          match s1.detectAll w c (acc false inAcc ++ acc true outAcc) with
          | .error e => .error (e, 0)
          | .ok s2 => .ok ((ws.flatMap (·.1)).foldl State.putOut s2, all)

/-- Iterations from serial number `k` on, `n` of them, level 1 innermost (R221). -/
def State.vecLoop (w : Who) (c : Cmd) : Nat → Nat → State → Flags → State × Flags × Option Trap
  | 0, _, s, fl => (s, fl, none)
  | n + 1, k, s, fl =>
    let n1 := tN c.bits 12 1
    let n2 := tN c.bits 13 1
    match s.vecIter w c { i1 := k % n1, i2 := k / n1 % n2, i3 := k / n1 / n2, serial := k } with
    | .error (t, f) => (s, fl ||| f, some t)
    | .ok (s1, f) => s1.vecLoop w c n (k + 1) (fl ||| f)

/-- Bytes that an iteration credits (R223). -/
def vecBytes (t : TemplateBits) : Nat :=
  ((activeOuts t).map fun o =>
    let f := vFmt t (4 + o)
    let wd := portWidth f
    let sc := if fixedScaled f then 8 else 0
    match oMode t o with
    | 1 => (vRows t * wd + 7) / 8
    | 2 => 8 * wd + sc
    | _ => vRows t * (8 * wd + sc)).sum

/-- The command's iterations. -/
def State.vecBody (w : Who) (s : State) (_k : Nat) (c : Cmd) : Started :=
  let n := tN c.bits 12 1 * tN c.bits 13 1 * tN c.bits 14 1
  match s.vecLoop w c n 0 0 with
  | (s1, fl, none) => .done s1 (n * vecBytes c.bits) fl
  | (s1, fl, some t) => .fault s1 t fl

/-- Byte intervals that a vector command could access (R33). -/
def vecRefs (t : TemplateBits) : List (Int × Int) :=
  (activeIns t ++ (activeOuts t).map (4 + ·)).flatMap fun p =>
    let counts := [if 4 ≤ p && oMode t (p - 4) != 0 then 1 else vRows t, tN t 12 1, tN t 13 1, tN t 14 1]
    if counts.contains 0 then []
    else
      let sp := nestSpan (counts.mapIdx fun l n => (n, vStride t p l))
      let bb : Int := unitBytes (vFmt t p)
      let n : Int := if 4 ≤ p && oMode t (p - 4) == 1 then (vRows t * portWidth (vFmt t p) + 7) / 8 else 2 * bb
      let pay := (vBase t p + sp.1 * bb, vBase t p + sp.2 * bb + n)
      if (if p < 4 then readsScales t p else fixedScaled (vFmt t p)) then
        [pay, (scaleAddr t p sp.1, scaleAddr t p sp.2 + 8)]
      else [pay]

/-- VECTOR_COMMAND: the next command of a context's VXQ runs whole (R221, log 9).  The engine finds any operation code
in F0, assigned or not (R250). -/
def execVectorCommand (who : Who) (s : State) : Out :=
  .next (s.startCmd who .vxq (fun _ => true) (fun w _ c => s.heldBy w c (vecRefs c.bits)) vecChecks
    (fun s k c => s.vecBody who k c))

end Sys2Proof.Machine
end

