-- ==== Sys2Proof/Machine/System.lean ====
section
/-! DEFINITION. Control words and system instructions (R24 to R33, R51, R218 to R220). -/

namespace Sys2Proof.Machine

/-! ## Control words (R24) -/

/-- PREEMPT (R30). -/
def Ctx.preempt (x : Ctx) : Word := BitVec.ofNat 64 (if x.pend then 1 + x.budget % 8192 * 65536 else 0)

/-- A control word of a context; none for a number that R24 does not list. -/
def State.ctl (s : State) (w : Who) (n : Nat) : Option Word :=
  let x := s.ctxOf w
  match n with
  | 0x00 => some x.fpc
  | 0x01 => some x.fps
  | 0x02 => some (x.allot.setWidth 64)
  | 0x03 => some (s.ctxid w)
  | 0x04 => some x.teamid
  | 0x05 => some x.groups
  | 0x06 => some (BitVec.ofNat 64 x.slot.val)
  | 0x08 => some (s.core w.core).bankrole
  | 0x09 => some (x.bankown.setWidth 64)
  | 0x0A => some x.barown
  | 0x0B => some (s.core w.core).dirtylim
  | 0x0C => some x.leasemax
  | 0x0D => some x.bkoff
  | 0x0E => some x.bklim
  | 0x0F => some x.hangt
  | 0x10 => some x.preempt
  | 0x11 => some x.pleatst
  | 0x18 => some x.trapcause
  | 0x19 => some x.trappc
  | 0x1A => some x.trapval
  | 0x1B => some x.traphnd
  | _ => none

/-- Words whose access is RW (R24). -/
def ctlWritable (n : Nat) : Bool := [0x00, 0x01, 0x08, 0x0C, 0x0D, 0x0E, 0x0F, 0x18, 0x19, 0x1A, 0x1B].contains n

/-- The low bits of a word; written res0 bits are ignored (R5). -/
def lowBits (v : Word) (n : Nat) : Word := BitVec.ofNat 64 (bitsAt v 0 n)

/-- A written control word other than BANKROLE (R24, R25). -/
def Ctx.setCtl (x : Ctx) (n : Nat) (v : Word) : Ctx :=
  match n with
  | 0x00 => { x with fpc := lowBits v 9 }
  | 0x01 => { x with fps := lowBits v 5 }
  | 0x0C => { x with leasemax := BitVec.ofNat 64 (Nat.min v.toNat 4096) }
  | 0x0D => { x with bkoff := lowBits v 32 }
  | 0x0E => { x with bklim := lowBits v 8 }
  | 0x0F => { x with hangt := lowBits v 32 }
  | 0x18 => { x with trapcause := lowBits v 16 }
  | 0x19 => { x with trappc := v }
  | 0x1A => { x with trapval := v }
  | 0x1B => { x with traphnd := v &&& ~~~(3#64) }
  | _ => x

/-! ## Bank roles (R32, R33) -/

/-- Engine addresses that a queued command could use. -/
def State.cmdRefs (s : State) (w : Who) (q : Queue) (c : Cmd) : List (Int × Int) :=
  match q with
  | .vxq => vecRefs c.bits
  | .mxq => matRefs c.bits
  | .nxq => netRefs c.bits
  | .ldq | .stq => copyRefs (if cUsesObj c.bits then s.objOf (s.ctxOf w) (cObj c.bits) else none) (s.objOf (s.ctxOf w) (cFlagObj c.bits)) c.bits

/-- A bank leaves CACHE. -/
def leavesCache (old : Word) (banks : List Nat) : Bool := banks.any fun b => bitsAt old (2 * b) 2 == 0

/-- The roles of an image with those of some banks taken from another. -/
def takeRoles (old new : Word) (banks : List Nat) : Word := banks.foldl (fun v b => putBits v (2 * b) 2 (bitsAt new (2 * b) 2)) old

/-- No command that was queued before the stall began, of any context of the core, references a changing bank, and no line
that the core's L1 holds is leased when a bank leaves CACHE (R33, R350, R354). -/
def State.rolesFree (s : State) (c : CoreId) (banks : List Nat) (orders : List Nat) : Bool :=
  ((List.finRange 4).all fun k =>
    let w : Who := { core := c, ctx := k }
    allQueues.all fun q => ((s.ctxOf w).queues[q.num]).all fun d =>
      orders.getD k.val 0 ≤ d.order || !meetsBanks c c banks (s.cmdRefs w q d))
  && !(leavesCache (s.core c).bankrole banks && s.lineq.any fun l => s.l1Home l.who.core (128 * l.phys) == c && l.stop.isSome)

/-- The role change takes effect (R33).  Which lines a bank of the L1 holds is not architectural, so every line is written
back when a bank leaves CACHE; every changed bank loses its contents and reads zero. -/
def State.applyRoles (s : State) (c : CoreId) (new : Word) : State :=
  let banks := changedBanks (s.core c).bankrole new
  let s1 := if leavesCache (s.core c).bankrole banks then s.flushCore c else s
  s1.modCore c fun k =>
    { k with bankrole := new, scratch := banks.foldl (fun m b => cellsDrop m (65536 * b) (65536 * (b + 1))) k.scratch }

/-- A field holds the reserved role (R32). -/
def badRoles (v : Word) : Bool := (List.range 32).any fun b => bitsAt v (2 * b) 2 == 3

/-- A changed bank is not the context's (R32). -/
def foreignRoles (x : Ctx) (old new : Word) : Bool := (changedBanks old new).any fun b => !x.bankown.getLsbD b

/-- The role change that a write of BANKROLE begins now (R33). -/
def State.roleChange (s : State) (w : Who) (v : Word) : RoleChange :=
  let k := s.core w.core
  { roles := v, banks := changedBanks k.bankrole v, orders := k.ctx.toList.map fun y => y.order, team := (s.ctxOf w).team }

def State.changeFree (s : State) (c : CoreId) (r : RoleChange) : Bool := s.rolesFree c r.banks r.orders

/-- The banks of the change take their new roles; those that changed meanwhile for another reason keep theirs (R33). -/
def State.applyChange (s : State) (c : CoreId) (r : RoleChange) : State :=
  s.applyRoles c (takeRoles (s.core c).bankrole r.roles r.banks)

/-- MTC to BANKROLE (R32, R33). -/
def State.mtcBankrole (s : State) (i : Instr) (x : Ctx) (v : Word) : Except Stop State :=
  let old := (s.core s.who.core).bankrole
  if badRoles v then .error (.trap (illegal i))
  else if foreignRoles x old v then .error (.trap (privTrap i))
  else
    let r := s.roleChange s.who v
    let s1 := s.setCtx s.who (s.progressed x)
    if s1.changeFree s.who.core r then .ok ((s1.applyChange s.who.core r).advance 4)
    else .error (.goto (s1.modCtx s.who fun y => { y with blocked := some (.bankrole r) }))

/-- BANKROLE_CHANGE: a stalled MTC, or a debugger's change of a halted context's core, takes effect once nothing references
a changing bank (R33, R400).  A debugger's change whose team has left has no effect. -/
def execBankroleChange (who : Who) (s : State) : Out :=
  match (s.ctxOf who).blocked, (s.core who.core).dbg.roles.find? fun e => e.1 == who.ctx with
  | some (.bankrole r), _ =>
    if s.changeFree who.core r then
      .next (((s.applyChange who.core r).modCtx who fun x => { x with pc := pcAfter x.pc 4 }).goOn who none)
    else .next s
  | _, some e =>
    let drop := fun (s : State) => s.modCore who.core fun c => { c with dbg := { c.dbg with roles := c.dbg.roles.erase e } }
    if e.2.team != (s.ctxOf who).team then .next (drop s)
    else if s.changeFree who.core e.2 then .next (drop (s.applyChange who.core e.2))
    else .next s
  | _, none => .next s

/-! ## System instructions (R218) -/

def execMfc (d : SReg) (w : Byte) (s : State) : Out :=
  s.run (.mfc d w) [d] fun x =>
    match s.ctl s.who w.toNat with
    | none => .error (.trap (illegal (.mfc d w)))
    | some v => .ok (s.retire (x.ws d v) 4)

/-- The trap words, which user mode may not write (R25). -/
def ctlPriv (n : Nat) : Bool := 0x18 ≤ n

def execMtc (a : SReg) (w : Byte) (s : State) : Out :=
  s.run (.mtc a w) [a] fun x =>
    if !ctlWritable w.toNat then .error (.trap (illegal (.mtc a w)))
    else if ctlPriv w.toNat && x.mode == .user then .error (.trap (privTrap (.mtc a w)))
    else if w == 0x08 then s.mtcBankrole (.mtc a w) x (x.rs a)
    else .ok (s.retire (s.progressed (x.setCtl w.toNat (x.rs a))) 4)

def execRdgtc (d : SReg) (s : State) : Out := s.compute (.rdgtc d) [d] d fun _ => s.gtc

def execNop (s : State) : Out := s.run .nop [] fun x => .ok (s.retire x 4)

/-- The code of TRAP and BRK, which their traps carry (R218). -/
def execTrap (c : BitVec 24) (s : State) : Out := s.run (.trap c) [] fun _ => trap Cause.trapi 0 (c.setWidth 64)

def execBrk (c : BitVec 24) (s : State) : Out :=
  s.run (.brk c) [] fun _ =>
    if (s.core s.who.core).dbg.brkarm then .error (.goto (s.haltCtx s.who 1))
    else trap Cause.brk 0 (c.setWidth 64)

def execRtt (s : State) : Out :=
  s.run .rtt [] fun x =>
    if x.mode == .user then .error (.trap (privTrap .rtt))
    else
      match checkTarget x.trappc with
      | .error e => .error e
      | .ok _ => .ok (s.setCtx s.who (s.progressed (returnFromTrap x)))

/-! ## SAFEPT and EXIT (R219, R220) -/

/-- The oldest deferred PST fault is reported (R187). -/
def State.reportPst (s : State) (w : Who) : Except Stop Unit :=
  match oldestDeferred (s.ctxOf w).deferred with
  | some d => .error (.goto (s.reportDeferred w d))
  | none => .ok ()

/-- R216 excludes a SAFEPT in a window of width above 1. -/
def State.wideWindow (s : State) (x : Ctx) : Bool :=
  match s.positionOf x with
  | some (_, r, _) => 1 < r.pos.length
  | none => (s.guessingOf x).isSome

def execSafept (n : BitVec 16) (s : State) : Out :=
  s.run (.safept n) [] fun x0 =>
    match s.launchOf x0 with
    | none => .error (.trap (illegal (.safept n)))
    | some l =>
      if l.desc.livecnt ≤ n.toNat then .error (.trap (illegal (.safept n)))
      else
        match s.reportPst s.who with
        | .error e => .error e
        | .ok _ =>
          match s.reportIf s.who (fun _ => true) with
          | .error e => .error e
          | .ok _ =>
            let s1 := s.settleLease s.who
            let x := s1.progressed s1.me
            if !x.pend || (s1.leaseOf s.who).isSome || s1.wideWindow x then .ok (s1.retire x 8)
            else
              match s1.releaseLocal s.who, x.advanceClock with
              | .error e, _ => .error e
              | _, .error e => .error e
              | .ok _, .ok _ => .ok (s1.setCtx s.who { x with
                  pc := pcAfter x.pc 8, run := .waiting, blocked := some (.gather n.toNat),
                  progress := { acc := 0, since := none } })

/-- The status of an exited member counts towards the launch's (R220, R348). -/
def State.recordStatus (s : State) (x : Ctx) (st : Byte) : State :=
  match s.teamOf x with
  | some t => s.modLaunch t.launch fun l => { l with status := Nat.max l.status st.toNat }
  | none => s

def execExit (c : Byte) (s : State) : Out :=
  s.run (.exit c) [] fun x =>
    match s.reportIf s.who (fun _ => true) with
    | .error e => .error e
    | .ok _ =>
      if !x.queues.toList.all (·.isEmpty) then .error (.stall .stall)
      else
        match s.releaseSys s.who with
        | .error e => .error e
        | .ok _ => .ok (((s.settleLease s.who).recordStatus x c).leaveTeam s.who .exited)

end Sys2Proof.Machine
end

