-- ==== Sys2Proof/Machine/Launch.lean ====
section
/-! DEFINITION. The command processor's side of launches: records and their checks (R326, R327, R365, R422), the rings
(R323, R328, R329), dependences (R330), step schedules and the prefetch walk (R332, R333, R373), LAUNCH (R217) and
completion (R348). -/

namespace Sys2Proof.Machine

/-! ## Reading for a slot -/

/-- Bytes read through a slot's translation with the right R; none where a part does not translate or is poisoned
(R327, R328). -/
def State.slotRead (s : State) (slot : Fin 16) (va n : Nat) : State × Option (List Byte) :=
  match s.spans slot .read (pageParts va n) with
  | (s1, .error _) => (s1, none)
  | (s1, .ok ps) => (s1, if s1.spansPoisoned ps then none else some (s1.readSpans ps))

/-- `n` little-endian bytes of a record at an offset. -/
def fieldAt (bs : List Byte) (off n : Nat) : Nat := leNat ((bs.drop off).take n)

/-- A res0 range of a record is zero. -/
def zeroAt (bs : List Byte) (off n : Nat) : Bool := ((bs.drop off).take n).all (· == 0)

/-- A table's entries of one size, each read on its own. -/
def State.readRows (s : State) (slot : Fin 16) (size : Nat) (va : Nat) : Nat → State × Option (List (List Byte))
  | 0 => (s, some [])
  | n + 1 =>
    match s.slotRead slot va size with
    | (s1, none) => (s1, none)
    | (s1, some bs) =>
      match s1.readRows slot size (va + size) n with
      | (s2, none) => (s2, none)
      | (s2, some r) => (s2, some (bs :: r))

/-! ## Launch records (R326, R327) -/

def recExt (bs : List Byte) : Bool := fieldAt bs 4 4 % 2 == 1
def recCmpl (bs : List Byte) : Bool := fieldAt bs 4 4 / 2 % 2 == 1
def recDep (bs : List Byte) (k : Nat) : Nat := fieldAt bs (0x60 + 8 * k) 8

/-- The checks of R327 on the record's own fields. -/
def recordOk (c : Slot) (ring : Bool) (bs : List Byte) : Bool :=
  let ndep := fieldAt bs 0x2C 1
  let seq := fieldAt bs 8 8
  fieldAt bs 0 1 == 1 && fieldAt bs 2 2 == 2 && fieldAt bs 4 4 < 4 && zeroAt bs 0x2D 3 && zeroAt bs 0x5C 4
    && (recExt bs || zeroAt bs 1 1 && zeroAt bs 0x30 24)
    && (recCmpl bs || zeroAt bs 0x48 8)
    && (fieldAt bs 0x50 8 != 0 || zeroAt bs 0x58 4)
    && ndep ≤ 4 && zeroAt bs (0x60 + 8 * ndep) (32 - 8 * ndep)
    && fieldAt bs 0x10 8 % 64 == 0 && fieldAt bs 0x18 8 % 64 == 0 && fieldAt bs 0x20 8 % 64 == 0
    && fieldAt bs 0x48 8 % 32 == 0 && fieldAt bs 0x28 4 ≤ 65536
    && (if ring then c.lastSeq.all (fun l => decide (l.toNat < seq)) && (List.range ndep).all fun k => decide (recDep bs k < seq)
        else seq == 0 && ndep == 0)

/-- The kernel descriptor in its 128 bytes (R129). -/
def parseDesc (addr : Nat) (bs : List Byte) : Desc :=
  { addr := BitVec.ofNat 64 addr
    entry := BitVec.ofNat 64 (fieldAt bs 0 8)
    handler := BitVec.ofNat 64 (fieldAt bs 8 8)
    allot := fieldAt bs 0x10 1
    team := fieldAt bs 0x11 1
    depth := fieldAt bs 0x12 1
    bankreq := BitVec.ofNat 32 (fieldAt bs 0x14 4)
    bankroles := BitVec.ofNat 64 (fieldAt bs 0x18 8)
    barreq := BitVec.ofNat 64 (fieldAt bs 0x20 8)
    ext := (List.range 6).map fun k => fieldAt bs (0x28 + 4 * k) 4
    liveoff := fieldAt bs 0x48 4
    livecnt := fieldAt bs 0x4C 4 }

/-- R17, the team size, and the roles of the banks that the team needs (R327). -/
def Desc.ok (d : Desc) : Bool :=
  16 ≤ d.allot && d.allot % 8 == 0 && d.allot ≤ 64 && 1 ≤ d.team && d.team ≤ 64
    && (List.range 32).all fun b => !d.bankreq.getLsbD b || bitsAt d.bankroles (2 * b) 2 != 3

/-- A TMPL entry; none when it names no engine or no template index (R130). -/
def parseTmpl (bs : List Byte) : Option TmplEntry :=
  if 3 < fieldAt bs 0 1 || 63 < fieldAt bs 1 1 then none
  else (Engine.ofCode (BitVec.ofNat 2 (fieldAt bs 0 1))).map fun e =>
    { engine := e, index := BitVec.ofNat 6 (fieldAt bs 1 1), bits := BitVec.ofNat 1024 (fieldAt bs 4 128) }

def parseLive (bs : List Byte) : Live :=
  { scalars := BitVec.ofNat 64 (fieldAt bs 0 8), handles := BitVec.ofNat 32 (fieldAt bs 8 4),
    bars := BitVec.ofNat 64 (fieldAt bs 16 8) }

/-- GROUP entries fill the group table one after another (R46, R130). -/
def groupTable (rows : List (List Byte)) : List (Byte × Word) :=
  rows.foldl (fun t bs => (BitVec.ofNat 8 (fieldAt bs 0 1), BitVec.ofNat 64 (fieldAt bs 8 8)) ::
    t.filter fun e => e.1 != BitVec.ofNat 8 (fieldAt bs 0 1)) []

/-- R46: ranks below T, and at most four groups for a rank. -/
def groupsOk (t : List (Byte × Word)) (team : Nat) : Bool :=
  (t.all fun e => decide (e.2.toNat < 2 ^ team)) &&
    (List.range 64).all fun k => decide ((t.filter fun e => e.2.getLsbD k).length ≤ 4)

/-! ## Object table entries (R364, R365, R422) -/

/-- An entry's fields; per-package state as R367 sets it, with no mesh yet. -/
def parseObj (bs : List Byte) : Obj :=
  let attr : BitVec 16 := BitVec.ofNat 16 (fieldAt bs 0 2)
  { kind := attr.extractLsb' 0 2, fenced := bitAt attr 2, detect := bitAt attr 3, rd := bitAt attr 5, wr := bitAt attr 6
    usc := bitAt attr 7, wc := attr.extractLsb' 8 2, fmt := BitVec.ofNat 8 (fieldAt bs 2 1), ndim := fieldAt bs 3 1
    place := BitVec.ofNat 16 (fieldAt bs 4 2), msize := BitVec.ofNat 32 (fieldAt bs 8 4)
    midx := BitVec.ofNat 32 (fieldAt bs 0x0C 4), base := BitVec.ofNat 64 (fieldAt bs 0x10 8)
    size := BitVec.ofNat 64 (fieldAt bs 0x18 8), scale := BitVec.ofNat 64 (fieldAt bs 0x20 8)
    poolid := BitVec.ofNat 64 (fieldAt bs 0x28 8), node := BitVec.ofNat 11 (fieldAt bs 0x30 2)
    captag := BitVec.ofNat 64 (fieldAt bs 0x38 8), dims := BitVec.ofNat 64 (fieldAt bs 0x40 8)
    strides := BitVec.ofNat 96 (fieldAt bs 0x48 12), tiles := BitVec.ofNat 64 (fieldAt bs 0x58 8)
    domain := 0, mesh := Vector.replicate 4 [], flight := 0, sealed := 0, begun := 0, status := 0, nan := false
    axis := 0, num := 0, missing := 0, codebooks := Vector.replicate 4 none }

/-- Extent, stride and tile extent of a dimension as the entry gives them. -/
def rawDim (o : Obj) (k : Nat) : Nat := bitsAt o.dims (16 * k) 16
def rawStr (o : Obj) (k : Nat) : Int := (o.strides.extractLsb' (24 * k) 24).toInt
def rawTile (o : Obj) (k : Nat) : Nat := bitsAt o.tiles (16 * k) 16

/-- Largest element offset of the default view (R365). -/
def Obj.topElem (o : Obj) : Int :=
  (List.range o.ndim).foldl (fun v k => if 0 < rawStr o k then v + ((rawDim o k - 1 : Nat) : Int) * rawStr o k else v) 0

/-- The conditions of R365 and R315 on a valid entry. -/
def objOk (bs : List Byte) (o : Obj) : Bool :=
  let four := List.range 4
  let used := four.any fun a => o.axisSize a != 0
  fieldAt bs 0 2 < 1024 && zeroAt bs 6 2 && fieldAt bs 0x30 2 < 2048 && zeroAt bs 0x32 6 && zeroAt bs 0x54 4 && zeroAt bs 0x68 24
    && (o.kind != 0 || o.base == 0) && (o.kind == 0 || o.poolid == 0) && o.kind != 3
    && fmtOk o.fmt.toNat o.wc.toNat o.usc
    && o.ndim ≤ 4 && (four.all fun k => if k < o.ndim then rawDim o k != 0 else rawDim o k == 0 && rawStr o k == 0)
    && o.size != 0 && o.topElem < o.size.toNat
    && (o.kind == 0 || o.base.toNat % 64 == 0)
    && (o.kind != 2 || o.base.toNat + (o.size.toNat * o.width + 7) / 8 ≤ 0x200000)
    && o.scale.toNat % 4 == 0 && (!o.scaled || o.scale != 0)
    && (!o.detect || o.kind != 0 && (four.all fun k =>
          if k < o.ndim then 1 ≤ rawTile o k && rawTile o k ≤ rawDim o k else rawTile o k == 0))
    && (!o.scaled || four.all (fun k => rawTile o k == 0) || rawTile o 0 % 32 == 0)
    && (!o.fenced || o.kind != 2)
    && (four.all fun a => if o.axisSize a == 0 then viewCode o.place a == 15
        else o.axisSize a ≤ 64 && o.member a < o.axisSize a && placementOk (viewCode o.place a) && o.kind != 2)
    && (used || fieldAt bs 0x60 8 == 0) && fieldAt bs 0x60 8 % 64 == 0

/-- Stations of an axis in a mesh table (R422). -/
def meshRow (bs : List Byte) (a n : Nat) : List (BitVec 10) :=
  (List.range n).map fun k => BitVec.ofNat 10 (fieldAt bs (0x40 + 128 * a + 2 * k) 2)

/-- The conditions of R422 on a mesh table. -/
def meshOk (stn : BitVec 10) (bs : List Byte) (o : Obj) : Bool :=
  zeroAt bs 8 56 && (List.range 4).all fun a =>
    let n := o.axisSize a
    let row := meshRow bs a n
    zeroAt bs (0x40 + 128 * a + 2 * n) (128 - 2 * n)
      && (List.range n).all (fun k => decide (fieldAt bs (0x40 + 128 * a + 2 * k) 2 < 1024))
      && row.eraseDups.length == n && (n == 0 || row[o.member a]? == some stn)

/-- One entry of the object table: none when it makes the record malformed, and no object when it is not valid. -/
def State.readObj (s : State) (slot : Fin 16) (bs : List Byte) : State × Option (Option Obj) :=
  let o := parseObj bs
  if fieldAt bs 0 2 / 16 % 2 == 0 then (s, some none)
  else if !objOk bs o then (s, none)
  else if o.msize == 0 then (s, some (some o))
  else
    match s.slotRead slot (fieldAt bs 0x60 8) 576 with
    | (s1, none) => (s1, none)
    | (s1, some m) =>
      if !meshOk s.mgmt.stnid m o then (s1, none)
      else (s1, some (some { o with
        domain := BitVec.ofNat 64 (fieldAt m 0 8)
        mesh := Vector.ofFn fun a : Fin 4 => meshRow m a.val (o.axisSize a.val) }))

/-- The object table. -/
def State.readObjs (s : State) (slot : Fin 16) : List (List Byte) → State × Option (List (Option Obj))
  | [] => (s, some [])
  | bs :: rest =>
    match s.readObj slot bs with
    | (s1, none) => (s1, none)
    | (s1, some o) =>
      match s1.readObjs slot rest with
      | (s2, none) => (s2, none)
      | (s2, some os) => (s2, some (o :: os))

/-! ## A KERNEL record -/

/-- Depth and extents (R326). -/
def recNest (bs : List Byte) (d : Desc) : Nat × List Nat :=
  if recExt bs then (fieldAt bs 1 1, (List.range 6).map fun k => fieldAt bs (0x30 + 4 * k) 4) else (d.depth, d.ext)

/-- Iterations (R327). -/
def iterations (ext : List Nat) : Nat := ext.foldl (· * ·) 1

/-- The nest is permitted: depth, extents beyond it, and the iteration count (R327). -/
def nestOk (n : Nat × List Nat) (team : Nat) : Bool :=
  let i := iterations (n.2.take n.1)
  n.1 ≤ 6 && (n.2.drop n.1).all (· == 0) && i % team == 0 && i / team < 2 ^ 32

/-- The tables that a descriptor names (R129): TMPL, LIVE and GROUP entries. -/
def State.readTables (s : State) (slot : Fin 16) (d : List Byte) :
    State × Option (List (List Byte) × List (List Byte) × List (List Byte)) :=
  match s.readRows slot 132 (fieldAt d 0x60 8 + 132 * fieldAt d 0x40 4) (fieldAt d 0x44 4) with
  | (s1, none) => (s1, none)
  | (s1, some t) =>
    match s1.readRows slot 32 (fieldAt d 0x68 8 + 32 * fieldAt d 0x48 4) (fieldAt d 0x4C 4) with
    | (s2, none) => (s2, none)
    | (s2, some l) =>
      match s2.readRows slot 16 (fieldAt d 0x70 8 + 16 * fieldAt d 0x50 4) (fieldAt d 0x54 2) with
      | (s3, none) => (s3, none)
      | (s3, some g) => (s3, some (t, l, g))

/-- The launch that a record describes, or none when the record is malformed (R327). -/
def State.readKernel (s : State) (slot : Fin 16) (ring : Bool) (off : Nat) (bs : List Byte) : State × Option Launch :=
  if !recordOk s.slots[slot] ring bs then (s, none)
  else
    match s.slotRead slot (fieldAt bs 0x10 8) 128 with
    | (s1, none) => (s1, none)
    | (s1, some db) =>
      let d := parseDesc (fieldAt bs 0x10 8) db
      let nest := recNest bs d
      if !d.ok || !nestOk nest d.team then (s1, none)
      else
        match s1.readTables slot db with
        | (s2, none) => (s2, none)
        | (s2, some (t, l, g)) =>
          match t.mapM parseTmpl with
          | none => (s2, none)
          | some tm =>
            let groups := groupTable g
            if !groupsOk groups d.team then (s2, none)
            else
              match s2.readRows slot 128 (fieldAt bs 0x20 8) (fieldAt bs 0x28 4) with
              | (s3, none) => (s3, none)
              | (s3, some rows) =>
                match s3.readObjs slot rows with
                | (s4, none) => (s4, none)
                | (s4, some objs) =>
                  let ext := nest.2.take nest.1
                  (s4, some {
                    id := s4.nextId, slot := slot, seq := BitVec.ofNat 64 (fieldAt bs 8 8), ring := ring
                    offset := BitVec.ofNat 32 off
                    cmpla := if recCmpl bs then some (BitVec.ofNat 64 (fieldAt bs 0x48 8)) else none
                    desc := d, ext := ext, objs := objs, groups := groups, live := l.map parseLive, tmpls := tm
                    args := BitVec.ofNat 64 (fieldAt bs 0x18 8), req := BitVec.ofNat 64 (fieldAt bs 0x50 8)
                    step := BitVec.ofNat 32 (fieldAt bs 0x58 4)
                    deps := (List.range (fieldAt bs 0x2C 1)).map fun k => BitVec.ofNat 64 (recDep bs k)
                    phase := .pending, readyAt := 0, readyGtc := 0, cut := 0, lastDie := 7, total := iterations ext / d.team
                    status := 0, memberErr := false, credit := none })

/-! ## Completion entries (R329) -/

/-- The 32 bytes of an entry. -/
def entryBytes (seq status err ring off gtc skip : Nat) : List Byte :=
  leBytes 8 seq ++ leBytes 1 status ++ leBytes 1 err ++ leBytes 1 ring ++ leBytes 1 0 ++ leBytes 4 off
    ++ leBytes 8 gtc ++ leBytes 4 skip ++ leBytes 4 0

def State.modSlot (s : State) (slot : Fin 16) (f : Slot → Slot) : State := { s with slots := s.slots.set slot (f s.slots[slot]) }

/-- One copy of an entry is written through the slot's translation, or dropped with the event CMPLFAIL (R329, R438). -/
def State.writeEntry (s : State) (slot : Fin 16) (va : Nat) (bs : List Byte) : State :=
  match s.spans slot .write (pageParts va 32) with
  | (s1, .ok ps) => s1.writeSpans ps bs
  | (s1, .error _) =>
    s1.logEvent s1.unitSrc .cmplfail [BitVec.ofNat 64 slot.val, BitVec.ofNat 64 (fieldAt bs 0 8), BitVec.ofNat 64 va]

/-- An entry goes to CMPLA, and waits for the completion ring unless that is disabled. -/
def State.postEntry (s : State) (slot : Fin 16) (bs : List Byte) (toRing : Bool) (cmpla : Option Word) : State :=
  let s1 := match cmpla with
    | some a => s.writeEntry slot a.toNat bs
    | none => s
  if toRing && ringSize s.slots[slot].crsize != 0 then s1.modSlot slot fun c => { c with heldEntries := c.heldEntries ++ [bs] }
  else s1

/-- COMPLETION_ENTRY_WRITE: the oldest held entry is written once the completion ring has room (R329). -/
def execCompletionEntryWrite (slot : Fin 16) (s : State) : Out :=
  let c := s.slots[slot]
  let size := ringSize c.crsize
  match c.heldEntries with
  | [] => .next s
  | e :: rest =>
    if s.mgmt.pkghlt then .next s
    else if size == 0 then .next (s.modSlot slot fun c => { c with heldEntries := [] })
    else if c.crpi.toNat - c.crci.toNat + 32 ≤ size then
      .next ((s.writeEntry slot (c.crbase.toNat + c.crpi.toNat % size) e).modSlot slot fun c =>
        { c with heldEntries := rest, crpi := c.crpi + 32 })
    else .next s

/-- Quantum of a slot in nanoseconds (R324). -/
def Slot.quantumNs (c : Slot) : Nat := (if bitsAt c.scfg 32 32 == 0 then 2000 else bitsAt c.scfg 32 32) * 1000

/-- CLASS of a slot (R324). -/
def Slot.cls (c : Slot) : Nat := bitsAt c.scfg 0 2

/-- Quantum that begins now for a team of a launch (R324, R342). -/
def State.quantumOf (s : State) (launch : Nat) : Nat := ((s.launchAt launch).map fun l => s.slots[l.slot].quantumNs).getD 0

/-! ## LAUNCH credits (R217) -/

/-- A rank of a placed team shares a core group with a member that is placed: that member's core. -/
def Team.groupCore (t : Team) (r : Nat) : Option CoreId :=
  ((t.coreGroups.find? fun g => g.contains r).getD []).findSome? fun k => (t.whoOf k).map (·.core)

/-- The arrival reaches the barrier on the core of the issuer's core group. -/
def State.applyCredit (s : State) (t : Team) (r : Nat) (b : BitVec 6) : State :=
  match t.groupCore r with
  | some c => s.modBar c b Barrier.arrive
  | none => s

/-- An arrival for a swapped team is held until the team is placed again. -/
def State.creditLaunch (s : State) (c : Credit) : State :=
  match s.teamAt c.team, c.bar with
  | some t, some b =>
    if t.phase == .swapped then s.modTeam t.id fun t => { t with held := t.held ++ [(c.rank, b)] } else s.applyCredit t c.rank b
  | _, _ => s

/-- The issuer has one LAUNCH less outstanding (R217). -/
def State.launchEnded (s : State) (c : Credit) : State :=
  match s.teamAt c.team with
  | some t =>
    match t.whoOf c.rank with
    | some w => s.modCtx w fun x => { x with launches := x.launches - 1 }
    | none => s.modTeam t.id fun t => { t with seam := t.seam.map fun m =>
        { m with ctxs := m.ctxs.map fun e => if e.1 == c.rank then (e.1, { e.2 with launches := e.2.launches - 1 }) else e } }
  | none => s

/-! ## Step schedules (R333, R373) -/

/-- Pages of a schedule entry, in order. -/
def schedPages (slot : Fin 16) (l : List (Word × Nat × Nat)) : List (Fin 16 × Word × Nat) :=
  l.flatMap fun e => (List.range e.2.2).map fun k => (slot, e.1, e.2.1 + k)

/-- Inserts an entry of the schedule table by its step. -/
def stepInsert (e : (Word × IWord) × List (Word × Nat × Nat)) :
    List ((Word × IWord) × List (Word × Nat × Nat)) → List ((Word × IWord) × List (Word × Nat × Nat))
  | [] => [e]
  | d :: ds => if e.1.2.toNat < d.1.2.toNat then e :: d :: ds else d :: stepInsert e ds

/-- PFD of a slot (R362). -/
def Slot.pfd (c : Slot) : Nat := bitsAt c.mslot 33 3

/-- The walk of a launch that becomes ready (R373). -/
def State.walkLaunch (s : State) (l : Launch) : State :=
  if l.req == 0 then s
  else
    let c := s.slots[l.slot]
    let hit := c.sched.filter fun e =>
      e.1.1 == l.req && l.step.toNat ≤ e.1.2.toNat && e.1.2.toNat ≤ l.step.toNat + c.pfd
    let pages := ((hit.foldl (fun l e => stepInsert e l) []).map (·.2)).flatMap (schedPages l.slot)
    s.pump (s.prefetch ++ pages)

/-! ## Pending, ready, complete (R330, R348) -/

/-- Pending and running launches of a slot. -/
def State.liveLaunches (s : State) (slot : Fin 16) : Nat := (s.launches.filter fun l => l.slot == slot && l.phase != .done).length

/-- A launch becomes ready, and starts to run. -/
def State.makeReady (s : State) (l : Launch) : State :=
  let s1 := { s with nextId := s.nextId + 1 }.modLaunch l.id fun l =>
    { l with phase := .running, readyAt := s.nextId, readyGtc := s.gtc.toNat }
  s1.walkLaunch l

/-- What R330 says of a dependence. -/
inductive DepState | satisfied | fails | waits
  deriving DecidableEq, Repr

/-- A dependence on a sequence number of the slot, judged in the order of R330. -/
def Slot.judge (c : Slot) (d : Word) : DepState :=
  match c.seqs.find? fun e => e.1 == d with
  | some (_, some 0) => .satisfied
  | some (_, some _) => .fails
  | some (_, none) => if c.lastSeq.any fun l => decide (d.toNat + 4096 < l.toNat) then .satisfied else .waits
  | none => if c.lastSeq.any fun l => decide (d.toNat < l.toNat) then .fails else .waits

/-- Tile-table entries of a launch are freed on every die (R348). -/
def State.freeTiles (s : State) (launch : Nat) : State :=
  { s with dies := s.dies.map fun d =>
      { tiles := d.tiles.filter fun t => !(s.teamAt t.team).any fun m => m.launch == launch, alloc := d.alloc.filter fun a => a.1 != launch } }

/-- A launch completes (R329, R330, R333, R348). -/
def State.completeLaunch (s : State) (l : Launch) (status err : Nat) : State :=
  let s1 := s.modLaunch l.id fun l => { l with phase := .done }
  let s2 := { s1 with teams := s1.teams.map fun (t : Team) => if t.launch == l.id then { t with phase := .done, seam := none } else t }
  let s3 := s2.modSlot l.slot fun c => { c with
    seqs := if l.ring then c.seqs.map fun e => if e.1 == l.seq then (e.1, some (BitVec.ofNat 8 err)) else e else c.seqs
    sched := if l.req == 0 then c.sched else c.sched.filter fun e => !(e.1.1 == l.req && e.1.2.toNat ≤ l.step.toNat) }
  let entry := entryBytes l.seq.toNat status err (if l.ring then l.slot.val else 255) l.offset.toNat s.gtc.toNat 0
  let s4 := ((s3.freeTiles l.id).dropConvs l.id).postEntry l.slot entry (l.ring || err != 0) l.cmpla
  match l.credit with
  | some c => (s4.launchEnded c).creditLaunch c
  | none => s4

/-- LAUNCH_READY: a pending launch whose dependences are satisfied becomes ready; one of which a dependence failed completes
with DEPFAIL. -/
def execLaunchReady (launch : Nat) (s : State) : Out :=
  match s.launchAt launch with
  | none => .next s
  | some l =>
    if l.phase != .pending || s.mgmt.pkghlt then .next s
    else
      let j := l.deps.map s.slots[l.slot].judge
      if j.contains .fails then .next (s.completeLaunch l 0 4)
      else if j.all (· == .satisfied) then .next (s.makeReady l)
      else .next s

/-- Every member of a team has exited or ended, and no context runs its commands any more. -/
def State.teamGone (s : State) (t : Team) : Bool :=
  (List.range t.members.length).all t.hasLeft && (s.teamCores t).isEmpty

/-- A store of a launch's members to the outside, or to an object of this package, is not acknowledged yet: one that a member
ended by a trap has left (R329, R378). -/
def State.storesOut (s : State) (launch : Nat) : Bool :=
  s.reqs.any fun r => !r.targets.isEmpty && (r.team.bind s.teamAt).any fun t => t.launch == launch

/-- LAUNCH_COMPLETION: every member of every team has exited or ended (R220, R348), and the launch's stores are visible at scope
SYS (R329). -/
def execLaunchCompletion (launch : Nat) (s : State) : Out :=
  match s.launchAt launch with
  | none => .next s
  | some l =>
    if l.phase != .running || l.cut != l.total || s.mgmt.pkghlt || s.storesOut launch
        || !((s.teams.filter fun t => t.launch == l.id).all s.teamGone) then .next s
    else .next (s.completeLaunch l l.status (if l.memberErr then 5 else 0))

/-! ## The launch rings (R328) -/

/-- A SCHED record's table (R332). -/
def schedOk (bs : List Byte) : Bool :=
  let n := fieldAt bs 0x14 2
  zeroAt bs 1 1 && zeroAt bs 4 4 && fieldAt bs 8 8 != 0 && 1 ≤ n && n ≤ 60 && fieldAt bs 2 2 == 1 + (16 * n + 63) / 64
    && zeroAt bs 0x16 42 && (bs.drop (0x40 + 16 * n)).all (· == 0)
    && (List.range n).all fun j => fieldAt bs (0x4C + 16 * j) 4 != 0

def schedEntries (bs : List Byte) : List (Word × Nat × Nat) :=
  (List.range (fieldAt bs 0x14 2)).map fun j =>
    (BitVec.ofNat 64 (fieldAt bs (0x40 + 16 * j) 8), fieldAt bs (0x48 + 16 * j) 4, fieldAt bs (0x4C + 16 * j) 4)

/-- A ready launch of the slot that has not completed reaches a step (R373). -/
def State.wantsStep (s : State) (slot : Fin 16) (req : Word) (step : Nat) : Bool :=
  s.launches.any fun l => l.slot == slot && l.phase == .running && l.req == req && l.step.toNat ≤ step
    && step ≤ l.step.toNat + s.slots[slot].pfd

/-- The record at LRCI is consumed. -/
def State.pass (s : State) (slot : Fin 16) (n : Nat) : State := s.modSlot slot fun c => { c with lrci := c.lrci + BitVec.ofNat 64 n }

/-- A record is rejected: the ring goes on at the next lap (R328). -/
def State.rejectRecord (s : State) (slot : Fin 16) (seq err : Nat) : State :=
  let c := s.slots[slot]
  let size := ringSize c.lrsize
  let off := c.lrci.toNat % size
  (s.pass slot (size - off)).postEntry slot (entryBytes seq 0 err slot.val off s.gtc.toNat (size - off)) true none

/-- A valid SCHED record is accepted, or refused for want of a free entry (R333). -/
def State.acceptSched (s : State) (slot : Fin 16) (bs : List Byte) (len : Nat) : State :=
  let c := s.slots[slot]
  let off := c.lrci.toNat % ringSize c.lrsize
  let key : Word × IWord := (BitVec.ofNat 64 (fieldAt bs 8 8), BitVec.ofNat 32 (fieldAt bs 0x10 4))
  let rest := c.sched.filter fun e => e.1 != key
  let s1 := s.pass slot len
  if 256 ≤ rest.length then s1.postEntry slot (entryBytes 0 0 6 slot.val off s.gtc.toNat 0) true none
  else
    let s2 := s1.modSlot slot fun c => { c with sched := rest ++ [(key, schedEntries bs)] }
    if s2.wantsStep slot key.1 key.2.toNat then s2.pump (s2.prefetch ++ schedPages slot (schedEntries bs)) else s2

/-- A KERNEL record is accepted: the launch is pending (R330). -/
def State.acceptKernel (s : State) (slot : Fin 16) (l : Launch) (len : Nat) : State :=
  ({ s with nextId := s.nextId + 1, launches := s.launches ++ [l] }.pass slot len).modSlot slot fun c =>
    { c with lastSeq := some l.seq, seqs := (l.seq, none) :: c.seqs }

/-- SEQ that the entry of a rejected record carries (R329). -/
def recSeq (bs : List Byte) : Nat := if fieldAt bs 0 1 == 1 then fieldAt bs 8 8 else 0

/-- A record whose first 64 bytes have been read (R328). -/
def State.ringRecord (s : State) (slot : Fin 16) (head : List Byte) (avail : Nat) : State :=
  let c := s.slots[slot]
  let size := ringSize c.lrsize
  let off := c.lrci.toNat % size
  let typ := fieldAt head 0 1
  let len := 64 * fieldAt head 2 2
  if 2 < typ then s.rejectRecord slot 0 2
  else if len == 0 || size < off + len then s.rejectRecord slot (recSeq head) 3
  else if avail < len then s
  else if typ == 0 then s.pass slot len
  else
    match s.slotRead slot (c.lrbase.toNat + off) len with
    | (s1, none) => s1.rejectRecord slot (recSeq head) 1
    | (s1, some bs) =>
      if typ == 2 then (if schedOk bs then s1.acceptSched slot bs len else s1.rejectRecord slot 0 1)
      else
        match s1.readKernel slot true off bs with
        | (s2, none) => s2.rejectRecord slot (recSeq head) 1
        | (s2, some l) => s2.acceptKernel slot l len

/-- LAUNCH_RING_RECORD: the next record of an enabled ring, unless an entry is held or the slot holds 256 launches (R328 to
R330). -/
def execLaunchRingRecord (slot : Fin 16) (s : State) : Out :=
  let c := s.slots[slot]
  let size := ringSize c.lrsize
  let avail := c.lrpi.toNat - c.lrci.toNat
  if s.mgmt.pkghlt || size == 0 || avail < 64 || !c.heldEntries.isEmpty || 256 ≤ s.liveLaunches slot then .next s
  else
    match s.slotRead slot (c.lrbase.toNat + c.lrci.toNat % size) 64 with
    | (s1, none) => .next (s1.rejectRecord slot 0 1)
    | (s1, some head) => .next (s1.ringRecord slot head avail)

/-! ## LAUNCH (R217) -/

/-- The record is passed to the command processor. -/
def State.deviceLaunch (s : State) (slot : Fin 16) (a : Word) (cr : Credit) : State :=
  let off := bitsAt a 0 32
  let reject := fun (s : State) (seq : Nat) =>
    (s.postEntry slot (entryBytes seq 0 1 255 off s.gtc.toNat 0) true none).creditLaunch cr
  match s.slotRead slot a.toNat 128 with
  | (s1, none) => reject s1 0
  | (s1, some bs) =>
    match s1.readKernel slot false off bs with
    | (s2, none) => reject s2 (recSeq bs)
    | (s2, some l0) =>
      let l := { l0 with credit := some cr }
      let s3 := { s2 with nextId := s2.nextId + 1, launches := s2.launches ++ [l] }
      (s3.modCtx s3.who fun x => { x with launches := x.launches + 1 }).makeReady l

/-- LAUNCH (R217).  A slot that holds 256 launches holds the instruction back as the limit of its context does (R330, log 58). -/
def execLaunch (a : SReg) (credit : Bool) (b : BitVec 6) (s : State) : Out :=
  s.run (.launch a credit b) [a] fun x =>
    let v := x.rs a
    match (if credit then checkBar (.launch a credit b) x b else .ok ()) with
    | .error e => .error e
    | .ok _ =>
      if bitsAt v 0 6 != 0 then trap Cause.align 0 v
      else
        if 8 ≤ x.launches || 256 ≤ s.liveLaunches x.slot then blockWait (.launch a credit b)
        else if s.localOut s.who then .error (.stall .drain)
        else
          let cr : Credit := { team := x.team.getD s.nextId, rank := x.rank, bar := if credit then some b else none }
          .ok ((s.complete x 8).deviceLaunch x.slot v cr)

end Sys2Proof.Machine
end

