-- ==== Sys2Proof/Machine/Pleat.lean ====
section
/-! DEFINITION. Pleat regions: their instructions, and the windows that the Pleat unit runs (R208 to R216, R313, R321). -/

namespace Sys2Proof.Machine

/-- PLEAT subcodes (R208). -/
def Sub.pleatNested : Byte := 2
def Sub.pleatUsage : Byte := 3

/-! ## Entry -/

/-- A member is blocked in PLEAT (R193). -/
def Ctx.inPleat (x : Ctx) : Bool :=
  match x.blocked with
  | some (.wait (.pleat _ _ _)) => true
  | _ => false

/-- Ranks of a team that are blocked in PLEAT. -/
def State.pleatArrived (s : State) (t : Team) : List Nat :=
  (List.range t.members.length).filter fun r => (t.whoOf r).any fun w => (s.ctxOf w).inPleat

/-- A region that a first member asks for. -/
def Region.asked (a n : Word) (w : Nat) (head : Word) : Region :=
  { guess := a, left := n, width := w, head := head, clock := Clock.zero, begun := false, pos := [], guessing := none }

/-- PLEAT (R209): the first member fixes the operands, and every member blocks until the window start. -/
def execPleat (a b : SReg) (w : BitVec 4) (s : State) : Out :=
  let i := Instr.pleat a b w
  s.run i [a, b] fun x =>
    match s.teamOf x with
    | none => s.openTrap Cause.pleat Sub.pleatUsage
    | some t =>
      let new := Region.asked (x.rs a) (x.rs b) w.toNat (pcAfter x.pc 4)
      if t.region.any (·.begun) then s.openTrap Cause.pleat Sub.pleatNested
      else if x.rs b == 0 then s.openTrap Cause.pleat Sub.pleatUsage
      else
        match x.advanceClock, s.releaseLocal s.who with
        | .error e, _ => .error e
        | _, .error e => .error e
        | .ok _, .ok _ =>
          match t.region, s.pleatArrived t with
          | some r, _ :: _ =>
            if r.guess == new.guess && r.left == new.left && r.width == new.width then blockWait i
            else s.openTrap Cause.pleat Sub.pleatUsage
          | _, _ => .error (.goto ((s.modTeam t.id fun t => { t with region := some new }).block s.who (.wait i)))

/-! ## Carries -/

/-- What PCARRY reads (R209, R210): the input of the position or of the guess, or the team's committed carry. -/
def State.carryIn (s : State) (x : Ctx) (k : Fin 8) : Word :=
  match s.guessingOf x with
  | some (_, r, g) => (r.pos[g.j - 1]?).elim 0 fun p => p.input[k]
  | none =>
    match s.positionOf x with
    | some (_, _, p) => p.input[k]
    | none => (s.teamOf x).elim 0 fun t => t.carries[k]

/-- What PCMP writes (R209, R210). -/
def State.carryOut (s : State) (x : Ctx) (k : Fin 8) (v : Word) : State :=
  match s.guessingOf x with
  | some (t, _, g) => s.modRegion t.id fun r => r.modPos g.j fun p => { p with input := p.input.set k v }
  | none =>
    match s.positionOf x with
    | some (t, _, _) => s.modRegion t.id fun r => r.modPos x.rank fun p => { p with output := p.output.set k v }
    | none =>
      match x.team with
      | some id => s.modTeam id fun t => { t with carries := t.carries.set k v }
      | none => s

def carryNo (k : BitVec 3) : Fin 8 := k.toFin

def execPcarry (a : SReg) (k : BitVec 3) (s : State) : Out :=
  s.compute (.pcarry a k) [a] a fun x => s.carryIn x (carryNo k)

def execPcmp (a : SReg) (k : BitVec 3) (s : State) : Out :=
  s.run (.pcmp a k) [a] fun x => .ok ((s.carryOut x (carryNo k) (x.rs a)).advance 4)

/-! ## Positions -/

/-- PLEATST of a rank in a window (R29). -/
def pleatst (spec : Bool) (pos wid acc : Nat) : Word :=
  BitVec.ofNat 64 (1 + (if spec then 2 else 0) + 4 * pos + 32 * wid + 1024 * acc)

/-- ACC of a PLEATST. -/
def accOf (v : Word) : Nat := bitsAt v 10 4

/-- A rank starts a position at the loop head with empty queues, FIFOs and build registers (R209); a halted one stays halted
(R399). -/
def startPos (now : Nat) (head : Word) (w k : Nat) (x : Ctx) : Ctx :=
  { x with pc := head, run := x.runAs .active, blocked := none, since := now, pleatst := pleatst (k != 0) k w (accOf x.pleatst),
           tok := Vector.replicate 6 [], build := Vector.replicate 5 none }

/-- The progress counter of a context runs on, unless it is halted (R391). -/
def State.resumeProgress (s : State) (x : Ctx) : Ctx := if x.run == .halted then x else s.runProgress x

/-- A guess right by rule 2: what position k - 1 published is what position k was given (R211). -/
def Region.guessRight (r : Region) (k : Nat) : Bool :=
  match r.pos[k - 1]?, r.pos[k]? with
  | some p, some q =>
    match p.state with
    | .published => p.output == q.input && !p.rejected
    | .running => true
    | .idle => true
    | _ => false
  | _, _ => false

/-- Starts position k, or rejects it at once (R211 rules 1 and 2). -/
def State.startPosition (s : State) (t : Team) (k : Nat) : State :=
  match (s.teamAt t.id).bind (·.region) with
  | none => s
  | some r =>
    let s1 := s.modRegion t.id fun r => r.modPos k fun q => { q with state := .running, output := q.input }
    let s2 := match t.whoOf k with
      | some w => s1.modCtx w fun x => s1.resumeProgress (startPos s.cycle r.head r.pos.length k x)
      | none => s1
    if k != 0 && !r.guessRight k then s2.rejectFrom t.id k else s2

/-- The next guess on rank 0, or with all guesses made, position 0 (R209, R210).  No rule checks the routine's address: the PC
holds it with PC[63:52] and PC[1:0] zero (R11, log 5). -/
def State.nextGuess (s : State) (t : Team) (j : Nat) : State :=
  match (s.teamAt t.id).bind (·.region), t.whoOf 0 with
  | some r, some w =>
    let x := s.ctxOf w
    if j < r.pos.length then
      let s1 := s.modRegion t.id fun r =>
        { r with guessing := some { j := j, s := x.s },
                 pos := r.pos.modify j fun q => { q with input := ((r.pos[j - 1]?).map (·.input)).getD q.input } }
      s1.modCtx w fun x => s1.resumeProgress { x with pc := pcOf r.guess, run := x.runAs .active, blocked := none, since := s.cycle }
    else (s.modRegion t.id fun r => { r with guessing := none }).startPosition t 0
  | _, _ => s

/-- PGRET (R210): rank 0's scalar file is restored, and the guess's position starts. -/
def execPgret (s : State) : Out :=
  s.run .pgret [] fun x =>
    match s.guessingOf x with
    | none => s.openTrap Cause.pleat Sub.pleatUsage
    | some (t, _, g) =>
      let s1 := s.setCtx s.who { x with s := g.s }
      .ok ((s1.startPosition t g.j).nextGuess t (g.j + 1))

/-- Position `k` has started with other carries than its predecessor has published (R210, R211). -/
def Region.guessedWrong (r : Region) (k : Nat) (out : Vector Word 8) : Bool :=
  match r.pos[k]? with
  | some q => q.state != .idle && q.input != out
  | none => false

/-- PLEND (R210): waits for the iteration's commands, then publishes the position's output.  A position p ≥ 1 with an engine fault
of its iteration that has not been reported stops instead (R214, R215, log 57).  A PLEND in a guess routine is misuse: USAGE, as outside a
region (R208, log 39). -/
def execPlend (o : BitVec 24) (s : State) : Out :=
  s.run (.plend o) [] fun x =>
    match s.guessingOf x, s.positionOf x with
    | none, some (t, r, p) =>
      if x.pc + sext64 o <<< 2 != r.head then s.openTrap Cause.pleat Sub.pleatUsage
      else if !(x.queues.toList.all (·.isEmpty)) then .error (.stall .stall)
      else if x.rank != 0 && x.faults.any fun f => p.order ≤ f.order then .error (.goto (s.stopPosition s.who t.id x.rank true))
      else
        match x.advanceClock with
        | .error e => .error e
        | .ok _ =>
          let s1 := s.modRegion t.id fun r => r.modPos x.rank fun q => { q with state := .published, after := pcAfter x.pc 4 }
          let s2 := s1.setCtx s.who { x with run := .waiting, blocked := some .window }
          .ok (if r.guessedWrong (x.rank + 1) p.output then s2.rejectFrom t.id (x.rank + 1) else s2)
    | _, _ => s.openTrap Cause.pleat Sub.pleatUsage

/-! ## Windows -/

/-- Files of a member that a window hands on (R209). -/
def takeFiles (src : Ctx) (x : Ctx) : Ctx := { x with s := src.s, h := src.h, allot := src.allot }

/-- A position before it starts, of a rank whose next command has an issue order. -/
def Position.start (v : Vector Word 8) (order : Nat) : Position :=
  { state := .idle, input := v, output := v, buf := [], whole := [], reads := [], direct := false, rejected := false, checks := [],
    order := order, after := 0 }

/-- Applies a change to every member's context. -/
def State.modMembers (s : State) (t : Team) (f : Nat → Ctx → Ctx) : State :=
  (List.range t.members.length).foldl (fun s r =>
    match t.whoOf r with
    | some w => s.modCtx w (f r)
    | none => s) s

/-- A member whose epoch cannot advance any more: it traps at its instruction, and the operation of the team has no effect
(R322). -/
def State.epochFull (s : State) (t : Team) : Option Who :=
  t.placedWho.find? fun w => 2 ^ 32 ≤ (s.ctxOf w).clock.at (s.ctxOf w).rank + 1

/-- Every member's clock becomes the join of all members' clocks, and each then advances (R318). -/
def State.joinTeam (s : State) (t : Team) : State :=
  let v := s.joinRanks t (List.range t.members.length)
  s.modMembers t fun r x =>
    { x with clock := (v.setIfInBounds r (BitVec.ofNat 32 (v.at r + 1))) }

/-- Whether the region's next window may start: at entry every member has arrived with empty queues, later the prior
window has been committed (R209). -/
def State.windowReady (s : State) (t : Team) (r : Region) : Bool :=
  t.phase == .placed && r.pos.isEmpty && (r.begun ||
    (List.range t.members.length).all fun k => (t.whoOf k).any fun w =>
      (s.ctxOf w).inPleat && (s.ctxOf w).queues.toList.all (·.isEmpty))

/-- Width of the next window (R209, R216). -/
def State.windowWidth (s : State) (t : Team) (r : Region) : Nat :=
  if t.placedWho.any fun w => (s.ctxOf w).pend then 1
  else Nat.min (Nat.min r.width t.members.length) r.left.toNat

/-- Issue order of a rank's next command. -/
def State.rankOrder (s : State) (t : Team) (k : Nat) : Nat := ((t.whoOf k).map fun w => (s.ctxOf w).order).getD 0

/-- The progress counter of a member as a window of `w` positions starts: zero when its PLEAT has just completed; it advances for
a rank of the window, and holds still for one outside, and while the context is halted (R391, log 57). -/
def State.windowProgress (s : State) (r : Region) (w k : Nat) (x : Ctx) : Ctx :=
  let acc := if r.begun then s.progressOf x else 0
  { x with progress := { acc := acc, since := if k < w && x.run != .halted then some s.cycle else none } }

/-- A window starts (R209): rank 0's files go to the other positions, the guesses run on rank 0, and every rank
outside the window waits. -/
def State.startWindow (s : State) (t : Team) (r : Region) : State :=
  let w := s.windowWidth t r
  let s0 := if r.begun then s else s.joinTeam t
  let x0 := match t.whoOf 0 with
    | some w0 => s0.ctxOf w0
    | none => Ctx.reset
  let s1 := s0.modMembers t fun k x =>
    let y := { s0.windowProgress r w k x with
      run := x.runAs .waiting, blocked := some .window, pleatst := pleatst false 0 w (accOf x.pleatst) }
    if 1 ≤ k && k < w then { takeFiles x0 y with fpc := x0.fpc, fps := x0.fps } else y
  let s2 := s1.modRegion t.id fun r => { r with
    begun := true, clock := s0.rankClock t 0, pos := (List.range w).map fun k => Position.start t.carries (s0.rankOrder t k) }
  s2.nextGuess t 1

def execPleatWindowStart (team : Nat) (s : State) : Out :=
  match s.teamAt team with
  | some t =>
    match t.region with
    | some r => if !s.mgmt.pkghlt && s.windowReady t r then .next (s.startWindow t r) else .next s
    | none => .next s
  | none => .next s

/-- Accepted count: 1 plus the run of unrejected positions from 1 (R211). -/
def accepted (ps : List Position) : Nat :=
  match ps with
  | [] => 0
  | _ :: qs => 1 + (qs.takeWhile fun q => q.state == .published && !q.rejected).length

/-- The window has ended: every position has published or been killed, and the running commands have finished (R211). -/
def State.windowEnded (s : State) (t : Team) (r : Region) : Bool :=
  !r.pos.isEmpty && r.guessing.isNone && (r.pos.all fun p => p.state == .published || p.state == .stopped || p.state == .killed)
    && (List.range r.pos.length).all fun k => match t.whoOf k with
      | some w => (s.ctxOf w).queues.toList.all (·.isEmpty)
      | none => true

/-- Commits the accepted positions in order; a race found stops the commit there (R212, R321, log 22). -/
def State.commitPositions (s : State) (t : Team) (v : Clock) : Nat → List Position → State × Nat × Option Found
  | k, [] => (s, k, none)
  | k, p :: ps =>
    match s.checkPosition t v p.checks with
    | .error f => (s, k, some f)
    | .ok s1 => (s1.writeBuffer t.memberCores p).commitPositions t v (k + 1) ps

/-- The accepted count a > 0 is known: carries, files and flags go on to rank 0, and the region ends or waits for its
next window (R209).  The members resume after the PLEND of the last accepted position (log 39). -/
def State.finishWindow (s : State) (t : Team) (r : Region) (a : Nat) : State :=
  let last := match t.whoOf (a - 1) with
    | some w => s.ctxOf w
    | none => Ctx.reset
  let flags := (List.range a).foldl (fun f k => match t.whoOf k with
    | some w => f ||| (s.ctxOf w).fps
    | none => f) (0 : Word)
  let (carries, after) := match r.pos[a - 1]? with
    | some p => (p.output, p.after)
    | none => (t.carries, 0)
  let s1 := s.modMembers t fun k x => if k == 0 then { takeFiles last x with fps := flags } else x
  let s2 := (s1.modTeam t.id fun t => { t with carries := carries }).joinTeam t
  let left := r.left.toNat - a
  if left == 0 then
    let x0 := match t.whoOf 0 with
      | some w => s2.ctxOf w
      | none => Ctx.reset
    let s3 := s2.modTeam t.id fun t => { t with region := none }
    s3.modMembers t fun k x =>
      let y := if k < Nat.min r.width t.members.length then takeFiles x0 x else x
      { s.resumeProgress y with
          run := x.runAs .active, blocked := none, pc := after, since := s.cycle, pleatst := BitVec.ofNat 64 (1024 * a) }
  else
    let s3 := s2.modRegion t.id fun r => { r with left := BitVec.ofNat 64 left, pos := [] }
    s3.modMembers t fun _ x => { x with pleatst := putBits x.pleatst 10 4 a }

def execPleatWindowCommit (team : Nat) (s : State) : Out :=
  match s.teamAt team with
  | some t =>
    match t.region with
    | some r =>
      if s.mgmt.pkghlt || !s.windowEnded t r then .next s
      else
        match s.epochFull t with
        | some w => .next (s.deliver w epochTrap)
        | none =>
          let (s1, k, race) := s.commitPositions t r.clock 0 (r.pos.take (accepted r.pos))
          match k, race, t.whoOf 0 with
          | 0, some f, some w =>
            let s2 := s1.modRegion t.id fun r => r.modPos 0 fun p => { p with state := .running }
            .next ((s2.modCtx w fun x => { x with run := x.runAs .active, blocked := none, since := s.cycle }).deliver w (raceTrap f))
          | _, _, _ => .next (s1.finishWindow t r (Nat.max k 1))
    | none => .next s
  | none => .next s

end Sys2Proof.Machine
end

