-- ==== Sys2Proof/Machine/Seam.lean ====
section
/-! DEFINITION. Swapping a team: the safe-point gather (R219), the quiesce (R395), the seam record (R343 to R345, R397),
abandonment (R396) and resumption (R346). -/

namespace Sys2Proof.Machine

/-! ## The gather -/

/-- Ranks of a team that are placed, with their contexts. -/
def Team.ranksAt (t : Team) : List (Nat × Who) :=
  (List.range t.members.length).filterMap fun r => (t.whoOf r).map fun w => (r, w)

/-- A context has arrived at the gather: by SAFEPT, in a wait instruction, or as a rank outside a Pleat window (R193,
R219).  One that a GBAR has released is no longer blocked in it, and a halted one has not arrived (R399). -/
def Ctx.arrived (x : Ctx) : Bool :=
  x.run == .waiting && (match x.blocked with
    | some (.gather _) => true
    | some (.wait _) => true
    | some .window => true
    | _ => false)

/-- A region lets its team be swapped only in a window of one position, whose rank has arrived (R216). -/
def State.regionRests (s : State) (t : Team) : Bool :=
  match t.region with
  | some r => !r.begun || (r.pos.length == 1 && r.guessing.isNone && (t.whoOf 0).any fun w => (s.ctxOf w).blocked != some .window)
  | none => true

/-- The gather is complete: a request is pending and every member has arrived or left (R219). -/
def State.gatherComplete (s : State) (t : Team) : Bool :=
  t.phase == .placed && !t.ranksAt.isEmpty && s.regionRests t
    && t.ranksAt.all fun m => (s.ctxOf m.2).pend && (s.ctxOf m.2).arrived

/-! ## Abandonment (R396) -/

/-- Clears the request of every member. -/
def clearRequest (x : Ctx) : Ctx := { x with pend := false, budget := 0, past := none }

/-- A member resumes in place: after its SAFEPT, or by running its wait again. -/
def State.resumeInPlace (s : State) (w : Who) : State :=
  if (s.ctxOf w).blocked == some .window then s.modCtx w clearRequest
  else (s.modCtx w fun x => s.runProgress (clearRequest x)).goOn w none

/-- Credits of a stopped command are taken out of the barriers that it credited (R345, R396). -/
def State.takeCredits (s : State) (w : Who) (c : Cmd) : State :=
  if c.credited == 0 then s
  else (if cOp c.bits == 2 then c.cores else [w.core]).foldl (fun s k =>
    s.modBar k c.bar fun b => { b with arrb := b.arrb - BitVec.ofNat 32 c.credited }) s

/-- The stopped commands of a member are to run again whole, with nothing credited. -/
def State.restartCopies (s : State) (w : Who) : State :=
  [Queue.ldq, Queue.stq].foldl (fun s q =>
    let s1 := (s.ctxOf w).queues[q.num].foldl (fun s c => s.takeCredits w c) s
    s1.modCtx w fun x => { x with queues := x.queues.set q.num (x.queues[q.num].map fun c =>
      if c.credited == 0 then c else { c with credited := 0, cores := [] }) }) s

/-- A swap is abandoned: PEND is cleared, a new quantum begins, and every member resumes in place. -/
def State.abandonSwap (s : State) (t : Team) : State :=
  let s1 := t.ranksAt.foldl (fun s m => (s.restartCopies m.2).resumeInPlace m.2) s
  s1.modTeam t.id fun t => { t with phase := .placed, quantumFrom := s.gtc.toNat, quantum := s.quantumOf t.launch, seam := none }

/-- SWAP_ABANDON: the quiesce has not ended 65,536 cycles after the gather (R395). -/
def execSwapAbandon (team : Nat) (s : State) : Out :=
  match s.teamAt team with
  | some t =>
    if (t.phase == .quiescing || t.phase == .stopped) && t.gatherAt + 65536 < s.cycle then .next (s.abandonSwap t) else .next s
  | none => .next s

/-! ## The quiesce (R395) -/

/-- Step 1: a receive without a message, or a counter test that has not succeeded. -/
def Ctx.netStuck (x : Ctx) : Bool :=
  x.queues[Queue.nxq.num].any fun c =>
    c.phase != .done && (nOp c.bits == 2 && c.msg.isNone || nOp c.bits == 4)

/-- A member that arrived in a wait keeps no line lease: its lease ends as by expiry (R177, R219). -/
def State.dropLease (s : State) (w : Who) : State :=
  if (s.leaseOf w).isSome then (s.leaveLines w).modCtx w fun x => { x with expired := true } else s.leaveLines w

/-- The members' issue stops; their clocks join as in a group barrier (R318). -/
def State.beginQuiesce (s : State) (t : Team) : State :=
  let s1 := t.ranksAt.foldl (fun s m => s.dropLease m.2) (s.joinTeam t)
  s1.modTeam t.id fun t => { t with phase := .quiescing, gatherAt := s.cycle }

/-- Steps 2 and 3 are over: the other engines have nothing left, the copy queues hold only what may be stopped, and no
ended member's command still runs. -/
def State.cutReached (s : State) (t : Team) : Bool :=
  t.ranksAt.all (fun m =>
    let x := s.ctxOf m.2
    x.queues[Queue.mxq.num].isEmpty && x.queues[Queue.vxq.num].isEmpty && x.queues[Queue.nxq.num].isEmpty
      && (x.queues[Queue.ldq.num] ++ x.queues[Queue.stq.num]).all fun c => s.replayable m.2 c && !s.peerSide m.2 c)
    && (s.teamCores t).all fun c => (s.core c).ctx.toList.all fun x => x.team != some t.id || !x.ended

/-- Bytes that a copy command has credited so far: those of its landed rows (R276). -/
def State.creditedBy (s : State) (w : Who) (c : Cmd) : Nat :=
  if cCredit c.bits && !cCra c.bits && cRowCredits (cOp c.bits) then
    (c.row - c.waits.length) * rowCredit c.bits (if cUsesObj c.bits then s.objOf (s.ctxOf w) (cObj c.bits) else none)
  else 0

/-- A command is stopped; the tokens that it popped stand in their FIFOs again, since it will pop them anew. -/
def State.stopCmd (s : State) (w : Who) (q : Queue) (c : Cmd) (x : Ctx) : Ctx × Cmd :=
  if c.phase == .queued then (x, c)
  else
    ((c.pops q).foldl (fun x f => { x with tok := x.tok.set f.num (c.clock :: x.tok[f.num]) }) x,
      { c with phase := .queued, row := 0, credited := s.creditedBy w c, checked := false, waits := [], flags := 0,
               idx := [], conv := [], link := 0, bytes := 0 })

/-- Step 4 for one queue, from its tail to its head. -/
def State.stopQueue (s : State) (w : Who) (q : Queue) (x : Ctx) : Ctx :=
  let r := x.queues[q.num].foldr (fun c (r : Ctx × List Cmd) =>
    let p := s.stopCmd w q c r.1
    (p.1, p.2 :: r.2)) (x, [])
  { r.1 with queues := r.1.queues.set q.num r.2 }

/-- Step 4: the copies of the team's members stop, and the requests of their rows are over. -/
def State.stopCopies (s : State) (t : Team) : State :=
  let s1 := t.ranksAt.foldl (fun s m => s.modCtx m.2 fun x => s.stopQueue m.2 .stq (s.stopQueue m.2 .ldq x)) s
  (s1.dropReqs fun r => r.cmd.isSome && r.team == some t.id).modTeam t.id fun t => { t with phase := .stopped }

/-- SWAP_QUIESCE: begins the quiesce when the gather is complete, and stops the copies once the cut is reached. -/
def execSwapQuiesce (team : Nat) (s : State) : Out :=
  match s.teamAt team with
  | none => .next s
  | some t =>
    if s.mgmt.pkghlt then .next s
    else if s.gatherComplete t then
      match s.epochFull t with
      | some w => .next (s.deliver w epochTrap)
      | none =>
      if t.ranksAt.any fun m => (s.ctxOf m.2).netStuck then .next ((s.joinTeam t).abandonSwap t) else .next (s.beginQuiesce t)
    else if t.phase == .quiescing && s.cycle ≤ t.gatherAt + 65536 && s.cutReached t then .next (s.stopCopies t)
    else .next s

/-! ## The seam record (R343, R344) -/

/-- Core groups that still have a member.  A group whose members have all exited or ended gets no entry in the record, and neither it
nor its banks count in G and K (DEDUCED, log 38). -/
def Team.liveGroups (t : Team) : List (List Nat) := t.coreGroups.filter fun g => g.any fun r => (t.whoOf r).isSome

/-- Size of a record (R343). -/
def seamSize (t g c k p : Nat) : Nat := 256 + 2048 * t + 2048 * g + 136 * c + 65536 * k + 128 * p

/-- Owned banks of a core that are saved: those with role SCRATCH or OPBUF. -/
def State.savedBanks (s : State) (l : Launch) (c : CoreId) : List Nat :=
  (List.range 32).filter fun b => l.desc.bankreq.getLsbD b && ((s.core c).role b == 1 || (s.core c).role b == 2)

/-- The liveness entry that a member arrived with. -/
def Launch.liveAt (l : Launch) (n : Nat) : Live := (l.live[n]?).getD { scalars := 0, handles := 0, bars := 0 }

/-- Barriers that a member's arrival saves for its core group (R219). -/
def memberBars (l : Launch) (x : Ctx) : Word :=
  match x.blocked with
  | some (.gather n) => (l.liveAt n).bars &&& l.desc.barreq
  | _ => l.desc.barreq

/-- Registers of the saved set (R219, R344). -/
def savedScalar (l : Launch) (x : Ctx) (k : Nat) : Bool :=
  k < x.allot.toNat && (match x.blocked with
    | some (.gather n) => (l.liveAt n).scalars.getLsbD k
    | _ => true)

def savedHandle (l : Launch) (x : Ctx) (k : Nat) : Bool :=
  match x.blocked with
  | some (.gather n) => (l.liveAt n).handles.getLsbD k
  | _ => true

/-- STATE of a member's entry. -/
def memberState (x : Ctx) (group : Nat) : Nat :=
  let n := match x.blocked with
    | some (.gather n) => n % 65536 * 65536
    | _ => 2
  n + (if x.mode == .handler then 1 else 0) + (if x.expired then 8 else 0) + 16 * x.allot.toNat + 2 ^ 32 * group

/-- A member's entry of 2,048 bytes. -/
def memberEntry (l : Launch) (x : Ctx) (group : Nat) : List Byte :=
  let d := oldestDeferred x.deferred
  leBytes 8 x.pc.toNat ++ leBytes 8 (memberState x group)
    ++ [x.fpc, x.fps, x.leasemax, x.bkoff, x.bklim, x.hangt, x.trapcause, x.trappc, x.trapval, x.traphnd].flatMap (fun v =>
      leBytes 8 v.toNat)
    ++ leBytes 8 ((d.map fun f => f.cause.toNat + 256 * f.sub.toNat).getD 0) ++ leBytes 8 ((d.map (·.addr.toNat)).getD 0)
    ++ x.tok.toList.flatMap (fun f => leBytes 1 f.length) ++ List.replicate 394 0
    ++ (List.finRange 64).flatMap (fun (k : Fin 64) => leBytes 8 (if savedScalar l x k then x.s[k].toNat else 0))
    ++ (List.finRange 32).flatMap (fun (k : Fin 32) => leBytes 32 (if savedHandle l x k then x.h[k].toNat else handleReset.toNat))

/-- The entry of a member that has exited or ended. -/
def exitedEntry : List Byte := leBytes 8 0 ++ leBytes 8 4 ++ List.replicate 2032 0

/-- Saved commands: rank, queue, position and command, in rank order. -/
def State.savedCmds (s : State) (t : Team) : List (Nat × Queue × Nat × Cmd) :=
  t.ranksAt.flatMap fun m => [Queue.ldq, Queue.stq].flatMap fun q =>
    (s.ctxOf m.2).queues[q.num].mapIdx fun k c => (m.1, q, k, c)

def cmdEntry (e : Nat × Queue × Nat × Cmd) : List Byte :=
  leBytes 1 e.1 ++ leBytes 1 e.2.1.num.val ++ leBytes 2 e.2.2.1 ++ leBytes 4 e.2.2.2.credited ++ leBytes 128 e.2.2.2.bits.toNat

/-- A saved command credited a barrier of a core. -/
def creditsCore (t : Team) (c : CoreId) (e : Nat × Queue × Nat × Cmd) : Bool :=
  if cOp e.2.2.2.bits == 2 then e.2.2.2.cores.contains c else (t.whoOf e.1).any fun w => w.core == c

/-- Image of a barrier, without the credits of the saved commands that name it (R345). -/
def State.savedImage (s : State) (t : Team) (c : CoreId) (k : Fin 64) : Nat :=
  let b := (s.core c).bar[k]
  let n := ((s.savedCmds t).filter fun e => e.2.2.2.bar.toNat == k.val && creditsCore t c e).foldl (fun n e => n + e.2.2.2.credited) 0
  ({ b with arrb := b.arrb - BitVec.ofNat 32 n } : Barrier).image.toNat

/-- A core group's entry of 2,048 bytes. -/
def State.groupEntry (s : State) (t : Team) (l : Launch) (g : List Nat) (c : CoreId) : List Byte :=
  let mask := g.foldl (fun n r => n + 2 ^ r) 0
  let banks := (s.savedBanks l c).foldl (fun n b => n + 2 ^ b) 0
  let roles := (List.range 32).foldl (fun n b => if l.desc.bankreq.getLsbD b then n + (s.core c).role b * 4 ^ b else n) 0
  let bars := g.foldl (fun v r => match t.whoOf r with
    | some w => v ||| memberBars l (s.ctxOf w)
    | none => v) (0 : Word)
  leBytes 8 mask ++ leBytes 4 banks ++ leBytes 4 0 ++ leBytes 8 roles ++ List.replicate 1000 0
    ++ (List.finRange 64).flatMap fun (k : Fin 64) => leBytes 16 (if bars.getLsbD k then s.savedImage t c k else 0)

/-- The Pleat section (R344). -/
def pleatSection (t : Team) (r : Region) : List Byte :=
  t.carries.toList.flatMap (fun v => leBytes 8 v.toNat) ++ leBytes 8 r.left.toNat ++ leBytes 8 r.guess.toNat
    ++ leBytes 8 r.head.toNat ++ leBytes 1 r.width ++ List.replicate 39 0

/-- The header (R343). -/
def seamHeader (t : Team) (l : Launch) (g c k p gtc : Nat) : List Byte :=
  let m := 256
  let go := m + 2048 * t.members.length
  let co := go + 2048 * g
  let bo := co + 136 * c
  leBytes 4 0x53454D42 ++ leBytes 2 0x0100 ++ leBytes 1 t.members.length ++ leBytes 1 g ++ leBytes 8 l.id ++ leBytes 4 t.num
    ++ leBytes 2 c ++ leBytes 2 p ++ leBytes 8 gtc
    ++ [m, go, co, bo, if p == 1 then bo + 65536 * k else 0].flatMap (leBytes 8) ++ List.replicate 184 0

/-- Position of a rank's core group among those with a member. -/
def groupNo (gs : List (List Nat)) (r : Nat) : Nat := (gs.findIdx? fun g => g.contains r).getD 0

/-- A region that is saved: one that has begun (R216). -/
def Team.active (t : Team) : Option Region := t.region.filter (·.begun)

/-- The record whole. -/
def State.seamBytes (s : State) (t : Team) (l : Launch) : List Byte :=
  let gs := t.liveGroups.filterMap fun g => (t.groupCore (g.headD 0)).map fun c => (g, c)
  let cmds := s.savedCmds t
  let banks := gs.flatMap fun g => (s.savedBanks l g.2).map fun b => (g.2, b)
  seamHeader t l gs.length cmds.length banks.length (if t.active.isSome then 1 else 0) s.gtc.toNat
    ++ (List.range t.members.length).flatMap (fun r => match t.whoOf r with
      | some w => memberEntry l (s.ctxOf w) (groupNo (gs.map (·.1)) r)
      | none => exitedEntry)
    ++ gs.flatMap (fun g => s.groupEntry t l g.1 g.2)
    ++ cmds.flatMap cmdEntry
    ++ banks.flatMap (fun b => cellsRead (s.core b.1).scratch (65536 * b.2) 65536)
    ++ match t.active with
      | some r => pleatSection t r
      | none => []

/-- Position 0's accesses are checked, and its buffered stores are committed, before the record is written (R212, R216, R321). -/
def State.commitRest (s : State) (t : Team) : Except Found State :=
  match t.active with
  | some r =>
    match r.pos with
    | [] => .ok s
    | q :: _ =>
      match s.checkPosition t r.clock q.checks with
      | .error f => .error f
      | .ok s1 => .ok ((s1.writeBuffer t.memberCores q).modRegion t.id fun r =>
        r.modPos 0 fun q => { q with buf := [], whole := [], reads := [], checks := [] })
  | none => .ok s

/-- Deferred faults but the oldest are lost, with an event (R397). -/
def State.loseDeferred (s : State) (w : Who) : State :=
  let x := s.ctxOf w
  match oldestDeferred x.deferred with
  | none => s
  | some d =>
    let rest := x.deferred.erase d
    if rest.isEmpty then s else s.logEvent (s.srcOf w) .dfltlost (rest.map (·.addr))

/-- The contexts are freed and the banks given back (R35, R342). -/
def State.freeTeam (s : State) (t : Team) (l : Launch) : State :=
  let cores := (t.ranksAt.map fun m => m.2.core).eraseDups
  let s1 := t.ranksAt.foldl (fun s m => s.modCtx m.2 freeCtx) s
  let s2 := cores.foldl (fun s c => (s.modCore c fun k => k.releaseBanks l.desc.bankreq).unfuse c) s1
  { s2 with cores := s2.cores.map fun k => { k with mcast := k.mcast.filter fun m => m.team != t.id } }

/-- The team waits as a swapped one, at the tail of its class's order. -/
def Team.swappedAt (t : Team) (s : State) (addr size : Nat) : Team :=
  { t with
    phase := .swapped, waitFrom := s.gtc.toNat, waitSeq := s.nextId, coreGroups := t.liveGroups
    members := t.members.map fun m => match m with
      | .at _ => .nowhere
      | m => m
    region := t.active
    seam := some { addr := addr, size := size, ctxs := t.ranksAt.map fun m => (m.1, s.ctxOf m.2) } }

/-- No PST, flagged write or queued replay of a member is unacknowledged (R395 step 5). -/
def State.teamQuiet (s : State) (t : Team) : Bool := !(s.reqs.any fun r => r.team == some t.id)

/-- The record is written, or the swap is abandoned when a page of it does not translate with the right W. -/
def State.writeRecord (s0 : State) (t0 : Team) (l : Launch) (addr : Nat) : State :=
  let t := (s0.teamAt t0.id).getD t0
  let bs := s0.seamBytes t l
  match s0.spans l.slot .write (pageParts addr bs.length) with
  | (s1, .error _) => s1.abandonSwap t
  | (s1, .ok ps) =>
    let s2 := t.ranksAt.foldl (fun s m => s.loseDeferred m.2) (s1.writeSpans ps bs)
    let u := t.swappedAt s2 addr bs.length
    (({ s2 with nextId := s2.nextId + 1 }.modTeam t.id fun _ => u).freeTeam t l)

/-- The record is written once position 0's accesses are found to be free of races; a race ends the swap, and rank 0 reports it
(R321, log 22). -/
def State.writeSeam (s : State) (t : Team) (l : Launch) (addr : Nat) : State :=
  match s.commitRest t, t.whoOf 0 with
  | .ok s1, _ => s1.writeRecord t l addr
  | .error f, some w => (s.abandonSwap t).deliver w (raceTrap f)
  | .error _, none => s.abandonSwap t

/-- SEAM_RECORD_WRITE: the quiesce is over (R395 steps 5 and 6). -/
def execSeamRecordWrite (team : Nat) (s : State) : Out :=
  match s.teamAt team with
  | none => .next s
  | some t =>
    match s.launchAt t.launch, t.seam with
    | some l, some m =>
      if t.phase != .stopped || s.mgmt.pkghlt || t.gatherAt + 65536 < s.cycle || !s.teamQuiet t
          || t.ranksAt.any fun m => (s.ctxOf m.2).run == .halted then .next s
      else .next (s.writeSeam t l m.addr)
    | _, _ => .next s

/-! ## Resumption (R346) -/

/-- A barrier from its image. -/
def Barrier.ofImage (v : Nat) : Barrier :=
  { ph := v % 2 == 1, err := v / 2 % 2 == 1, done := false, expa := BitVec.ofNat 8 (v / 2 ^ 8), arra := BitVec.ofNat 8 (v / 2 ^ 16),
    expb := BitVec.ofNat 32 (v / 2 ^ 32), arrb := BitVec.ofNat 32 (v / 2 ^ 64), clock := Clock.zero }

/-- Offsets of the sections in a record's header. -/
def seamOff (bs : List Byte) (k : Nat) : Nat := fieldAt bs (0x20 + 8 * k) 8

/-- Steps 1 and 2 for one core group: roles and contents of its banks, and its barriers. -/
def State.restoreGroup (s : State) (l : Launch) (bs : List Byte) (g bank : Nat) (c : CoreId) : State :=
  let e := (bs.drop (seamOff bs 1 + 2048 * g)).take 2048
  let roles := fieldAt e 0x10 8
  let saved := (List.range 32).filter fun b => (fieldAt e 8 4).testBit b
  let role := (List.range 32).foldl (fun (v : Word) b =>
    if l.desc.bankreq.getLsbD b then putBits v (2 * b) 2 (roles / 4 ^ b % 4) else v) (s.core c).bankrole
  let s1 := s.applyRoles c role
  let s2 := s1.modCore c fun k => { k with
    scratch := (saved.mapIdx fun j b => (j, b)).foldl (fun m p =>
      cellsWrite m (65536 * p.2) ((bs.drop (seamOff bs 3 + 65536 * (bank + p.1))).take 65536)) k.scratch
    bar := Vector.ofFn fun j : Fin 64 => if l.desc.barreq.getLsbD j then Barrier.ofImage (fieldAt e (0x400 + 16 * j.val) 16) else k.bar[j] }
  s2

/-- Number of saved banks of a core group. -/
def groupBanks (bs : List Byte) (g : Nat) : Nat :=
  popcount (BitVec.ofNat 32 (fieldAt bs (seamOff bs 1 + 2048 * g + 8) 4))

/-- Steps 1 and 2 for every core group, on the cores that now hold them. -/
def State.restoreGroups (s : State) (l : Launch) (bs : List Byte) : Nat → Nat → List CoreId → State
  | _, _, [] => s
  | g, bank, c :: cs => (s.restoreGroup l bs g bank c).restoreGroups l bs (g + 1) (bank + groupBanks bs g) cs

/-- Step 4: a member's state from its entry, the state of R50 otherwise, and what the command processor kept. -/
def restoreCtx (x old : Ctx) (e : List Byte) : Ctx :=
  let st := fieldAt e 8 8
  let w := fun (k : Nat) => BitVec.ofNat 64 (fieldAt e (0x10 + 8 * k) 8)
  let d := fieldAt e 0x60 8
  { x with
    pc := pcOf (BitVec.ofNat 64 (fieldAt e 0 8))
    mode := if st % 2 == 1 then .handler else .user
    expired := st / 8 % 2 == 1
    allot := BitVec.ofNat 7 (st / 16)
    fpc := w 0, fps := w 1, leasemax := w 2, bkoff := w 3, bklim := w 4, hangt := w 5
    trapcause := w 6, trappc := w 7, trapval := w 8, traphnd := w 9
    deferred := if d == 0 then [] else [({ cause := BitVec.ofNat 8 d, sub := BitVec.ofNat 8 (d / 256),
                                           addr := BitVec.ofNat 64 (fieldAt e 0x68 8), order := 0 } : Deferred)]
    tok := Vector.ofFn fun k : Fin 6 => List.replicate (fieldAt e (0x70 + k.val) 1) Clock.zero
    s := Vector.ofFn fun k : Fin 64 => BitVec.ofNat 64 (fieldAt e (0x200 + 8 * k.val) 8)
    h := Vector.ofFn fun k : Fin 32 => BitVec.ofNat 256 (fieldAt e (0x400 + 32 * k.val) 32)
    pleatst := old.pleatst, faults := old.faults, order := old.order, gbars := old.gbars, creds := old.creds
    mcasts := old.mcasts, launches := old.launches, clock := old.clock }

/-- Step 5: a saved command joins its rank's queue, with the rank's clock. -/
def reissue (x : Ctx) (e : List Byte) : Ctx :=
  let q : Queue := if fieldAt e 1 1 == 3 then .stq else .ldq
  let c := Cmd.new (BitVec.ofNat 1024 (fieldAt e 8 128)) x.sers[q.num] x.order x.clock
  { x with queues := x.queues.set q.num (x.queues[q.num] ++ [c]), sers := x.sers.set q.num (x.sers[q.num] + 1),
           order := x.order + 1 }

/-- Saved commands of a rank, in ORDER. -/
def cmdsOfRank (bs : List Byte) (r : Nat) : List (List Byte) :=
  ((List.range (fieldAt bs 0x14 2)).map fun k => (bs.drop (seamOff bs 2 + 136 * k)).take 136).filter fun e => fieldAt e 0 1 == r

/-- Steps 4 and 5 for one rank, in the context that placement has set up for it. -/
def State.restoreMember (s : State) (t : Team) (bs : List Byte) (r : Nat) (w : Who) : State :=
  let old := ((t.seam.bind fun m => m.ctxs.find? fun e => e.1 == r).map (·.2)).getD Ctx.reset
  s.modCtx w fun x =>
    let y := restoreCtx x old ((bs.drop (seamOff bs 0 + 2048 * r)).take 2048)
    let z := (cmdsOfRank bs r).foldl reissue y
    if t.active.isSome && old.blocked == some .window then { z with run := .waiting, blocked := some .window } else z

/-- The Pleat section gives the region and the carries again (R216). -/
def restoreRegion (t : Team) (bs : List Byte) : Team :=
  let o := seamOff bs 4
  if o == 0 then t
  else { t with
    carries := Vector.ofFn fun k : Fin 8 => BitVec.ofNat 64 (fieldAt bs (o + 8 * k.val) 8)
    region := t.region.map fun r => { r with
      left := BitVec.ofNat 64 (fieldAt bs (o + 64) 8), guess := BitVec.ofNat 64 (fieldAt bs (o + 72) 8)
      head := BitVec.ofNat 64 (fieldAt bs (o + 80) 8), width := fieldAt bs (o + 88) 1 } }

/-- Restores a team that placement has set up on cores, one for each core group (R346); arrivals held for it follow its
barriers (R217), and its tile entries are cleared (R321).  A position that goes on takes rank 0's clock anew (log 57). -/
def State.resumeTeam (s : State) (t : Team) (l : Launch) (bs : List Byte) (cores : List CoreId) : State :=
  let s1 := s.restoreGroups l bs 0 0 cores
  let s2 := t.ranksAt.foldl (fun s m => s.restoreMember t bs m.1 m.2) s1
  let s3 := t.held.foldl (fun s h => s.applyCredit t h.1 h.2) s2
  let clear := fun (d : Die) => { d with tiles := d.tiles.filter fun e => e.team != t.id }
  let s4 := { s3 with dies := s3.dies.map clear }
  let s5 := s4.modRegion t.id fun r => { r with clock := s4.rankClock t 0 }
  s5.modTeam t.id fun u => { (restoreRegion u bs) with held := [], seam := none }

end Sys2Proof.Machine
end

