-- ==== Sys2Proof/Machine/Walker.lean ====
section
/-! DEFINITION. The loop-nest walker: waiting teams (R331), placement (R35, R50, R316, R334 to R336, R340, R353), and quanta
(R342). -/

namespace Sys2Proof.Machine

/-! ## Waiting teams (R331) -/

/-- A team that waits: the next team to be cut from a running launch, or a swapped one. -/
structure Waiter where
  team : Option Team
  launch : Launch
  num : Nat
  since : Nat
  seq : Nat
  deriving DecidableEq, Repr

/-- Waiting teams: of each running launch the next one, since the others need the same, and the swapped ones. -/
def State.waiters (s : State) : List Waiter :=
  (s.launches.filterMap fun l =>
    if l.phase == .running && l.cut < l.total then
      some { team := none, launch := l, num := l.cut, since := l.readyGtc, seq := l.readyAt } else none)
  ++ s.teams.filterMap fun t =>
    if t.phase == .swapped then
      (s.launchAt t.launch).map fun l => { team := some t, launch := l, num := t.num, since := t.waitFrom, seq := t.waitSeq }
    else none

/-- Rank of a waiting team: its class, or 4 after more than eight quanta. -/
def State.waitClass (s : State) (w : Waiter) : Nat :=
  let c := s.slots[w.launch.slot]
  if 8 * c.quantumNs < s.gtc.toNat - w.since then 4 else c.cls

/-- Key by which waiting teams are served, the smallest first. -/
def State.waitKey (s : State) (w : Waiter) : List Nat :=
  let k := s.waitClass w
  [4 - k, if k == 4 then 0 else (w.launch.slot.val + 15 - s.lastSlot.val) % 16, if k == 4 then w.since else 0, w.seq, w.num]

/-- Lexicographic order of keys. -/
def keyLt : List Nat → List Nat → Bool
  | a :: as, b :: bs => a < b || a == b && keyLt as bs
  | _, _ => false

def State.waitInsert (s : State) (w : Waiter) : List Waiter → List Waiter
  | [] => [w]
  | v :: vs => if keyLt (s.waitKey w) (s.waitKey v) then w :: v :: vs else v :: s.waitInsert w vs

/-- Waiting teams in the order in which they are served. -/
def State.served (s : State) : List Waiter := s.waiters.foldl (fun l w => s.waitInsert w l) []

/-! ## Where a team fits (R335) -/

/-- A part of a placement: a core, its contexts and their ranks. -/
structure Part where
  core : CoreId
  ctxs : List CtxNo
  ranks : List Nat
  deriving DecidableEq, Repr

/-- Two launches use the same template set (R335). -/
def sameSet (a b : Launch) : Bool := a.slot == b.slot && a.desc.addr == b.desc.addr || a.tmpls == b.tmpls

/-- FUSE of a slot (R362). -/
def Slot.fuse (c : Slot) : Bool := bitAt c.mslot 32

/-- Contexts of a core that teams hold, but for the teams that are taken to have left. -/
def Core.others (c : Core) (gone : Nat → Bool) : List Ctx := c.ctx.toList.filter fun x => x.team.any fun t => !gone t

/-- The cluster of a core holds no team, but for those taken to have left. -/
def State.clusterEmpty (s : State) (c : CoreId) (gone : Nat → Bool) : Bool :=
  (List.range 8).all fun k => ((s.core (clusterMate c k)).others gone).isEmpty

/-- Contexts of a core that a team of a launch may take: none when the core is not eligible (R335, R353). -/
def State.eligible (s : State) (l : Launch) (c : CoreId) (gone : Nat → Bool) : List CtxNo :=
  let k := s.core c
  let os := k.others gone
  let fuse := s.slots[l.slot].fuse
  let ok := !k.withdrawn
    && os.all (fun x => x.bankown &&& l.desc.bankreq == 0 && x.barown &&& l.desc.barreq == 0
        && (s.launchOf x).any fun m => sameSet m l)
    && ((List.range 32).all fun b => !l.desc.bankreq.getLsbD b || k.role b == 0
        || k.ctx.toList.any fun x => x.team.any gone && x.bankown.getLsbD b)
    && (if fuse then s.fused.getLsbD (c.val / 8) || s.clusterEmpty c gone
        else !s.fused.getLsbD (c.val / 8) || s.clusterEmpty c gone)
  if !ok then []
  else (List.finRange 4).filter fun j =>
    let x := k.ctx[j]
    x.run == .free && x.team.isNone || x.team.any gone

/-- Ranks go to eligible cores in ascending order (R335). -/
def fillCores : List (CoreId × List CtxNo) → List Nat → Option (List Part)
  | _, [] => some []
  | [], _ :: _ => none
  | (c, js) :: rest, rs =>
    if js.isEmpty then fillCores rest rs
    else (fillCores rest (rs.drop js.length)).map fun ps =>
      { core := c, ctxs := js.take rs.length, ranks := rs.take js.length } :: ps

/-- A resumed team keeps its core groups, each on one core (R335, R345). -/
def fillGroups : List (CoreId × List CtxNo) → List (List Nat) → Option (List Part)
  | _, [] => some []
  | [], _ :: _ => none
  | (c, js) :: rest, g :: gs =>
    if js.length < g.length || js.isEmpty then fillGroups rest (g :: gs)
    else (fillGroups rest gs).map fun ps => { core := c, ctxs := js.take g.length, ranks := g } :: ps

/-- Members of a core group that have not left. -/
def Team.liveRanks (t : Team) (g : List Nat) : List Nat := g.filter fun r => !t.hasLeft r

/-- Where a waiting team would go on a die, with some teams taken to have left; none where it does not fit. -/
def State.planOn (s : State) (w : Waiter) (die : Fin 8) (gone : Nat → Bool) : Option (List Part) :=
  let cores := (coresOfDie die).map fun c => (c, s.eligible w.launch c gone)
  match w.team with
  | none => fillCores cores (List.range w.launch.desc.team)
  | some t => fillGroups cores (t.coreGroups.map t.liveRanks)

/-- Dies in turn, from the one after the die that the launch's walker used last (R335). -/
def Launch.dieOrder (l : Launch) : List (Fin 8) := (List.finRange 8).map fun k => k + l.lastDie + 1

/-- Classes of the teams that reserve a die (R331). -/
abbrev Reserved := List (Fin 8 × Nat)

/-- A die is reserved against a team of rank `k`: for a higher rank, or within class 4 for a team that began to wait earlier
(R331, R347). -/
def reservedAt (r : Reserved) (d : Fin 8) (k : Nat) : Bool := r.any fun e => e.1 == d && (k < e.2 || k == 4 && e.2 == 4)

/-- A placed team of a lower rank than `k`: its class is the one that it was placed with (R324). -/
def State.lower (s : State) (k id : Nat) : Bool := (s.teamAt id).any fun t => t.cls < k

/-- The first waiting team, in order, that fits on a die that is not reserved against it. -/
def State.choosePlace (s : State) : List Waiter → Reserved → Option (Waiter × Fin 8 × List Part)
  | [], _ => none
  | w :: ws, r =>
    let k := s.waitClass w
    match w.launch.dieOrder.findSome? fun d => if reservedAt r d k then none else (s.planOn w d fun _ => false).map fun p => (d, p) with
    | some (d, p) => some (w, d, p)
    | none =>
      let more := (List.finRange 8).filter fun d => (s.planOn w d (s.lower k)).isSome
      s.choosePlace ws (r ++ more.map fun d => (d, k))

/-! ## Setting a team up (R336) -/

/-- Indices of an iteration, outermost first (R334). -/
def indices : List Nat → Nat → List Nat
  | ext, n => (ext.foldr (fun e (r : List Nat × Nat) => (r.2 % e :: r.1, r.2 / e)) ([], n)).1

/-- GROUPS of a rank (R49). -/
def groupsWord (l : Launch) (r : Nat) : Word :=
  let gs := ((List.range 256).filter fun g => l.groups.any fun e => e.1.toNat == g && e.2.getLsbD r).take 4
  BitVec.ofNat 64 ((gs.mapIdx fun j g => g * 256 ^ j + 2 ^ (32 + j)).foldl (· + ·) 0)

/-- The launch preload of a member (R24, R50, R317).  ENTRY reaches the PC with the bits that R11 makes zero cleared (log 5). -/
def preload (l : Launch) (team num r now : Nat) : Ctx :=
  let n := num * l.desc.team + r
  let idx := indices l.ext n
  { Ctx.reset with
    run := .active, pc := pcOf l.desc.entry, allot := BitVec.ofNat 7 l.desc.allot
    s := Vector.ofFn fun k : Fin 64 =>
      if 1 ≤ k.val && k.val ≤ 6 then BitVec.ofNat 64 ((idx[k.val - 1]?).getD 0)
      else if k.val == 7 then BitVec.ofNat 64 r
      else if k.val == 8 then BitVec.ofNat 64 l.desc.team
      else if k.val == 9 then l.args
      else 0
    teamid := BitVec.ofNat 64 (num % 2 ^ 32 + r * 2 ^ 32 + l.desc.team * 2 ^ 40)
    groups := groupsWord l r, slot := l.slot, bankown := l.desc.bankreq, barown := l.desc.barreq
    traphnd := l.desc.handler &&& ~~~(3#64)
    clock := Clock.zero.setIfInBounds r 1
    since := now, progress := { acc := 0, since := some now }, team := some team, rank := r }

/-- BANKROLE with the roles that a kernel gives its banks (R35). -/
def launchRoles (old : Word) (l : Launch) : Word :=
  (List.range 32).foldl (fun v b =>
    if l.desc.bankreq.getLsbD b then putBits v (2 * b) 2 (bitsAt l.desc.bankroles (2 * b) 2) else v) old

/-- A plane that holds a template set; a template that no entry names is empty (R340). -/
def setPlane (l : Launch) (e : Engine) : Plane :=
  let t : Vector Template 64 := Vector.ofFn fun k : Fin 64 =>
    match l.tmpls.reverse.find? fun m => m.engine == e && m.index.toNat == k.val with
    | some m => { valid := true, bits := m.bits }
    | none => Template.empty
  { tmpl := t, crc := { Plane.reset with tmpl := t }.computed }

/-- Engine of a plane pair (R42). -/
def engineAt (k : Fin 4) : Engine := match k with
  | 0 => .copy | 1 => .matrix | 2 => .vector | 3 => .net

/-- A template of the active plane with the differences between the one installed last and the new one (R340). -/
def diffTemplate (act last new : Template) : Template :=
  { valid := if last.valid == new.valid then act.valid else new.valid
    bits := (List.range 64).foldl (fun v f =>
      if tF last.bits f == tF new.bits f then v else putBits v (16 * f) 16 (tF new.bits f).toNat) act.bits }

/-- The staging plane that a broadcast of differences gives, with its CRC (R339, R340). -/
def diffPlane (act last new : Plane) : Plane :=
  let t : Vector Template 64 := Vector.ofFn fun k : Fin 64 => diffTemplate act.tmpl[k] last.tmpl[k] new.tmpl[k]
  { tmpl := t, crc := { Plane.reset with tmpl := t }.computed }

/-- The plane that is to become active, and whether the differences failed the check, so that the whole set is sent
(R340, R341). -/
def Core.takePlane (c : Core) (l : Launch) (k : Fin 4) : Plane × Bool :=
  let new := setPlane l (engineAt k)
  let p := diffPlane c.planes[k].active c.installed[k] new
  if p.crc == new.crc then (p, false) else (new, true)

/-- The exchange of R340: the new set is active, and the old active plane stands in staging. -/
def Core.install (c : Core) (l : Launch) : Core :=
  { c with
    planes := Vector.ofFn fun k : Fin 4 => { active := (c.takePlane l k).1, staging := c.planes[k].active, kept := none }
    installed := Vector.ofFn fun k : Fin 4 => setPlane l (engineAt k)
    tmplSet := some l.id }

/-- Cores of a placement whose planes fail the check once more when they are sent whole (R341): a soft error, which is a free
value (log 12). -/
def State.spoiledSets (s : State) (l : Launch) : List Part → State × List CoreId
  | [] => (s, [])
  | p :: ps =>
    let k := s.core p.core
    if k.empty && (List.finRange 4).any fun e => (k.takePlane l e).2 then
      let r := { s with fresh := s.fresh + 1 }.spoiledSets l ps
      (r.1, if Config.planeFails s.fresh then p.core :: r.2 else r.2)
    else s.spoiledSets l ps

/-- A core is withdrawn from placement, with an event (R341). -/
def State.withdraw (s : State) (c : CoreId) : State :=
  (s.modCore c fun k => { k with withdrawn := true }).logEvent s.unitSrc .tmplfail [BitVec.ofNat 64 c.val]

/-- A cluster is fused before a team of a slot with FUSE is placed on it while it holds none (R353). -/
def State.fuseFor (s : State) (l : Launch) (c : CoreId) : State :=
  if s.slots[l.slot].fuse && !s.fused.getLsbD (c.val / 8) && s.clusterEmpty c (fun _ => false) then
    let cores := (List.range 8).map (clusterMate c)
    { cores.foldl State.flushCore s with fused := s.fused ||| BitVec.twoPow 64 (c.val / 8) }
  else s

/-- Lines that stayed dirty on a core while it was empty are written back until no more than its new DIRTYLIM are left (R352). -/
def State.fitDirty (s : State) (c : CoreId) : State := s.drainDirty c (s.core c).limit (s.dirtyCount c)

/-- What placement sets on one core (R35, R38, R336, R340, R352). -/
def State.setUpCore (s : State) (l : Launch) (c : CoreId) : State :=
  let empty := (s.core c).empty
  let s1 := (s.fuseFor l c).applyRoles c (launchRoles (s.core c).bankrole l)
  let s2 := s1.modCore c fun k =>
    let k1 := { k with bar := Vector.ofFn fun j : Fin 64 => if l.desc.barreq.getLsbD j then Barrier.reset else k.bar[j] }
    if empty then { k1.install l with dirtylim := BitVec.ofNat 64 (bitsAt s.slots[l.slot].scfg 16 15) } else k1
  if empty then s2.fitDirty c else s2

/-- Tile-table entries set aside on a die, for the objects that fit (R316). -/
def State.allotTiles (s : State) (l : Launch) (die : Fin 8) : State :=
  if s.dies[die].alloc.any fun a => a.1 == l.id then s
  else
    (l.objs.mapIdx fun n o => (n, o)).foldl (fun s e =>
      match e.2 with
      | some o =>
        if !o.detect then s
        else
          let used := (s.dies[die].alloc.map fun a => a.2.2).foldl (· + ·) 0
          if used + o.tileCount ≤ 8192 then
            { s with dies := s.dies.set die { s.dies[die] with alloc := s.dies[die].alloc ++ [(l.id, e.1, o.tileCount)] } }
          else s.modObj l.id e.1 fun o => { o with detect := false }
      | none => s) s

/-- The members' contexts of one part. -/
def State.setUpMembers (s : State) (l : Launch) (team num : Nat) (p : Part) : State :=
  (p.ctxs.zip p.ranks).foldl (fun s m => s.setCtx { core := p.core, ctx := m.1 } (preload l team num m.2 s.cycle)) s

/-- Members of a team at the contexts of a placement. -/
def placeMembers (ms : List MemberPlace) (ps : List Part) : List MemberPlace :=
  ps.foldl (fun ms p => (p.ctxs.zip p.ranks).foldl (fun ms m => ms.set m.2 (.at { core := p.core, ctx := m.1 })) ms) ms

/-- Banks of a launch's team on one core that a seam record saves, by the roles of its kernel (R342). -/
def Desc.savedCount (d : Desc) : Nat :=
  ((List.range 32).filter fun b => d.bankreq.getLsbD b && (bitsAt d.bankroles (2 * b) 2 == 1 || bitsAt d.bankroles (2 * b) 2 == 2)).length

/-- A team that is cut from its launch (R334). -/
def newTeam (id : Nat) (l : Launch) (c : Slot) (die : Fin 8) (ps : List Part) (gtc : Nat) : Team :=
  { id := id, launch := l.id, num := l.cut, phase := .placed
    members := placeMembers (List.replicate l.desc.team .nowhere) ps, coreGroups := ps.map (·.ranks), die := die
    waitFrom := l.readyGtc, waitSeq := l.readyAt, quantumFrom := gtc, quantum := c.quantumNs, cls := c.cls
    groups := ps.length, banks := ps.length * l.desc.savedCount, gatherAt := 0, carries := Vector.replicate 8 0
    finals := [], region := none, seam := none, held := [], credFaults := [] }

/-- Nothing holds the role changes of a placement (R33, R350). -/
def State.partsFree (s : State) (l : Launch) (ps : List Part) : Bool :=
  ps.all fun p =>
    let k := s.core p.core
    s.rolesFree p.core (changedBanks k.bankrole (launchRoles k.bankrole l)) (k.ctx.toList.map (·.order))

/-- A new team is placed. -/
def State.placeNew (s : State) (l : Launch) (die : Fin 8) (ps : List Part) : State :=
  let id := s.nextId
  let s1 := ps.foldl (fun s p => s.setUpCore l p.core) (s.allotTiles l die)
  let s2 := { s1 with nextId := id + 1, teams := s1.teams ++ [newTeam id l s.slots[l.slot] die ps s.gtc.toNat] }
  (ps.foldl (fun s p => s.setUpMembers l id l.cut p) s2).modLaunch l.id fun l => { l with cut := l.cut + 1, lastDie := die }

/-- A swapped team is placed again (R346).  Its record is read through the slot's translation: a team whose record cannot
be read stays swapped. -/
def State.placeSwapped (s : State) (t : Team) (l : Launch) (die : Fin 8) (ps : List Part) : Option State :=
  match t.seam with
  | none => none
  | some m =>
    match s.slotRead l.slot m.addr m.size with
    | (_, none) => none
    | (s1, some bs) =>
      let c := s.slots[l.slot]
      let u := { t with
        phase := .placed, members := placeMembers t.members ps, die := die, quantumFrom := s.gtc.toNat, quantum := c.quantumNs
        cls := c.cls, groups := ps.length
        banks := (List.range ps.length).foldl (fun n g => n + groupBanks bs g) 0, gatherAt := 0 }
      let s2 := ps.foldl (fun s p => s.setUpCore l p.core) (s1.allotTiles l die)
      let s3 := ps.foldl (fun s p => s.setUpMembers l t.id t.num p) (s2.modTeam t.id fun _ => u)
      some ((s3.resumeTeam u l bs (ps.map (·.core))).modLaunch l.id fun l => { l with lastDie := die })

/-- TEAM_PLACEMENT: the walker places the first waiting team that fits (R331, R335, R336); a core whose template set fails twice
is withdrawn first (R341). -/
def execTeamPlacement (s : State) : Out :=
  if s.mgmt.pkghlt then .next s
  else
    match s.choosePlace s.served [] with
    | none => .next s
    | some (w, die, ps) =>
      if !s.partsFree w.launch ps then .next s
      else
        match s.spoiledSets w.launch ps with
        | (s0, c :: cs) => .next ((c :: cs).foldl State.withdraw s0)
        | (s0, []) =>
          let r := match w.team with
            | none => some (s0.placeNew w.launch die ps)
            | some t => s0.placeSwapped t w.launch die ps
          match r with
          | some s1 => .next { s1 with lastSlot := w.launch.slot }
          | none => .next s

/-! ## Quanta (R342) -/

/-- A waiting team of the same class or higher, or of class 4, could be placed on the team's die without it. -/
def State.rival (s : State) (t : Team) : Bool :=
  s.waiters.any fun w => t.cls ≤ s.waitClass w && (s.planOn w t.die fun id => id == t.id).isSome

/-- Bound of the size of a team's record, with its core groups and banks as placed (R342). -/
def Team.seamBound (t : Team) : Nat := seamSize t.members.length t.groups (64 * t.members.length) t.banks 1

/-- Seam rooms of a slot in use. -/
def State.seamRooms (s : State) (slot : Fin 16) : List (Nat × Nat) :=
  s.teams.filterMap fun t => if (s.launchAt t.launch).any fun l => l.slot == slot then t.seam.map fun m => (m.addr, m.size) else none

/-- A page of the seam area is mapped with the right W (R342). -/
def State.seamPage (s : State) (slot : Fin 16) (va : Nat) : Bool :=
  0x0001000000000000 ≤ va && match s.frame slot va with
    | .ok f => f.w
    | .error _ => false

/-- The lowest free multiple of 64 KiB with room for a record. -/
def State.findRoom (s : State) (slot : Fin 16) (size : Nat) : Option Nat :=
  let c := s.slots[slot]
  let base := c.seambase.toNat
  let pages := (size + 65535) / 65536
  let total := c.seamsize.toNat / 65536
  let used := s.seamRooms slot
  ((List.range (total + 1 - pages)).map fun k => base + 65536 * k).find? fun a =>
    (used.all fun u => a + size ≤ u.1 || u.1 + u.2 ≤ a) && (List.range pages).all fun j => s.seamPage slot (a + 65536 * j)

/-- A request is set for every member (R30, R342). -/
def State.requestSwap (s : State) (t : Team) (addr size : Nat) : State :=
  let s1 := t.ranksAt.foldl (fun s m => s.modCtx m.2 fun x => { x with pend := true, budget := 4096, past := none }) s
  s1.modTeam t.id fun t => { t with seam := some { addr := addr, size := size, ctxs := [] } }

/-- QUANTUM_EXPIRY: a request is set, or a new quantum starts (R342). -/
def execQuantumExpiry (team : Nat) (s : State) : Out :=
  match s.teamAt team with
  | none => .next s
  | some t =>
    match s.launchAt t.launch with
    | none => .next s
    | some l =>
      if t.phase != .placed || t.seam.isSome || s.mgmt.pkghlt || s.gtc.toNat < t.quantumFrom + t.quantum then .next s
      else
        let size := t.seamBound
        match s.rival t, s.findRoom l.slot size with
        | true, some a => .next (s.requestSwap t a size)
        | _, _ => .next (s.modTeam t.id fun t => { t with quantumFrom := s.gtc.toNat, quantum := s.quantumOf t.launch })

end Sys2Proof.Machine
end

