-- ==== Sys2Proof/Machine/Wait.lean ====
section
/-! DEFINITION. What ends a block from outside the context: the condition of a wait (R193), hang detection (R391, R392), and
the pre-emption budget (R394). -/

namespace Sys2Proof.Machine

/-- The command processor has stopped the issue of the context's team (R395). -/
def State.frozen (s : State) (x : Ctx) : Bool := (s.teamOf x).any fun t => t.phase == .quiescing || t.phase == .stopped

/-- A wait instruction issues again: it completes whole, traps, or blocks as before (R193). -/
def State.retryWait (s : State) (i : Instr) : Out :=
  match i with
  | .bwait b p => execBwait b p s
  | .gbar g => execGbar g s
  | .tkpop f => execTkpop f s
  | .tkpush f => execTkpush f s
  | .qwait q n => execQwait q n s
  | .emit q ws => execEmit q ws s
  | .emitr q a c => execEmitr q a c s
  | .launch a c b => execLaunch a c b s
  | _ => .next s

/-- A wait that PLEAT_WINDOW_START completes, not its own condition. -/
def isPleat : Instr → Bool
  | .pleat _ _ _ => true
  | _ => false

/-- WAIT_COMPLETION (R193): a wait whose condition holds completes; a GBAR that has been released ends with the join of all
members' clocks (R200, R318). -/
def execWaitCompletion (who : Who) (s : State) : Out :=
  let x := s.ctxOf who
  if s.mgmt.pkghlt || x.run != .waiting || s.frozen x then .next s
  else
    match x.blocked with
    | some (.wait i) =>
      if isPleat i then .next s
      else
        match (s.wake who).retryWait i with
        | .next s1 => .next (s1.afterIssue who)
        | .fault f => .fault f
        | .refused r => .refused r
    | some (.released (.gbar g) v) =>
      let s1 := s.wake who
      match s1.finish (match s1.me.passGbar g v with
        | .error e => .error e
        | .ok y => .ok (s1.complete y 4)) with
      | .next s2 => .next (s2.afterIssue who)
      | .fault f => .fault f
      | .refused r => .refused r
    | _ => .next s

/-- A block in which the progress counter runs (R391). -/
def Ctx.countsProgress (x : Ctx) : Bool :=
  match x.blocked with
  | none => false
  | some (.gather _) => false
  | some .window => false
  | some .stall => false
  | some .drain => false
  | some _ => true

/-- HANG_DETECTION: the counter of a blocked context has reached HANGT (R392); one that issues meets it at its next
instruction. -/
def execHangDetection (who : Who) (s : State) : Out :=
  let x := s.ctxOf who
  if s.mgmt.pkghlt || (x.run != .waiting && x.run != .active) || s.frozen x || !x.countsProgress || !s.hangDue x then .next s
  else .next (s.hang who)

/-- A context at an instruction boundary. -/
def Ctx.atBoundary (x : Ctx) : Bool := x.run == .active && x.blocked.isNone

/-- SAFETO_BUDGET_EXPIRY: SAFETO at the member's next instruction (R394). -/
def execSafetoBudgetExpiry (who : Who) (s : State) : Out :=
  let x := s.ctxOf who
  if !s.mgmt.pkghlt && x.atBoundary && x.safetoDue then .next (s.safeto who) else .next s

/-- PREEMPT_END_MEMBER: a member that has not arrived after 4,096 further instructions is ended (R394). -/
def execPreemptEndMember (who : Who) (s : State) : Out :=
  let x := s.ctxOf who
  if !s.mgmt.pkghlt && x.atBoundary && x.overdue then .next (s.endMember who) else .next s

end Sys2Proof.Machine
end

