-- ==== Sys2Proof/Machine/Debug.lean ====
section
/-! DEFINITION. Debug: halts, resumption, steps, the selected item, and the package halt (R398 to R401). -/

namespace Sys2Proof.Machine

/-! ## Halting (R399, R401) -/

/-- A context blocked where no instruction of its own is under way: a request halts it at once. -/
def Ctx.haltable (x : Ctx) : Bool :=
  x.run == .waiting && !x.ended

/-- Contexts of a mask on a core. -/
def maskedWho (c : CoreId) (m : BitVec 4) : List Who :=
  ((List.finRange 4).filter fun (j : Fin 4) => m.getLsbD j.val).map fun j => { core := c, ctx := j }

/-- Requests with HREQ: a waiting context halts now, a running one at its next instruction boundary; a team that is being
swapped does not issue, so its members halt when they do again. -/
def State.haltRequest (s : State) (c : CoreId) (m : BitVec 4) : State :=
  let s1 := s.modCore c fun k => { k with dbg := { k.dbg with hreq := m } }
  (maskedWho c m).foldl (fun s w =>
    if (s.ctxOf w).haltable && !s.frozen (s.ctxOf w) then s.haltCtx w 0 else s) s1

def execDctlHreq (core : CoreId) (mask : BitVec 4) (s : State) : Out :=
  .next (s.haltRequest core ((s.core core).dbg.hreq ||| mask))

/-- Where a halted context goes on: in the block that it keeps, or at its next instruction. -/
def Ctx.unhalted (x : Ctx) (now : Nat) : Ctx :=
  match x.blocked with
  | some (.gather _) | some .window | some (.wait _) | some .lineLease | some (.released _ _) => { x with run := .waiting }
  | _ => { x with run := .active, since := now }

/-- RESUME and STEP act on halted contexts only, and clear their HREQ; none goes on while the package is halted. -/
def State.restart (s : State) (w : Who) (mark : StepMark) : State :=
  let x := s.ctxOf w
  if x.run != .halted || s.mgmt.pkghlt then s
  else
    let y := { x.unhalted s.cycle with step := mark }
    let z := match y.blocked with
      | some (.gather _) => y
      | some .window => if s.inWindow y then s.runProgress y else y
      | _ => s.runProgress y
    (s.setCtx w z).modCore w.core fun k =>
      { k with dbg := { k.dbg with hreq := k.dbg.hreq &&& ~~~(BitVec.twoPow 4 w.ctx.val) } }

def State.restartAll (s : State) (c : CoreId) (m : BitVec 4) (mark : StepMark) : State :=
  (maskedWho c m).foldl (fun s w => s.restart w mark) s

def execDctlResume (core : CoreId) (mask : BitVec 4) (s : State) : Out := .next (s.restartAll core mask .none)
def execDctlStep (core : CoreId) (mask : BitVec 4) (s : State) : Out := .next (s.restartAll core mask .armed)

/-- Every context of the package halts (R401). -/
def State.haltPackage (s : State) : State :=
  allWho.foldl (fun s w =>
    let x := s.ctxOf w
    if (x.run == .active || x.run == .waiting) && !x.ended then s.haltCtx w 0 else s)
    { s with mgmt := { s.mgmt with pkghlt := true } }

/-- The placement engine and the prefetch engine take up what the halt held back (R401). -/
def State.enginesOn (s : State) : State :=
  ((s.homes.map fun h => h.key.domain).foldl State.startHomes s).contributeOn.pumpOn

/-- PKGHLT: contexts resume only through RESUME or STEP. -/
def State.writePkghlt (s : State) (on : Bool) : State :=
  if on then s.haltPackage else { s with mgmt := { s.mgmt with pkghlt := false } }.enginesOn

def execPkghlt (on : Bool) (s : State) : Out := .next (s.writePkghlt on)

/-! ## The selected item (R398, R400) -/

/-- What an access to DDATA gives: the result code, and the value read or the state written. -/
inductive Item
  | failed (code : Nat)
  | value (v : Word)
  | written (s : State)

/-- Word `k` of 64 bits of a wide value. -/
def wordOf {n : Nat} (v : BitVec n) (k : Nat) : Word := BitVec.ofNat 64 (bitsAt v (64 * k) 64)

/-- A control word written by the debugger has the effect of MTC, without the mode check: a role change that must wait takes
effect later (R33). -/
def State.debugCtl (s : State) (w : Who) (n : Nat) (v : Word) : Item :=
  if !ctlWritable n then .failed 5
  else if n != 0x08 then .written (s.setCtx w ((s.ctxOf w).setCtl n v))
  else
    let old := (s.core w.core).bankrole
    if badRoles v || foreignRoles (s.ctxOf w) old v then .failed 5
    else
      let r := s.roleChange w v
      if s.changeFree w.core r then .written (s.applyChange w.core r)
      else .written (s.modCore w.core fun k => { k with dbg := { k.dbg with roles := k.dbg.roles ++ [(w.ctx, r)] } })

/-- An access to the item that DSEL names.  A queued command that is edited after its start checks were made in the shadow slot (R262)
keeps them as made (DEDUCED, log 43). -/
def State.item (s : State) (c : CoreId) (write : Option Word) : Item :=
  let sel := (s.core c).dbg.dsel
  let w : Who := { core := c, ctx := ⟨bitsAt sel 0 2 % 4, by omega⟩ }
  let x := s.ctxOf w
  let n := bitsAt sel 8 8
  let k := bitsAt sel 16 4
  if x.run != .halted then .failed 1
  else
    match bitsAt sel 2 3, write with
    | 0, none => if x.allot.toNat ≤ n then .failed 2 else .value (x.rs (BitVec.ofNat 6 n))
    | 0, some v => if x.allot.toNat ≤ n then .failed 2 else .written (s.setCtx w (x.ws (BitVec.ofNat 6 n) v))
    | 1, none => if 32 ≤ n || 4 ≤ k then .failed 4 else .value (wordOf (shownHandle (x.rh (BitVec.ofNat 5 n))) k)
    | 1, some v =>
      if 32 ≤ n || 4 ≤ k then .failed 4
      else
        let old := x.rh (BitVec.ofNat 5 n)
        .written (s.setCtx w (x.wh (BitVec.ofNat 5 n) (putBits (putBits old (64 * k) 64 v.toNat) 93 1 (bitsAt old 93 1))))
    | 2, none => .value x.pc
    | 2, some v => if bitsAt v 0 2 != 0 || 2 ^ 52 ≤ v.toNat then .failed 6 else .written (s.setCtx w { x with pc := v })
    | 3, none => (match s.ctl w n with
      | some v => .value v
      | none => .failed 4)
    | 3, some v => if (s.ctl w n).isNone then .failed 4 else s.debugCtl w n v
    | 4, r =>
      (match (x.queues.toList[bitsAt sel 20 3]?).bind fun q => q[bitsAt sel 23 5]? with
      | none => .failed 4
      | some d =>
        match r with
        | none => .value (wordOf d.bits k)
        | some v =>
          if d.phase != .queued then .failed 3
          else
            match allQueues[bitsAt sel 20 3]? with
            | some q => .written (s.modCmd w q (bitsAt sel 23 5) fun d => { d with bits := putBits d.bits (64 * k) 64 v.toNat })
            | none => .failed 4)
    | _, _ => .failed 4

def State.modDbg (s : State) (c : CoreId) (f : DebugBlock → DebugBlock) : State := s.modCore c fun k => { k with dbg := f k.dbg }

/-- An access to DDATA, with its result in DERR. -/
def State.accessDdata (s : State) (c : CoreId) (write : Option Word) : State :=
  match s.item c write with
  | .failed e => s.modDbg c fun d => { d with derr := BitVec.ofNat 64 e }
  | .value v => s.modDbg c fun d => { d with derr := 0, ddata := v }
  | .written s1 => s1.modDbg c fun d => { d with derr := 0, ddata := write.getD 0 }

def execDdata (core : CoreId) (write : Option Word) (s : State) : Out := .next (s.accessDdata core write)

end Sys2Proof.Machine
end

