-- ==== Sys2Proof/Machine/Float.lean ====
section
/-! DEFINITION. Scalar floating point (R143 to R148). -/

namespace Sys2Proof.Machine

/-- Settings of the context's FPC (R144). -/
def Ctx.env (x : Ctx) : Env := Env.of (x.fpc.extractLsb' 0 16)

/-- The FP32 operand of a register (R143). -/
def Ctx.f32 (x : Ctx) (r : SReg) : Nat := bitsAt (x.rs r) 0 32

/-- ORs flags into FPS (R28). -/
def Ctx.raise (x : Ctx) (f : Flags) : Ctx := { x with fps := x.fps ||| f.setWidth 64 }

/-- A floating-point instruction: the result's bits to Sd, the flags into FPS; it never traps on a value (R144). -/
def State.floatOp (s : State) (i : Instr) (regs : List SReg) (d : SReg) (f : Ctx → Nat × Flags) : Out :=
  s.run i regs fun x => .ok (s.retire ((x.ws d (BitVec.ofNat 64 (f x).1)).raise (f x).2) i.size)

def execFadd (d a b : SReg) (s : State) : Out :=
  s.floatOp (.fadd d a b) [d, a, b] d fun x => f32Add x.env (x.f32 a) (x.f32 b)
def execFsub (d a b : SReg) (s : State) : Out :=
  s.floatOp (.fsub d a b) [d, a, b] d fun x => f32Sub x.env (x.f32 a) (x.f32 b)
def execFmul (d a b : SReg) (s : State) : Out :=
  s.floatOp (.fmul d a b) [d, a, b] d fun x => f32Mul x.env (x.f32 a) (x.f32 b)
def execFdiv (d a b : SReg) (s : State) : Out :=
  s.floatOp (.fdiv d a b) [d, a, b] d fun x => f32Div x.env (x.f32 a) (x.f32 b)
def execFsqrt (d a : SReg) (s : State) : Out :=
  s.floatOp (.fsqrt d a) [d, a] d fun x => f32Sqrt x.env (x.f32 a)
def execFmin (d a b : SReg) (s : State) : Out :=
  s.floatOp (.fmin d a b) [d, a, b] d fun x => f32Min x.env (x.f32 a) (x.f32 b)
def execFmax (d a b : SReg) (s : State) : Out :=
  s.floatOp (.fmax d a b) [d, a, b] d fun x => f32Max x.env (x.f32 a) (x.f32 b)
def execFfma (d a b c : SReg) (s : State) : Out :=
  s.floatOp (.ffma d a b c) [d, a, b, c] d fun x => f32Fma x.env (x.f32 a) (x.f32 b) (x.f32 c)
def execFcmp (k : FCond) (d a b : SReg) (s : State) : Out :=
  s.floatOp (.fcmp k d a b) [d, a, b] d fun x =>
    let r := f32Cmp x.env k (x.f32 a) (x.f32 b)
    (if r.1 then 1 else 0, r.2)

/-- Source operand of FCVT (R148). -/
def cvtRead (env : Env) (t : CvtType) (v : Word) : Num :=
  match t with
  | .fp32 => f32In env (bitsAt v 0 32)
  | .bf16 => Fp.bf16.decode (bitsAt v 0 16)
  | .fp16 => Fp.fp16.decode (bitsAt v 0 16)
  | .int32 => ofInt (v.extractLsb' 0 32).toInt
  | .int64 => ofInt v.toInt

/-- Result of FCVT: the 64 bits written and the flags (R148). -/
def cvtWrite (env : Env) (t : CvtType) (v : Num) : Nat × Flags :=
  match t with
  | .fp32 => Fp.fp32.convert env v
  | .bf16 => Fp.bf16.convert env v
  | .fp16 => Fp.fp16.convert env v
  | .int32 => ((BitVec.ofInt 64 (toInt env 32 v).1).toNat, (toInt env 32 v).2)
  | .int64 => ((BitVec.ofInt 64 (toInt env 64 v).1).toNat, (toInt env 64 v).2)

def execFcvt (t u : CvtType) (d a : SReg) (s : State) : Out :=
  s.floatOp (.fcvt t u d a) [d, a] d fun x => cvtWrite x.env t (cvtRead x.env u (x.rs a))

end Sys2Proof.Machine
end

