-- ==== Sys2Proof/Machine/Ingress.lean ====
section
/-! DEFINITION. Requests that arrive from other packages: reads, writes, atomics, leases and the messages of conversions (R384,
R401, R411, R415, R418, R424). -/

namespace Sys2Proof.Machine

/-- Source of a request, and the page of its answer's station (R405). -/
def Inbound.origin (b : Inbound) : BitVec 11 × Nat :=
  match b with
  | .write m => (m.src, m.addr.toNat / 65536)
  | .read m => (m.src, m.addr.toNat / 65536)
  | .atomic m => (m.src, m.addr.toNat / 65536)
  | .lease src base _ => (src, base.toNat / 65536)
  | .release src base => (src, base.toNat / 65536)
  | .conv _ src _ => (src.setWidth 11, 0)

/-- Performs a request of another package and answers it. -/
def State.serve (s : State) (b : Inbound) : State :=
  let page := b.origin.2
  match b with
  | .write m =>
    let flag := m.flag.map fun a => remoteRef m.flagNode m.flagBase a m.flagFenced m.flagToken
    let r := s.serveWrite 0 m.slot m.src (remoteRef s.ownNode m.base m.addr m.fenced m.token) m.data
      (m.scale.map fun p => (p.1.toNat, p.2)) flag
    r.1.answerTo m.src page r.2
  | .read m =>
    match s.serveRead 0 m.slot false ((m.addr.toNat, m.len) :: (m.scale.map fun p => (p.1.toNat, p.2)).toList) with
    | (s1, .ok bs) => s1.send (.readReply m.src (s1.planeOf m.src page) (bs.take m.len) (bs.drop m.len))
    | (s1, .error a) => s1.answerTo m.src page a
  | .atomic m =>
    let r := s.serveAtomic 0 m.slot m.src (remoteRef s.ownNode m.base m.addr m.fenced m.token) m.op (if m.wide then 8 else 4) m.x m.e
    r.1.answerTo m.src page r.2
  | .lease src base term =>
    let r := s.serveLease src base term
    r.1.answerTo src page r.2
  | .release src base =>
    let r := s.serveRelease src base
    r.1.answerTo src page r.2
  | .conv key src b => s.takeConv key src b

/-- Elements of this package that a request of another one accesses, with their bytes. -/
def State.inboundRefs (s : State) (b : Inbound) : Fin 16 × List (ElemRef × Nat) :=
  let r := fun (a : Word) => remoteRef s.ownNode 0 a false 0
  match b with
  | .write m =>
    (m.slot, (r m.addr, m.data.length) :: ((m.scale.map fun p => (r p.1, p.2.length)).toList ++
      (m.flag.map fun a => (remoteRef m.flagNode 0 a false 0, 8)).toList))
  | .read m => (m.slot, (r m.addr, m.len) :: (m.scale.map fun p => (r p.1, p.2)).toList)
  | .atomic m => (m.slot, [(r m.addr, if m.wide then 8 else 4)])
  | _ => (0, [])

/-- A line lease, or an earlier request for one, that a request of another package stands behind at the home slice: the line
(R176). -/
def State.inboundBehind (s : State) (id : Nat) (b : Inbound) : Option Nat :=
  if s.lineq.isEmpty then none
  else
    let refs := s.inboundRefs b
    ((refs.2.flatMap fun e => s.refPlaces 0 refs.1 e.1 e.2).find? fun p => s.behindLease none (some id) p.1).map fun p => p.1 / 128

/-- A chunk of a conversion for whose elements no page is free waits (R425). -/
def State.noPage (s : State) (b : Inbound) : Bool :=
  match b with
  | .conv key _ (.chunk first data) => s.chunkFull key first data
  | _ => false

/-- Local requests must wait: the package is halted, or earlier ones wait (R401, R415). -/
def State.ingressWaits (s : State) : Bool := s.mgmt.pkghlt || !s.inbox.isEmpty

/-- A request that must wait queues in its own class, with its place behind a line lease; once the queue has passed half its
depth, which is open, it is answered receiver-not-ready (R176, R384, R401, R415, log 12). -/
def State.backUp (s : State) (b : Inbound) (line : Option Nat) : State :=
  if Config.ingressHalf < s.inbox.length then s.answerTo b.origin.1 b.origin.2 .rnr
  else
    let id := s.nextId
    let s1 := { s with nextId := id + 1, inbox := s.inbox ++ [(id, b)] }
    match line with
    | some l => s1.queueAccess { who := { core := 0, ctx := 0 }, line := 0, phys := l, stop := none, access := true, req := some id, inbound := true }
    | none => s1

/-- A request arrives from another package on a station: one that a link in KEYEXH carries is answered receiver-not-ready
(R411). -/
def State.ingress (s : State) (via : Fin 64) (b : Inbound) : State :=
  if s.stations[via].state == .keyexh then s.answerTo b.origin.1 b.origin.2 .rnr
  else
    let line := s.inboundBehind s.nextId b
    if s.ingressWaits || line.isSome || s.noPage b then s.backUp b line else s.serve b

/-- The oldest waiting request is performed, once the package runs and no line lease stands before it. -/
def State.serveNext (s : State) : State :=
  match s.inbox with
  | [] => s
  | (id, b) :: rest =>
    if s.mgmt.pkghlt || s.noPage b then s
    else
      match s.inboundBehind id b with
      | some l =>
        s.queueAccess { who := { core := 0, ctx := 0 }, line := 0, phys := l, stop := none, access := true, req := some id, inbound := true }
      | none =>
        { s with inbox := rest, lineq := s.lineq.filter fun l => !(l.inbound && l.req == some id) }.serve b

def execRemoteWriteRequest (m : RemWrite) (s : State) : Out := .next (s.ingress m.via (.write m))
def execRemoteReadRequest (m : RemRead) (s : State) : Out := .next (s.ingress m.via (.read m))
def execRemoteAtomicRequest (m : RemAtomic) (s : State) : Out := .next (s.ingress m.via (.atomic m))
def execLeaseRequest (src : Sender) (base term : Word) (s : State) : Out := .next (s.ingress src.via (.lease src.src base term))
def execLeaseRelease (src : Sender) (base : Word) (s : State) : Out := .next (s.ingress src.via (.release src.src base))


/-! ## Conversion messages (R424 to R426) -/

/-- A conversion message arrives.  One from another package is a request as any other (R404, R415); one of this package's own is
taken from the outbox, but for DONE at the home, which is its own finding (log 23), and waits while the package is halted
(R401). -/
def State.convArrives (s : State) (m : ConvMsg) (b : ConvBody) : State :=
  let take := fun (o : Option State) => match o with
    | some s1 => s1.takeConv m.key m.src b
    | none => s
  if m.src != s.mgmt.stnid then s.ingress m.via (.conv m.key m.src b)
  else if s.mgmt.pkghlt then s
  else match b with
    | .seal _ t => take (s.takeOwn (.seal m.key m.src t))
    | .start t x => take (s.takeOwn (.start m.key m.src t x))
    | .abort missing => take (s.takeOwn (.convAbort m.key m.src missing))
    | .done _ => s.takeConv m.key m.src b
    | .chunk _ _ => s
    | .unknown => s

def execConvSealMessage (m : ConvMsg) (member : Fin 64) (target : Option (BitVec 4)) (s : State) : Out :=
  .next (s.convArrives m (.seal member target))
def execConvStartMessage (m : ConvMsg) (target : BitVec 4) (method : ConvMethod) (s : State) : Out :=
  .next (s.convArrives m (.start target method))
def execConvChunkWrite (m : ConvMsg) (first : Nat) (data : List Byte) (s : State) : Out :=
  .next (s.convArrives m (.chunk first data))
def execConvDoneMessage (m : ConvMsg) (nan : Bool) (s : State) : Out := .next (s.convArrives m (.done nan))
def execConvAbortMessage (m : ConvMsg) (missing : Word) (s : State) : Out := .next (s.convArrives m (.abort missing))

/-- CONV_NODOMAIN: a refusal answers one of our messages; else a conversion message for a domain that this package may not hold
arrives, which is refused (R426). -/
def execConvNodomain (m : ConvMsg) (member : Fin 64) (ours : Bool) (s : State) : Out :=
  .next (if ours then s.refused m.key member else s.convArrives m .unknown)

end Sys2Proof.Machine
end

