-- ==== Sys2Proof/Machine/Mgmt.lean ====
section
/-! DEFINITION. The management space and the management die: every register block (R442), the side-band port (R435),
power, clocks, the GTC's synchronisation, the log, boot and attestation (R433 to R443). -/

namespace Sys2Proof.Machine

/-! ## Slot, memory and translation registers (R323, R361, R389) -/

/-- The bits of `v` that a register keeps (R5): its res0 bits ignore writes. -/
def keep (mask : Nat) (v : Word) : Word := v &&& BitVec.ofNat 64 mask

/-- log2 of a ring size, 12 to 24; any other value is stored as 0 (R323). -/
def ringLog (v : Word) : Word :=
  if 12 ≤ bitsAt v 0 5 && bitsAt v 0 5 ≤ 24 then BitVec.ofNat 64 (bitsAt v 0 5) else 0

/-- SCFG as stored: DLIM is clamped to 16 to 16,384 (R324). -/
def storedScfg (v : Word) : Word :=
  putBits (keep 0xFFFFFFFF7FFF0003 v) 16 15 (max 16 (min 16384 (bitsAt v 16 15)))

def Slot.read (t : Slot) : Nat → Option Word
  | 0x00 => some t.lrbase
  | 0x08 => some t.lrsize
  | 0x10 => some t.lrpi
  | 0x18 => some t.lrci
  | 0x20 => some t.crbase
  | 0x28 => some t.crsize
  | 0x30 => some t.crpi
  | 0x38 => some t.crci
  | 0x40 => some t.scfg
  | 0x48 => some t.seambase
  | 0x50 => some t.seamsize
  | _ => none

def Slot.write (t : Slot) (r : Nat) (v : Word) : Slot :=
  match r with
  | 0x00 => { t with lrbase := keep 0xFFFFFFFFFFFFF000 v }
  | 0x08 => { t with lrsize := ringLog v }
  | 0x10 => { t with lrpi := v }
  | 0x20 => { t with crbase := keep 0xFFFFFFFFFFFFF000 v }
  | 0x28 => { t with crsize := ringLog v }
  | 0x38 => { t with crci := v }
  | 0x40 => { t with scfg := storedScfg v }
  | 0x48 => { t with seambase := keep 0xFFFFFFFFFFFF0000 v }
  | 0x50 => { t with seamsize := keep 0xFFFFFFFFFFFF0000 v }
  | _ => t

/-- PCSIZE as stored: a multiple of 16, at most 512 (R361). -/
def storedPcsize (v : Word) : Word := BitVec.ofNat 64 (min 512 (bitsAt v 0 10 / 16 * 16))

/-- A pool lease is held on the package: until the GTC passes its end (R191). -/
def State.poolHeld (s : State) : Bool :=
  s.holds.any fun h => match h.key with
    | .pool _ => (s.heldNow h.key).isSome
    | .dev _ _ => false

/-- The cache holds no more pages than PCSIZE gives it (R368): those beyond become INVALID, and reads that wait for a fill of one
are served over the fabric. -/
def State.trimCache (s : State) : State :=
  let room := 16384 * bitsAt s.mgmt.pcsize 0 10 - s.stagedPages
  let out := s.cache.drop room
  { s with cache := s.cache.take room,
           reqs := s.reqs.map fun (r : Req) =>
             if r.fill && out.any fun c => r.ref.key == .pool c.poolid && c.page == r.ref.page then s.routed { r with fill := false }
             else r }

/-- PCSIZE_WRITE: ignored while a pool lease is held on the package. -/
def State.writePcsize (s : State) (v : Word) : State :=
  if s.poolHeld then s else { s with mgmt := { s.mgmt with pcsize := storedPcsize v } }.trimCache

def execPcsizeWrite (v : Word) (s : State) : Out := .next (s.writePcsize v)

/-- PCSTAT: pages VALID, and pages AHEAD. -/
def State.pcstat (s : State) : Word :=
  let valid := (s.cache.filter fun p => match p.state with | .valid => true | _ => false).length
  let ahead := (s.cache.filter fun p => match p.state with | .ahead _ => true | _ => false).length
  BitVec.ofNat 64 (valid % 2 ^ 32 + ahead % 2 ^ 32 * 2 ^ 32)

def State.readMemBlock (s : State) (r : Nat) : Option Word :=
  if r < 0x80 then some s.slots[r / 8 % 16].mslot
  else match r with
    | 0x100 => some s.mgmt.pcsize
    | 0x108 => some s.mgmt.lguard
    | 0x110 => some s.pcstat
    | 0x118 => some s.mgmt.lterm
    | _ => none

def State.writeMemBlock (s : State) (r : Nat) (v : Word) : State :=
  if r < 0x80 then s.modSlot ⟨r / 8 % 16, by omega⟩ fun t => { t with mslot := keep 0xFFFFFFFFF v }
  else match r with
    | 0x100 => s.writePcsize v
    | 0x108 => { s with mgmt := { s.mgmt with lguard := keep 0xFFFF v } }
    | 0x118 => { s with mgmt := { s.mgmt with lterm := keep 0xFFFFFFFF v } }
    | _ => s

/-- Whether an invalidation covers a held translation (R389). -/
def covers (v : Word) (h : Held) : Bool :=
  h.slot.val == bitsAt v 0 4 &&
    (match bitsAt v 4 2 with
    | 0 => h.page == bitsAt v 16 36
    | 1 => h.page / 2 ^ 5 == bitsAt v 16 36 / 2 ^ 5
    | 2 => h.page / 2 ^ 14 == bitsAt v 16 36 / 2 ^ 14
    | _ => true)

/-- TINV (R390): what it covers is dropped from every TLB and cached walk; with 16 pending it is dropped itself. -/
def State.writeTinv (s : State) (v : Word) : State :=
  if 16 ≤ s.mgmt.tinvPending.length then { s with mgmt := { s.mgmt with tinvOvf := true } }
  else { s with
    tlb := s.tlb.filter fun h => !covers v h
    mgmt := { s.mgmt with tinvPending := s.mgmt.tinvPending ++ [keep 0xFFFFFFFFF003F v] } }

def execTinv (v : Word) (s : State) : Out := .next (s.writeTinv v)

/-- TLB_INVALIDATION_COMPLETE: the oldest pending invalidation is counted.  Accesses take effect at once (log 1), so the
egress queues hold nothing. -/
def execTlbInvalidationComplete (s : State) : Out :=
  match s.mgmt.tinvPending with
  | [] => .next s
  | _ :: rest => .next { s with mgmt := { s.mgmt with tinvPending := rest, tinvDone := s.mgmt.tinvDone + 1 } }

def State.readXlatBlock (s : State) (r : Nat) : Option Word :=
  if r < 0x80 then some s.slots[r / 8 % 16].troot
  else match r with
    | 0x100 => some 0
    | 0x108 => some (BitVec.ofNat 64 ((if s.mgmt.tinvOvf then 1 else 0) + 2 ^ 8 * s.mgmt.tinvPending.length
        + 2 ^ 32 * s.mgmt.tinvDone.toNat))
    | _ => none

def State.writeXlatBlock (s : State) (r : Nat) (v : Word) : State :=
  if r < 0x80 then s.modSlot ⟨r / 8 % 16, by omega⟩ fun t => { t with troot := keep 0xFFFFFFFF0001 v }
  else match r with
    | 0x100 => s.writeTinv v
    | 0x108 => if bitAt v 0 then { s with mgmt := { s.mgmt with tinvOvf := false } } else s
    | _ => s

/-! ## Stations (R406 to R409) -/

def StState.num : StState → Nat
  | .down => 0 | .train => 1 | .idcheck => 2 | .up => 3 | .quiescing => 4 | .quiesced => 5 | .keyexh => 6

def flagNat (b : Bool) : Nat := if b then 1 else 0

/-- STSTAT (R407). -/
def Station.stat (t : Station) : Word :=
  BitVec.ofNat 64 (t.state.num + 2 ^ 3 * t.mode.val + 2 ^ 5 * flagNat t.forced + 2 ^ 6 * flagNat t.kidx
    + 2 ^ 8 * t.pstn.toNat + 2 ^ 18 * flagNat t.pmem + 2 ^ 19 * t.pidx.toNat + 2 ^ 25 * flagNat t.psw)

def Station.read (t : Station) : Nat → Option Word
  | 0x00 => some (BitVec.ofNat 64 (flagNat t.en + 2 * flagNat t.quiesce + 4 * flagNat t.direct + 8 * t.best.val))
  | 0x08 => some t.stat
  | 0x10 => some t.exppeer
  | 0x18 => some (BitVec.ofNat 64 (4 * flagNat t.txnext.isSome + 8 * flagNat t.rxnext.isSome))
  | 0x20 => some 0
  | 0x28 => some 0
  | 0x30 => some 0
  | 0x38 => some 0
  | 0x40 => some (t.txctr.setWidth 64)
  | 0x48 => some t.keywait
  | 0x50 => some t.qtmo
  | 0x58 => some (BitVec.ofNat 64 (t.replayed.toNat + 2 ^ 32 * t.retrains.toNat))
  | _ => none

/-- EXPPEER as stored: KIND 3 is stored as 2 (R409). -/
def storedPeer (v : Word) : Word :=
  if bitsAt v 17 2 == 3 then putBits (keep 0x7FFFF v) 17 2 2 else keep 0x7FFFF v

/-- KEYCTL: LDTX, then LDRX (R406). -/
def State.writeKeyctl (s : State) (k : Fin 64) (v : Word) : State :=
  let s1 := if bitAt v 0 then s.loadTx k else s
  if bitAt v 1 then s1.loadRx k else s1

def State.writeStation (s : State) (k : Fin 64) (r : Nat) (v : Word) : State :=
  match r with
  | 0x00 => s.writeStctl k v
  | 0x10 => s.modStation k fun t => { t with exppeer := storedPeer v }
  | 0x18 => s.writeKeyctl k v
  | 0x48 => s.modStation k fun t => { t with keywait := keep 0xFFFFFFFF v }
  | 0x50 => s.modStation k fun t => { t with qtmo := keep 0xFFFFFFFF v }
  | _ =>
    if 0x20 ≤ r && r < 0x40 then
      s.modStation k fun t => { t with keydata := putBits t.keydata ((r - 0x20) / 8 * 64) 64 v.toNat }
    else s

def State.readPort (s : State) (r : Nat) : Option Word :=
  if r == 0 then some (s.mgmt.stnid.setWidth 64)
  else if r == 8 then some s.mgmt.cvtmo
  else if 0x100 ≤ r && r < 0x300 then some s.mgmt.dlroute[(r - 0x100) / 8 % 64]
  else none

/-- The port-global block (R408). -/
def State.writePort (s : State) (r : Nat) (v : Word) : State :=
  if r == 0 then
    if s.stations.toList.all fun t => t.state == .down then { s with mgmt := { s.mgmt with stnid := v.setWidth 10 } } else s
  else if r == 8 then { s with mgmt := { s.mgmt with cvtmo := keep 0xFFFF v } }
  else if 0x100 ≤ r && r < 0x300 then
    { s with mgmt := { s.mgmt with dlroute := s.mgmt.dlroute.set ((r - 0x100) / 8 % 64) (keep 0x1FFFF v) } }
  else s

/-! ## Ethernet (R428, R429) -/

def State.readEther (s : State) (r : Nat) : Option Word :=
  let e := s.ether
  match r with
  | 0x000 => some e.ectl
  | 0x008 => some (BitVec.ofNat 64 (flagNat e.linkUp + 2 ^ 32 * e.retransmitted.toNat))
  | 0x010 => some e.rto
  | 0x018 => some e.rtry
  | 0x020 => some e.maca
  | 0x028 => some (wordOf e.addr6 0)
  | 0x030 => some (wordOf e.addr6 1)
  | _ => none

def State.writeEther (s : State) (r : Nat) (v : Word) : State :=
  match r with
  | 0x000 => { s with ether := { s.ether with ectl := keep 0xFF01 v } }
  | 0x010 => { s with ether := { s.ether with rto := keep 0xFFFFFFFF v } }
  | 0x018 => { s with ether := { s.ether with rtry := keep 0xFF v } }
  | 0x020 => { s with ether := { s.ether with maca := keep 0xFFFFFFFFFFFF v } }
  | 0x028 => { s with ether := { s.ether with addr6 := putBits s.ether.addr6 0 64 v.toNat } }
  | 0x030 => { s with ether := { s.ether with addr6 := putBits s.ether.addr6 64 64 v.toNat } }
  | _ => s

/-- Bytes of a held message that have arrived. -/
def HeldMsg.got (m : HeldMsg) : Nat := (m.parts.map fun p => p.2.length).foldl (· + ·) 0

def State.readEp (s : State) (e : Fin 256) (r : Nat) : Option Word :=
  let t := s.ether.eps[e]
  match r with
  | 0x00 => some (if e.val < 16 then putBits t.cfg 1 4 e.val else t.cfg)
  | 0x08 => some t.wbase
  | 0x10 => some t.wsize
  | 0x18 => some t.key
  | 0x20 => some t.cnt
  | 0x28 => some (BitVec.ofNat 64 (t.held.length % 2 ^ 16 + 2 ^ 32 * ((t.held.map HeldMsg.got).foldl (· + ·) 0 % 2 ^ 32)))
  | _ => none

/-- A write to an endpoint's registers; SLOT of a launch endpoint ignores writes (R429). -/
def Endpoint.write (t : Endpoint) (e r : Nat) (v : Word) : Endpoint :=
  match r with
  | 0x00 => { t with cfg := if e < 16 then putBits (keep 0x21 v) 1 4 e else keep 0x3F v }
  | 0x08 => { t with wbase := keep 0xFFFFFFFFFFFF0000 v }
  | 0x10 => { t with wsize := keep 0xFFFFFFFFFFFF0000 v }
  | 0x18 => { t with key := keep 0xFFFFFFFF v }
  | 0x20 => { t with cnt := v }
  | _ => t

def State.writeEp (s : State) (e : Fin 256) (r : Nat) (v : Word) : State :=
  { s with ether := { s.ether with eps := s.ether.eps.set e (s.ether.eps[e].write e.val r v) } }

/-- A peer table entry. -/
def State.peer (s : State) (n : Nat) : BitVec 256 := ((s.ether.peers.find? fun p => p.1 == n).map (·.2)).getD 0

/-- Word `k` of a peer table entry: the address, then endpoint and V, then res0. -/
def State.writePeer (s : State) (n k : Nat) (v : Word) : State :=
  let w : Word := match k with
    | 0 => v
    | 1 => v
    | 2 => keep 0x1FFFF v
    | _ => 0
  let b := putBits (s.peer n) (64 * k) 64 w.toNat
  let rest := s.ether.peers.filter fun p => p.1 != n
  { s with ether := { s.ether with peers := if b == 0 then rest else (n, b) :: rest } }

/-! ## Power, clocks, boot and log control (R443) -/

/-- PWRCTL as stored: PLIM at most 10,000, ILIM at most 2,000, TTRIP at most 110. -/
def storedPwrctl (v : Word) : Word :=
  BitVec.ofNat 64 (min 10000 (bitsAt v 0 16) + 2 ^ 16 * min 2000 (bitsAt v 16 16) + 2 ^ 32 * bitsAt v 32 8
    + 2 ^ 40 * min 110 (bitsAt v 40 8))

/-- GTCERR's bound (R434): the bound on the offset from the fabric's time master, a free value (log 49), while the GTC is
synchronised; what it was when synchronisation was lost, and 100 ns more for each ms since; and 0, its reset value, before the GTC has
been synchronised (R443). -/
def State.gtcBound (s : State) : Nat :=
  match s.mgmt.lostAt with
  | some t => (Config.gtcOffset t).toNat + (s.gtc.toNat - t) / 1000000 * 100
  | none => if s.mgmt.sync then (Config.gtcOffset s.gtc.toNat).toNat else 0

def State.readControl (s : State) (r : Nat) : Option Word :=
  let m := s.mgmt
  match r with
  | 0x00 => some m.pwrctl
  | 0x08 => some (BitVec.ofNat 64 (m.k % 2 ^ 5 + 2 ^ 32 * m.kchanges.toNat))
  | 0x10 => some (BitVec.ofNat 64 (min (2 ^ 32 - 1) s.gtcBound + 2 ^ 32 * flagNat m.sync))
  | 0x18 => some (BitVec.ofNat 64 (m.bootStep.toNat + 2 ^ 4 * flagNat m.bootFail + 2 ^ 5 * flagNat m.bank))
  | 0x20 => some m.fwver
  | 0x28 => some m.rollctr
  | 0x30 => some (BitVec.ofNat 64 m.eloghead)
  | 0x38 => some (BitVec.ofNat 64 m.elogtail)
  | 0x40 => some m.eloglost
  | 0x48 => some 0
  | _ => none

/-- ELOGACK: ELOGHEAD is set, clamped to ELOGTAIL. -/
def State.ackLog (s : State) (v : Word) : State :=
  { s with mgmt := { s.mgmt with eloghead := min v.toNat s.mgmt.elogtail } }

def execElogack (v : Word) (s : State) : Out := .next (s.ackLog v)

def State.writeControl (s : State) (r : Nat) (v : Word) : State :=
  match r with
  | 0x00 => { s with mgmt := { s.mgmt with pwrctl := storedPwrctl v } }
  | 0x48 => s.ackLog v
  | _ => s

/-! ## Sensors, hang records and the event log (R436 to R438) -/

/-- Kind of a sensor; none where there is no such sensor. -/
def sensorKind (i : Nat) : Option Nat :=
  if i < 24 then some 1 else if i < 32 then some 2 else if i < 38 then some 3 else if i == 38 then some 4
  else if i < 47 then some 1 else none

/-- A sensor word; its value is an input of the package, a free value (log 7). -/
def State.readSensor (s : State) (i : Nat) : State × Option Word :=
  match sensorKind i with
  | some k => ({ s with fresh := s.fresh + 1 }, some (BitVec.ofNat 64 ((Config.sensorValue i s.fresh).toNat + 2 ^ 16 * k)))
  | none => (s, some 0)

/-- The entry that a ring of `n` records shows in place `q`, when `total` have been written: the last written there. -/
def ringPlace (n total q : Nat) : Option Nat :=
  if q % n < total % n then some (total / n * n + q % n)
  else if n ≤ total then some ((total / n - 1) * n + q % n)
  else none

/-- Word `k` of the hang record in place `q`.  DESIGN CHOICE (log 20): R438 does not say which number places a hang record; it is
the count of hang records before it. -/
def State.readHang (s : State) (q k : Nat) : Word :=
  match ringPlace 4096 s.mgmt.hangs.length q with
  | some j => ((s.mgmt.hangs[s.mgmt.hangs.length - 1 - j]?).map fun r => wordOf r k).getD 0
  | none => 0

/-- Event codes (R438). -/
def EventCode.num : EventCode → Nat
  | .memberend => 0x01 | .hang => 0x02 | .tmplfail => 0x03 | .dfltlost => 0x04 | .peermismatch => 0x05
  | .nokey => 0x06 | .authfail => 0x07 | .keylow => 0x08 | .keyexh => 0x09 | .throttle => 0x0A
  | .thermtrip => 0x0B | .dlfull => 0x0C | .poisoned => 0x0D | .xlatrefuse => 0x0E | .gtclost => 0x0F
  | .fwupdate => 0x10 | .bootfail => 0x11 | .corrected => 0x12 | .cmplfail => 0x13

/-- Word `k` of an event record; a HANG record holds the first 16 bytes of its hang record, and other DATA is laid out in a
way that is open (log 20). -/
def EventRec.word (e : EventRec) (k : Nat) : Word :=
  match k with
  | 0 => e.gtc
  | 1 => BitVec.ofNat 64 (e.src.toNat + 2 ^ 32 * e.code.num)
  | _ => if e.code == .hang then (e.data[k - 2]?).getD 0 else Config.eventData e.code.num e.data (k - 2)

/-- Word `k` of the event record in place `q`; a place that no record has reached reads zero. -/
def State.readLog (s : State) (q k : Nat) : Word :=
  let first := s.mgmt.elogtail - s.mgmt.elog.length
  match ringPlace 65536 s.mgmt.elogtail q with
  | some j => if first ≤ j then ((s.mgmt.elog[j - first]?).map fun r => r.word k).getD 0 else 0
  | none => 0

/-! ## Debug blocks (R398) -/

def State.readDebug (s : State) (c : CoreId) (r : Nat) : State × Option Word :=
  let d := (s.core c).dbg
  match r with
  | 0x000 => (s, some (BitVec.ofNat 64 (d.hreq.toNat + 2 ^ 12 * flagNat d.brkarm)))
  | 0x008 =>
    let halted := ((List.range 4).filter fun k => ((s.core c).ctx[k]?.map (·.run)) == some .halted).foldl (fun n k => n + 2 ^ k) 0
    (s, some (BitVec.ofNat 64 (halted + 2 ^ 8 * d.reason.toNat)))
  | 0x010 => (s, some d.dbpa[0])
  | 0x018 => (s, some d.dbpa[1])
  | 0x020 => (s, some d.dbpa[2])
  | 0x028 => (s, some d.dbpa[3])
  | 0x040 => (s, some d.dsel)
  | 0x048 => let s1 := s.accessDdata c none; (s1, some (s1.core c).dbg.ddata)
  | 0x050 => (s, some d.derr)
  | 0x058 => (s, if c.val == 0 then some (BitVec.ofNat 64 (flagNat s.mgmt.pkghlt)) else none)
  | _ => (s, none)

/-- DCTL: HREQ and BRKARM are written, then RESUME and STEP act. -/
def State.writeDctl (s : State) (c : CoreId) (v : Word) : State :=
  let s1 := (s.modDbg c fun d => { d with brkarm := bitAt v 12 }).haltRequest c (v.extractLsb' 0 4)
  (s1.restartAll c (v.extractLsb' 4 4) .none).restartAll c (v.extractLsb' 8 4) .armed

def State.writeDebug (s : State) (c : CoreId) (r : Nat) (v : Word) : State :=
  match r with
  | 0x000 => s.writeDctl c v
  | 0x010 => s.modDbg c fun d => { d with dbpa := d.dbpa.set 0 (keep 0xFFFFFFFFFFFFD v) }
  | 0x018 => s.modDbg c fun d => { d with dbpa := d.dbpa.set 1 (keep 0xFFFFFFFFFFFFD v) }
  | 0x020 => s.modDbg c fun d => { d with dbpa := d.dbpa.set 2 (keep 0xFFFFFFFFFFFFD v) }
  | 0x028 => s.modDbg c fun d => { d with dbpa := d.dbpa.set 3 (keep 0xFFFFFFFFFFFFD v) }
  | 0x040 => s.modDbg c fun d => { d with dsel := keep 0x0FFFFF1F v }
  | 0x048 => s.accessDdata c (some v)
  | 0x058 => if c.val == 0 then s.writePkghlt (bitAt v 0) else s
  | _ => s

/-! ## The management space (R442) -/

/-- What an offset of the management space names. -/
inductive Reg
  | slot (k : Fin 16) (r : Nat)
  | memory (r : Nat)
  | xlat (r : Nat)
  | station (k : Fin 64) (r : Nat)
  | port (r : Nat)
  | ether (r : Nat)
  | endpoint (e : Fin 256) (r : Nat)
  | peer (n k : Nat)
  | control (r : Nat)
  | sensor (i : Nat)
  | hang (q k : Nat)
  | debug (c : CoreId) (r : Nat)
  | log (q k : Nat)
  deriving DecidableEq, Repr

/-- The register at an offset; none where no block names it, or it is not a multiple of 8. -/
def regAt (a : Nat) : Option Reg :=
  if a % 8 != 0 then none
  else if 0x100000 ≤ a && a < 0x101000 then some (.slot ⟨(a - 0x100000) / 0x100 % 16, by omega⟩ (a % 0x100))
  else if 0x110000 ≤ a && a < 0x111000 then some (.memory (a % 0x1000))
  else if 0x120000 ≤ a && a < 0x121000 then some (.xlat (a % 0x1000))
  else if 0x130000 ≤ a && a < 0x134000 then some (.station ⟨(a - 0x130000) / 0x100 % 64, by omega⟩ (a % 0x100))
  else if 0x134000 ≤ a && a < 0x135000 then some (.port (a % 0x1000))
  else if 0x140000 ≤ a && a < 0x141000 then some (.ether (a % 0x1000))
  else if 0x141000 ≤ a && a < 0x145000 then some (.endpoint ⟨(a - 0x141000) / 0x40 % 256, by omega⟩ (a % 0x40))
  else if 0x150000 ≤ a && a < 0x170000 then some (.peer ((a - 0x150000) / 0x20) (a % 0x20 / 8))
  else if 0x170000 ≤ a && a < 0x170100 then some (.control (a % 0x100))
  else if 0x170100 ≤ a && a < 0x170300 then some (.sensor ((a - 0x170100) / 8))
  else if 0x190000 ≤ a && a < 0x1D0000 then some (.hang ((a - 0x190000) / 64) (a % 64 / 8))
  else if 0x200000 ≤ a && a < 0x400000 then some (.debug ⟨(a - 0x200000) / 0x1000 % 512, by omega⟩ (a % 0x1000))
  else if 0x400000 ≤ a && a < 0x600000 then some (.log ((a - 0x400000) / 32) (a % 32 / 8))
  else none

/-- A read of the management space: the value, none where there is no register. -/
def State.readReg (s : State) (a : Nat) : State × Option Word :=
  match regAt a with
  | some (.slot k r) => (s, s.slots[k].read r)
  | some (.memory r) => (s, s.readMemBlock r)
  | some (.xlat r) => (s, s.readXlatBlock r)
  | some (.station k r) => (s.countFlits k, (s.countFlits k).stations[k].read r)
  | some (.port r) => (s, s.readPort r)
  | some (.ether r) => (s, s.readEther r)
  | some (.endpoint e r) => (s, s.readEp e r)
  | some (.peer n k) => (s, some (wordOf (s.peer n) k))
  | some (.control r) => (s, s.readControl r)
  | some (.sensor i) => s.readSensor i
  | some (.hang q k) => (s, some (s.readHang q k))
  | some (.debug c r) => s.readDebug c r
  | some (.log q k) => (s, some (s.readLog q k))
  | none => (s, none)

/-- A write to the management space.  A read-only register ignores it (R5), as does an offset that names none (R442). -/
def State.writeReg (s : State) (a : Nat) (v : Word) : State :=
  match regAt a with
  | some (.slot k r) => s.modSlot k fun t => t.write r v
  | some (.memory r) => s.writeMemBlock r v
  | some (.xlat r) => s.writeXlatBlock r v
  | some (.station k r) => s.writeStation k r v
  | some (.port r) => s.writePort r v
  | some (.ether r) => s.writeEther r v
  | some (.endpoint e r) => s.writeEp e r v
  | some (.peer n k) => s.writePeer n k v
  | some (.control r) => s.writeControl r v
  | some (.sensor _) => s
  | some (.hang _ _) => s
  | some (.debug c r) => s.writeDebug c r v
  | some (.log _ _) => s
  | none => s

/-- MGMT_REGISTER_WRITE: a write by the management processor. -/
def execMgmtRegisterWrite (off : BitVec 32) (v : Word) (s : State) : Out := .next (s.writeReg off.toNat v)

/-! ## Firmware banks (R440) -/

/-- The image in a bank. -/
def State.image (s : State) (bank : Bool) : List Host.Cell := if bank then s.mgmt.bank1 else s.mgmt.bank0

/-- The version of an image: the first 8 bytes of its header. -/
def imageVersion (m : List Host.Cell) : Word := BitVec.ofNat 64 (leNat (cellsRead m 0 8))

/-- A bank may run: its image verifies, and its version is at least the rollback counter. -/
def State.bankRuns (s : State) (bank : Bool) : Bool :=
  Config.imageVerifies (s.image bank) && s.mgmt.rollctr ≤ imageVersion (s.image bank)

/-- Eight bytes of an update are written into the inactive bank, whose image is verified there (log 48). -/
def State.writeUpdate (s : State) (off : Nat) (v : Word) : State :=
  let m := cellsWrite (s.image !s.mgmt.bank) off (leBytes 8 v.toNat)
  let s1 : State := { s with mgmt :=
    if s.mgmt.bank then { s.mgmt with bank0 := m } else { s.mgmt with bank1 := m } }
  { s1 with mgmt := { s1.mgmt with updated := s1.bankRuns !s.mgmt.bank } }

/-! ## The side-band port (R435) -/

/-- One access to the inactive bank (R440): its read value, and its status. -/
def State.bankAccess (s : State) (a : SideAccess) : State × (Word × BitVec 2) :=
  if a.off.toNat % 8 != 0 then (s, (0, 1))
  else match a.write with
    | some v => (s.writeUpdate a.off.toNat v, (0, 0))
    | none => (s, (BitVec.ofNat 64 (leNat (cellsRead (s.image !s.mgmt.bank) a.off.toNat 8)), 0))

/-- One access to the management space: its read value, and its status, 0 done or 1 no such register. -/
def State.spaceAccess (s : State) (a : SideAccess) : State × (Word × BitVec 2) :=
  let there := (s.readReg a.off.toNat).2.isSome
  match a.write with
  | some v => if there then (s.writeReg a.off.toNat v, (0, 0)) else (s, (0, 1))
  | none =>
    match s.readReg a.off.toNat with
    | (s1, some v) => (s1, (v, 0))
    | (s1, none) => (s1, (0, 1))

/-- One access of a datagram. -/
def State.sideAccess (s : State) (a : SideAccess) : State × (Word × BitVec 2) :=
  if a.bank then s.bankAccess a else s.spaceAccess a

/-- The accesses of a datagram, in order. -/
def State.sideAll (s : State) : List SideAccess → State × List (Word × BitVec 2)
  | [] => (s, [])
  | a :: t =>
    let r := s.sideAccess a
    let rest := r.1.sideAll t
    (rest.1, r.2 :: rest.2)

/-- SIDEBAND_DATAGRAM: a datagram whose tag fails, whose number is not above the last one accepted, or which holds more than
64 accesses, is dropped without an answer. -/
def execSidebandDatagram (seq : Word) (accesses : List SideAccess) (tag : BitVec 128) (s : State) : Out :=
  if Config.sidebandTag s.mgmt.sideKey seq accesses != tag || seq ≤ s.mgmt.sideSeq || 64 < accesses.length then .next s
  else
    let r := { s with mgmt := { s.mgmt with sideSeq := seq } }.sideAll accesses
    .next (r.1.send (.sideReply seq r.2))

/-- ATTESTATION_REQUEST (R441): the quote; the exchange also agrees a session key (R435). -/
def execAttestationRequest (nonce : BitVec 256) (s : State) : Out :=
  let d := Config.imageDigest (s.image s.mgmt.bank)
  let id : Word := s.mgmt.stnid.setWidth 64
  .next ({ s with mgmt := { s.mgmt with sideKey := Config.sessionKey nonce } }.send
    (.quote d id s.gtc (Config.quoteSignature nonce d id s.gtc)))

/-! ## Power and clocks (R433, R434) -/

/-- PLIM. -/
def plim (v : Word) : Nat := bitsAt v 0 16
/-- ILIM in amperes. -/
def ilim (v : Word) : Nat := 10 * bitsAt v 16 16
/-- TLIM and TTRIP in eighths of a degree. -/
def tlim (v : Word) : Nat := 8 * bitsAt v 32 8
def ttrip (v : Word) : Nat := 8 * bitsAt v 40 8

/-- The clock step becomes `k`; a change is counted and logged with the old and the new value. -/
def State.setClock (s : State) (k : Nat) : State :=
  if k == s.mgmt.k then s
  else { s with mgmt := { s.mgmt with k := k, kchanges := s.mgmt.kchanges + 1 } }.logEvent s.unitSrc .throttle
    [BitVec.ofNat 64 s.mgmt.k, BitVec.ofNat 64 k]

def State.setCalm (s : State) (n : Nat) : State := { s with mgmt := { s.mgmt with calm := n } }

/-- POWER_EVALUATION, every 10 µs of GTC time, by PWRCTL as it is then: one step down when a limit is passed; one step up after 100 evaluations in a row with all three below
95 % of their limits. -/
def execPowerEvaluation (r : PowerReading) (s : State) : Out :=
  let m := s.mgmt
  let v := m.pwrctl
  let t : State := { s with mgmt := { m with limits := v, evalAt := s.gtc.toNat } }
  if s.gtc.toNat < m.evalAt + 10000 then .next s
  else if plim v < r.power || ilim v < r.current || tlim v < r.hottest then .next ((t.setCalm 0).setClock (max 8 (m.k - 1)))
  else if 100 * r.power < 95 * plim v && 100 * r.current < 95 * ilim v && 100 * r.hottest < 95 * tlim v then
    if 100 ≤ m.calm + 1 then .next ((t.setCalm 0).setClock (min 16 (m.k + 1))) else .next (t.setCalm (m.calm + 1))
  else .next (t.setCalm 0)

/-- CURRENT_SURGE: core current that exceeds ILIM by 10 % forces clock step 8. -/
def execCurrentSurge (current : Nat) (s : State) : Out :=
  if 11 * ilim s.mgmt.limits ≤ 10 * current then .next ((s.setCalm 0).setClock 8) else .next s

/-- THERMAL_TRIP: a junction has reached TTRIP. -/
def execThermalTrip (eighths : Nat) (s : State) : Out :=
  if ttrip s.mgmt.limits ≤ eighths then
    let s1 := s.haltPackage
    .next ({ s1 with mgmt := { s1.mgmt with railsOn := false } }.logEvent s.unitSrc .thermtrip [BitVec.ofNat 64 eighths])
  else .next s

/-- GTCLOST: synchronisation has been lost for more than 1 s; GTCERR grows from now on. -/
def execGtclost (s : State) : Out :=
  if s.mgmt.sync then
    .next ({ s with mgmt := { s.mgmt with sync := false, lostAt := some s.gtc.toNat } }.logEvent s.unitSrc .gtclost [])
  else .next s

/-- GTC_SYNC_RETURN: SYNC is set again, and GTCERR stops growing. -/
def execGtcSyncReturn (s : State) : Out := .next { s with mgmt := { s.mgmt with sync := true, lostAt := none } }

/-! ## Memory health (R357, R438) -/

/-- The home die of a memory device (R356): devices 0 to 15 are the HBM4E stacks, and 16 to 271 the LPDDR channels, as the model
numbers them (log 20). -/
def deviceDie (n : Nat) : Option Nat :=
  if n < 16 then some (n / 2) else if n < 272 then some ((n - 16) / 32) else none

/-- The source of an event of a memory controller: a unit at its die (R437). -/
def State.dieSrc (s : State) (die : Nat) : IWord := s.unitSrc + BitVec.ofNat 32 (256 * die)

/-- A memory device may log CORRECTED: it has not within the last millisecond (R438). -/
def State.correctedDue (s : State) (n : Nat) : Bool :=
  s.mgmt.corrected.all fun p => p.1 != n || p.2 + 1000000 ≤ s.gtc.toNat

/-- CORRECTED: a memory device that has corrected errors logs their count, once per millisecond. -/
def execCorrected (device : BitVec 16) (count : Word) (s : State) : Out :=
  match deviceDie device.toNat with
  | some d =>
    if count != 0 && s.correctedDue device.toNat then
      let s1 := s.logEvent (s.dieSrc d) .corrected [device.setWidth 64, count]
      .next { s1 with mgmt := { s1.mgmt with
        corrected := (device.toNat, s.gtc.toNat) :: s.mgmt.corrected.filter fun p => p.1 != device.toNat } }
    else .next s
  | none => .next s

/-- PATROL_SCRUB: a granule that cannot be corrected is poisoned.  Where an L1 owns the line, the bytes are the L1's, and its
write-back covers the granule. -/
def execPatrolScrub (granule : Nat) (bad : Bool) (s : State) : Out :=
  let s1 := { s with worn := s.worn.filter (· != granule) }
  let owned := s.dirty.any fun d => d.1 == granule / 4 && !s.isSw (32 * granule)
  if (bad || s.worn.contains granule) && isDev (32 * granule) && !owned && !s.poison.contains granule then
    .next { s1 with poison := granule :: s1.poison }
  else if bad then .next s else .next s1

/-! ## Boot (R439, R440) -/

/-- The bank tried first: the active one, or the other after an update or a boot that failed before step 8 (R440). -/
def State.firstBank (s : State) : Bool := if s.mgmt.updated || s.mgmt.bankBack then !s.mgmt.bank else s.mgmt.bank

/-- The package after power-on or package reset, before any step: its reset state, with what lasts across a reset: the
fused rollback counter, the firmware banks, and the model's own fields. -/
def State.restarted (s : State) (bank : Bool) : State :=
  { State.reset with
    agenda := s.agenda
    fresh := s.fresh
    mgmt := { Mgmt.reset with
      rollctr := s.mgmt.rollctr, bank0 := s.mgmt.bank0, bank1 := s.mgmt.bank1, bank := bank, bootStep := 1 } }

/-- What firmware writes in a boot step: management registers, and bytes of memory (R439). -/
def State.firmware (s : State) (f : BootFacts) (k : Nat) : State :=
  let s1 := f.regs.foldl (fun t w => if w.1 == k then t.writeReg w.2.1.toNat w.2.2 else t) s
  { s1 with mem := f.tables.foldl (fun m w => if w.1 == k then cellsWrite m w.2.1 w.2.2 else m) s1.mem }

/-- The action of boot step `k`, from 2 to 8, as far as the package's state shows it (R439).  DESIGN CHOICE (log 6): step 5 synchronises
the GTC with the fabric's time master, whose time is not an input of the table: the GTC counts on from its reset value, and only SYNC
is set. -/
def State.bootAction (s : State) (f : BootFacts) : Nat → State
  | 5 => { s with mgmt := { s.mgmt with sync := true } }
  | 6 => s.firmware f 6
  | 7 =>
    let s1 := s.firmware f 7
    { s1 with ether := { s1.ether with linkUp := true } }
  | 8 =>
    let s1 := s.firmware f 8
    { s1 with mgmt := { s1.mgmt with rollctr := s1.mgmt.fwver, bankBack := false } }
  | _ => s

/-- One boot step: it fails, and the boot stops there, or its action is done. -/
def State.bootOne (s : State) (f : BootFacts) (k : Nat) : State :=
  if s.mgmt.bootFail then s
  else
    let s1 : State := { s with mgmt := { s.mgmt with bootStep := BitVec.ofNat 4 k } }
    if f.failAt.map (·.val) == some k then
      { s1 with mgmt := { s1.mgmt with bootFail := true, bankBack := true } }.logEvent s1.unitSrc .bootfail [BitVec.ofNat 64 k]
    else s1.bootAction f k

/-- The boot goes on from the step it has come to, to the step that the facts name. -/
def State.bootOn (s : State) (f : BootFacts) : State :=
  (List.range' 2 7).foldl (fun t k => if s.mgmt.bootStep.toNat < k && k ≤ f.upTo then t.bootOne f k else t) s

/-- A bank's image has been verified and runs. -/
def State.running (s : State) : State := { s with mgmt := { s.mgmt with fwver := imageVersion (s.image s.mgmt.bank) } }

/-- POWER_ON_BOOT: the bank tried first boots if it verifies, else the other; with none, BOOTFAIL.  Or the boot goes on, from the step
that it has come to.  FWUPDATE is logged as an update becomes active. -/
def execPowerOnBoot (facts : BootFacts) (s : State) : Out :=
  let b := s.firstBank
  let noted := fun (t : State) => if s.mgmt.updated then t.logEvent t.unitSrc .fwupdate [t.mgmt.fwver] else t
  let on : BootFacts := { facts with upTo := max 2 facts.upTo }
  if facts.goesOn then .next (if 2 ≤ s.mgmt.bootStep.toNat then s.bootOn facts else s)
  else if s.bankRuns b then .next ((noted (s.restarted b).running).bootOn on)
  else if s.bankRuns !b then .next ((s.restarted !b).running.bootOn on)
  else .next ((s.restarted b).logEvent (s.restarted b).unitSrc .bootfail [1])

/-! ## The compute dies without power or in reset (R433, R439) -/

/-- The side-band port, with the exchange that agrees its key (R435), and boot: all that acts while no image runs (R439). -/
def ofPort : Instr → Bool
  | .powerOnBoot _ | .sidebandDatagram _ _ _ | .attestationRequest _ => true
  | _ => false

/-- Events in which the management die acts by itself: boot, the side-band port, its registers and its evaluations. -/
def ofManagement : Instr → Bool
  | .powerOnBoot _ | .sidebandDatagram _ _ _ | .attestationRequest _ | .mgmtRegisterWrite _ _ | .elogack _
  | .pcsizeWrite _ | .tinv _ | .pkghlt _ | .dctlHreq _ _ | .dctlResume _ _ | .dctlStep _ _ | .ddata _ _
  | .stctlEn _ _ | .stctlQuiesce _ _ | .stctlUp _ | .keyctlLdtx _ | .keyctlLdrx _ | .powerEvaluation _
  | .thermalTrip _ | .gtclost | .gtcSyncReturn => true
  | _ => false

/-- Firmware of a verified bank runs on the management die (R439). -/
def State.booted (s : State) : Bool := 2 ≤ s.mgmt.bootStep.toNat

/-- The compute dies have left reset, at boot step 4 (R439). -/
def State.outOfReset (s : State) : Bool := 4 ≤ s.mgmt.bootStep.toNat && !(s.mgmt.bootStep == 4 && s.mgmt.bootFail)

end Sys2Proof.Machine
end

