-- ==== Sys2Proof/Machine/Dispatch.lean ====
section
/-! DEFINITION. The meaning of every instruction: one arm per constructor of Instr. -/

namespace Sys2Proof.Machine

def exec (i : Instr) (s : State) : Host.Outcome State Fault Refusal :=
  match i with
  | .add d a b => Sys2Proof.Machine.execAdd d a b s
  | .sub d a b => Sys2Proof.Machine.execSub d a b s
  | .mul d a b => Sys2Proof.Machine.execMul d a b s
  | .mulh d a b => Sys2Proof.Machine.execMulh d a b s
  | .mulhu d a b => Sys2Proof.Machine.execMulhu d a b s
  | .div d a b => Sys2Proof.Machine.execDiv d a b s
  | .divu d a b => Sys2Proof.Machine.execDivu d a b s
  | .rem d a b => Sys2Proof.Machine.execRem d a b s
  | .remu d a b => Sys2Proof.Machine.execRemu d a b s
  | .and d a b => Sys2Proof.Machine.execAnd d a b s
  | .or d a b => Sys2Proof.Machine.execOr d a b s
  | .xor d a b => Sys2Proof.Machine.execXor d a b s
  | .andn d a b => Sys2Proof.Machine.execAndn d a b s
  | .shl d a b => Sys2Proof.Machine.execShl d a b s
  | .shr d a b => Sys2Proof.Machine.execShr d a b s
  | .sra d a b => Sys2Proof.Machine.execSra d a b s
  | .rol d a b => Sys2Proof.Machine.execRol d a b s
  | .min d a b => Sys2Proof.Machine.execMin d a b s
  | .max d a b => Sys2Proof.Machine.execMax d a b s
  | .minu d a b => Sys2Proof.Machine.execMinu d a b s
  | .maxu d a b => Sys2Proof.Machine.execMaxu d a b s
  | .clz d a => Sys2Proof.Machine.execClz d a s
  | .ctz d a => Sys2Proof.Machine.execCtz d a s
  | .popc d a => Sys2Proof.Machine.execPopc d a s
  | .ceq d a b => Sys2Proof.Machine.execCeq d a b s
  | .cne d a b => Sys2Proof.Machine.execCne d a b s
  | .clt d a b => Sys2Proof.Machine.execClt d a b s
  | .cle d a b => Sys2Proof.Machine.execCle d a b s
  | .cltu d a b => Sys2Proof.Machine.execCltu d a b s
  | .cleu d a b => Sys2Proof.Machine.execCleu d a b s
  | .sel d c a b => Sys2Proof.Machine.execSel d c a b s
  | .fadd d a b => Sys2Proof.Machine.execFadd d a b s
  | .fsub d a b => Sys2Proof.Machine.execFsub d a b s
  | .fmul d a b => Sys2Proof.Machine.execFmul d a b s
  | .fdiv d a b => Sys2Proof.Machine.execFdiv d a b s
  | .fsqrt d a => Sys2Proof.Machine.execFsqrt d a s
  | .fmin d a b => Sys2Proof.Machine.execFmin d a b s
  | .fmax d a b => Sys2Proof.Machine.execFmax d a b s
  | .ffma d a b c => Sys2Proof.Machine.execFfma d a b c s
  | .fcmp k d a b => Sys2Proof.Machine.execFcmp k d a b s
  | .fcvt t u d a => Sys2Proof.Machine.execFcvt t u d a s
  | .addi d a j => Sys2Proof.Machine.execAddi d a j s
  | .andi d a j => Sys2Proof.Machine.execAndi d a j s
  | .ori d a j => Sys2Proof.Machine.execOri d a j s
  | .xori d a j => Sys2Proof.Machine.execXori d a j s
  | .shli d a n => Sys2Proof.Machine.execShli d a n s
  | .shri d a n => Sys2Proof.Machine.execShri d a n s
  | .srai d a n => Sys2Proof.Machine.execSrai d a n s
  | .li d imm => Sys2Proof.Machine.execLi d imm s
  | .liw d imm => Sys2Proof.Machine.execLiw d imm s
  | .br o => Sys2Proof.Machine.execBr o s
  | .call o => Sys2Proof.Machine.execCall o s
  | .ret => Sys2Proof.Machine.execRet s
  | .jmpr d a => Sys2Proof.Machine.execJmpr d a s
  | .bz a o => Sys2Proof.Machine.execBz a o s
  | .bnz a o => Sys2Proof.Machine.execBnz a o s
  | .beq a b o => Sys2Proof.Machine.execBeq a b o s
  | .bne a b o => Sys2Proof.Machine.execBne a b o s
  | .blt a b o => Sys2Proof.Machine.execBlt a b o s
  | .bge a b o => Sys2Proof.Machine.execBge a b o s
  | .loop a o => Sys2Proof.Machine.execLoop a o s
  | .hld h a o => Sys2Proof.Machine.execHld h a o s
  | .hst g a o => Sys2Proof.Machine.execHst g a o s
  | .hset f h a => Sys2Proof.Machine.execHset f h a s
  | .hget f g d => Sys2Proof.Machine.execHget f g d s
  | .hmov h g => Sys2Proof.Machine.execHmov h g s
  | .hslice h g a k => Sys2Proof.Machine.execHslice h g a k s
  | .hobj h n => Sys2Proof.Machine.execHobj h n s
  | .hadv h a k => Sys2Proof.Machine.execHadv h a k s
  | .grank d g => Sys2Proof.Machine.execGrank d g s
  | .gsize d g => Sys2Proof.Machine.execGsize d g s
  | .rega n => Sys2Proof.Machine.execRega n s
  | .ldb d a j => Sys2Proof.Machine.execLdb d a j s
  | .ldh d a j => Sys2Proof.Machine.execLdh d a j s
  | .ldw d a j => Sys2Proof.Machine.execLdw d a j s
  | .ldd d a j => Sys2Proof.Machine.execLdd d a j s
  | .stb v a j => Sys2Proof.Machine.execStb v a j s
  | .sth v a j => Sys2Proof.Machine.execSth v a j s
  | .stw v a j => Sys2Proof.Machine.execStw v a j s
  | .std v a j => Sys2Proof.Machine.execStd v a j s
  | .ldx u d a b => Sys2Proof.Machine.execLdx u d a b s
  | .stx u v a b => Sys2Proof.Machine.execStx u v a b s
  | .aadd w o u d a b => Sys2Proof.Machine.execAadd w o u d a b s
  | .amin w o u d a b => Sys2Proof.Machine.execAmin w o u d a b s
  | .amax w o u d a b => Sys2Proof.Machine.execAmax w o u d a b s
  | .aand w o u d a b => Sys2Proof.Machine.execAand w o u d a b s
  | .aor w o u d a b => Sys2Proof.Machine.execAor w o u d a b s
  | .axor w o u d a b => Sys2Proof.Machine.execAxor w o u d a b s
  | .aswap w o u d a b => Sys2Proof.Machine.execAswap w o u d a b s
  | .acas w o u d a b => Sys2Proof.Machine.execAcas w o u d a b s
  | .fence k u => Sys2Proof.Machine.execFence k u s
  | .lda u z d a => Sys2Proof.Machine.execLda u z d a s
  | .stl u z a v => Sys2Proof.Machine.execStl u z a v s
  | .flushd inv a b => Sys2Proof.Machine.execFlushd inv a b s
  | .llease a => Sys2Proof.Machine.execLlease a s
  | .llrel a => Sys2Proof.Machine.execLlrel a s
  | .place h m => Sys2Proof.Machine.execPlace h m s
  | .seal h m => Sys2Proof.Machine.execSeal h m s
  | .objq g d q => Sys2Proof.Machine.execObjq g d q s
  | .modesw hw a b => Sys2Proof.Machine.execModesw hw a b s
  | .cbld g a c => Sys2Proof.Machine.execCbld g a c s
  | .pst u h g j v => Sys2Proof.Machine.execPst u h g j v s
  | .pld u g d j => Sys2Proof.Machine.execPld u g d j s
  | .patom p z g d v => Sys2Proof.Machine.execPatom p z g d v s
  | .lsacq g d => Sys2Proof.Machine.execLsacq g d s
  | .lsrel g => Sys2Proof.Machine.execLsrel g s
  | .binit b n => Sys2Proof.Machine.execBinit b n s
  | .barr b a => Sys2Proof.Machine.execBarr b a s
  | .bexp b a => Sys2Proof.Machine.execBexp b a s
  | .bwait b p => Sys2Proof.Machine.execBwait b p s
  | .btest d b => Sys2Proof.Machine.execBtest d b s
  | .gbar g => Sys2Proof.Machine.execGbar g s
  | .tkpop f => Sys2Proof.Machine.execTkpop f s
  | .tkpush f => Sys2Proof.Machine.execTkpush f s
  | .emit q ws => Sys2Proof.Machine.execEmit q ws s
  | .emitr q a c => Sys2Proof.Machine.execEmitr q a c s
  | .qwait q n => Sys2Proof.Machine.execQwait q n s
  | .qstat q d => Sys2Proof.Machine.execQstat q d s
  | .tmpld e t a => Sys2Proof.Machine.execTmpld e t a s
  | .tmpsw e => Sys2Proof.Machine.execTmpsw e s
  | .tmprd e t d a => Sys2Proof.Machine.execTmprd e t d a s
  | .pleat a b w => Sys2Proof.Machine.execPleat a b w s
  | .pcarry a k => Sys2Proof.Machine.execPcarry a k s
  | .pgret => Sys2Proof.Machine.execPgret s
  | .pcmp a k => Sys2Proof.Machine.execPcmp a k s
  | .plend o => Sys2Proof.Machine.execPlend o s
  | .launch a credit b => Sys2Proof.Machine.execLaunch a credit b s
  | .trap c => Sys2Proof.Machine.execTrap c s
  | .rtt => Sys2Proof.Machine.execRtt s
  | .safept n => Sys2Proof.Machine.execSafept n s
  | .exit u => Sys2Proof.Machine.execExit u s
  | .mfc d w => Sys2Proof.Machine.execMfc d w s
  | .mtc a w => Sys2Proof.Machine.execMtc a w s
  | .rdgtc d => Sys2Proof.Machine.execRdgtc d s
  | .nop => Sys2Proof.Machine.execNop s
  | .brk c => Sys2Proof.Machine.execBrk c s
  | .bankroleChange who => Sys2Proof.Machine.execBankroleChange who s
  | .waitCompletion who => Sys2Proof.Machine.execWaitCompletion who s
  | .dirtyLineWriteback core => Sys2Proof.Machine.execDirtyLineWriteback core s
  | .vectorCommand who => Sys2Proof.Machine.execVectorCommand who s
  | .mma who => Sys2Proof.Machine.execMma who s
  | .mmat who => Sys2Proof.Machine.execMmat who s
  | .mmab who => Sys2Proof.Machine.execMmab who s
  | .mzero who => Sys2Proof.Machine.execMzero who s
  | .mldc who => Sys2Proof.Machine.execMldc who s
  | .mstc who => Sys2Proof.Machine.execMstc who s
  | .mstcq who => Sys2Proof.Machine.execMstcq who s
  | .mbias who => Sys2Proof.Machine.execMbias who s
  | .mswz who => Sys2Proof.Machine.execMswz who s
  | .mgath who => Sys2Proof.Machine.execMgath who s
  | .msync who => Sys2Proof.Machine.execMsync who s
  | .mnop who => Sys2Proof.Machine.execMnop who s
  | .multicastFetchServe core => Sys2Proof.Machine.execMulticastFetchServe core s
  | .multicastJoinTimeout core => Sys2Proof.Machine.execMulticastJoinTimeout core s
  | .cpy who q => Sys2Proof.Machine.execCpy who q s
  | .cpym who q => Sys2Proof.Machine.execCpym who q s
  | .cget who q => Sys2Proof.Machine.execCget who q s
  | .cwr who q => Sys2Proof.Machine.execCwr who q s
  | .cfill who q => Sys2Proof.Machine.execCfill who q s
  | .cgath who q => Sys2Proof.Machine.execCgath who q s
  | .cscat who q => Sys2Proof.Machine.execCscat who q s
  | .cpref who q => Sys2Proof.Machine.execCpref who q s
  | .cred who q => Sys2Proof.Machine.execCred who q s
  | .credJoinComplete team g => Sys2Proof.Machine.execCredJoinComplete team g s
  | .cflag who q => Sys2Proof.Machine.execCflag who q s
  | .catom who q => Sys2Proof.Machine.execCatom who q s
  | .csum who q => Sys2Proof.Machine.execCsum who q s
  | .csync who q => Sys2Proof.Machine.execCsync who q s
  | .copyRowLanding who q answer => Sys2Proof.Machine.execCopyRowLanding who q answer s
  | .nsend who => Sys2Proof.Machine.execNsend who s
  | .nrecv who => Sys2Proof.Machine.execNrecv who s
  | .nwrite who => Sys2Proof.Machine.execNwrite who s
  | .ncnt who => Sys2Proof.Machine.execNcnt who s
  | .xconv who => Sys2Proof.Machine.execXconv who s
  | .xrslot who => Sys2Proof.Machine.execXrslot who s
  | .xrcont who => Sys2Proof.Machine.execXrcont who s
  | .engineCommandCompletion who q => Sys2Proof.Machine.execEngineCommandCompletion who q s
  | .pleatWindowStart team => Sys2Proof.Machine.execPleatWindowStart team s
  | .pleatWindowCommit team => Sys2Proof.Machine.execPleatWindowCommit team s
  | .launchRingRecord slot => Sys2Proof.Machine.execLaunchRingRecord slot s
  | .launchReady launch => Sys2Proof.Machine.execLaunchReady launch s
  | .teamPlacement => Sys2Proof.Machine.execTeamPlacement s
  | .quantumExpiry team => Sys2Proof.Machine.execQuantumExpiry team s
  | .safetoBudgetExpiry who => Sys2Proof.Machine.execSafetoBudgetExpiry who s
  | .preemptEndMember who => Sys2Proof.Machine.execPreemptEndMember who s
  | .swapQuiesce team => Sys2Proof.Machine.execSwapQuiesce team s
  | .seamRecordWrite team => Sys2Proof.Machine.execSeamRecordWrite team s
  | .swapAbandon team => Sys2Proof.Machine.execSwapAbandon team s
  | .launchCompletion launch => Sys2Proof.Machine.execLaunchCompletion launch s
  | .completionEntryWrite slot => Sys2Proof.Machine.execCompletionEntryWrite slot s
  | .hangDetection who => Sys2Proof.Machine.execHangDetection who s
  | .lineLeaseGrant who => Sys2Proof.Machine.execLineLeaseGrant who s
  | .lineLeaseExpiry who => Sys2Proof.Machine.execLineLeaseExpiry who s
  | .poolLeaseLapse poolid => Sys2Proof.Machine.execPoolLeaseLapse poolid s
  | .replayRetry req => Sys2Proof.Machine.execReplayRetry req s
  | .remoteAnswer req answer => Sys2Proof.Machine.execRemoteAnswer req answer s
  | .poolCacheFill poolid page answer => Sys2Proof.Machine.execPoolCacheFill poolid page answer s
  | .prefetchPageAnswer poolid page answer => Sys2Proof.Machine.execPrefetchPageAnswer poolid page answer s
  | .remoteWriteRequest m => Sys2Proof.Machine.execRemoteWriteRequest m s
  | .remoteReadRequest m => Sys2Proof.Machine.execRemoteReadRequest m s
  | .remoteAtomicRequest m => Sys2Proof.Machine.execRemoteAtomicRequest m s
  | .leaseRequest src base term => Sys2Proof.Machine.execLeaseRequest src base term s
  | .leaseRelease src base => Sys2Proof.Machine.execLeaseRelease src base s
  | .relayRequest dst page count => Sys2Proof.Machine.execRelayRequest dst page count s
  | .convSealMessage m member target => Sys2Proof.Machine.execConvSealMessage m member target s
  | .convStartMessage m target method => Sys2Proof.Machine.execConvStartMessage m target method s
  | .convChunkWrite m first data => Sys2Proof.Machine.execConvChunkWrite m first data s
  | .convDoneMessage m nan => Sys2Proof.Machine.execConvDoneMessage m nan s
  | .convAbortMessage m missing => Sys2Proof.Machine.execConvAbortMessage m missing s
  | .convNodomain m member ours => Sys2Proof.Machine.execConvNodomain m member ours s
  | .convChunkTimeout key missing => Sys2Proof.Machine.execConvChunkTimeout key missing s
  | .slotGrant req name => Sys2Proof.Machine.execSlotGrant req name s
  | .slotResult req data nan => Sys2Proof.Machine.execSlotResult req data nan s
  | .slotTimeout req missing => Sys2Proof.Machine.execSlotTimeout req missing s
  | .slotExpired req => Sys2Proof.Machine.execSlotExpired req s
  | .slotUnknown req => Sys2Proof.Machine.execSlotUnknown req s
  | .identityFlit u id => Sys2Proof.Machine.execIdentityFlit u id s
  | .trainTestTimeout u => Sys2Proof.Machine.execTrainTestTimeout u s
  | .linkRetrain u => Sys2Proof.Machine.execLinkRetrain u s
  | .ringHandover u => Sys2Proof.Machine.execRingHandover u s
  | .ringLockTimeout u => Sys2Proof.Machine.execRingLockTimeout u s
  | .authfail u => Sys2Proof.Machine.execAuthfail u s
  | .keyExhaustion u => Sys2Proof.Machine.execKeyExhaustion u s
  | .keywaitExpiry u => Sys2Proof.Machine.execKeywaitExpiry u s
  | .qdone u => Sys2Proof.Machine.execQdone u s
  | .quiesceTimeout u => Sys2Proof.Machine.execQuiesceTimeout u s
  | .stctlEn u on => Sys2Proof.Machine.execStctlEn u on s
  | .stctlQuiesce u on => Sys2Proof.Machine.execStctlQuiesce u on s
  | .stctlUp u => Sys2Proof.Machine.execStctlUp u s
  | .keyctlLdtx u => Sys2Proof.Machine.execKeyctlLdtx u s
  | .keyctlLdrx u => Sys2Proof.Machine.execKeyctlLdrx u s
  | .launchEndpointWrite slot p data => Sys2Proof.Machine.execLaunchEndpointWrite slot p data s
  | .taggedMessageArrival ep packet => Sys2Proof.Machine.execTaggedMessageArrival ep packet s
  | .nwriteArrival ep key raddr p => Sys2Proof.Machine.execNwriteArrival ep key raddr p s
  | .ethernetAck cmd packets refused => Sys2Proof.Machine.execEthernetAck cmd packets refused s
  | .retransmitTimeout cmd packet => Sys2Proof.Machine.execRetransmitTimeout cmd packet s
  | .tinv v => Sys2Proof.Machine.execTinv v s
  | .tlbInvalidationComplete => Sys2Proof.Machine.execTlbInvalidationComplete s
  | .dctlHreq core mask => Sys2Proof.Machine.execDctlHreq core mask s
  | .dctlResume core mask => Sys2Proof.Machine.execDctlResume core mask s
  | .dctlStep core mask => Sys2Proof.Machine.execDctlStep core mask s
  | .ddata core write => Sys2Proof.Machine.execDdata core write s
  | .pkghlt on => Sys2Proof.Machine.execPkghlt on s
  | .pcsizeWrite v => Sys2Proof.Machine.execPcsizeWrite v s
  | .elogack v => Sys2Proof.Machine.execElogack v s
  | .mgmtRegisterWrite off v => Sys2Proof.Machine.execMgmtRegisterWrite off v s
  | .sidebandDatagram seq accesses tag => Sys2Proof.Machine.execSidebandDatagram seq accesses tag s
  | .attestationRequest nonce => Sys2Proof.Machine.execAttestationRequest nonce s
  | .powerEvaluation r => Sys2Proof.Machine.execPowerEvaluation r s
  | .currentSurge current => Sys2Proof.Machine.execCurrentSurge current s
  | .thermalTrip eighths => Sys2Proof.Machine.execThermalTrip eighths s
  | .gtclost => Sys2Proof.Machine.execGtclost s
  | .corrected device count => Sys2Proof.Machine.execCorrected device count s
  | .patrolScrub granule bad => Sys2Proof.Machine.execPatrolScrub granule bad s
  | .powerOnBoot facts => Sys2Proof.Machine.execPowerOnBoot facts s
  | .trainTestRunPass u => Sys2Proof.Machine.execTrainTestRunPass u s
  | .keylow u => Sys2Proof.Machine.execKeylow u s
  | .gtcSyncReturn => Sys2Proof.Machine.execGtcSyncReturn s
  | .ethernetLinkState up => Sys2Proof.Machine.execEthernetLinkState up s

end Sys2Proof.Machine
end

