-- ==== Sys2Proof/Machine/Place.lean ====
section
/-! DEFINITION. Placing an instruction's bytes where the next step fetches them: what firmware and the command
processor would have done before a first instruction issues (log 13). -/

namespace Sys2Proof.Machine

/-- Device virtual address at which `placed` puts an instruction. -/
def placeVa : Nat := 0x0001000000200000

/-- An 8-byte table entry. -/
def putEntry (m : List Host.Cell) (a v : Nat) : List Host.Cell := cellsWrite m a (leBytes 8 v)

/-- A four-level table at 0x10000 that maps the page of `placeVa` to frame 0x200000 with every right (R386, R387). -/
def placedTable (m : List Host.Cell) : List Host.Cell :=
  let m1 := putEntry m (0x10000 + 8 * (placeVa / 2 ^ 39 % 2 ^ 13)) 0x20001
  let m2 := putEntry m1 (0x20000 + 8 * (placeVa / 2 ^ 30 % 2 ^ 9)) 0x21001
  putEntry m2 (0x21000 + 8 * (placeVa / 2 ^ 21 % 2 ^ 9)) 0x20001F

/-- The core and context of the next step run the instruction in these bytes: the context is ACTIVE with all its
registers, its slot translates, and the bytes stand at its PC. -/
def State.placed (s : State) (bs : List Byte) : State :=
  let w := s.who
  let s1 := { s with
    mem := cellsWrite (placedTable s.mem) 0x200000 bs, agenda := [], tlb := [], poison := [], worn := [],
    slots := s.slots.set (s.ctxOf w).slot { s.slots[(s.ctxOf w).slot] with troot := 0x10001 },
    mgmt := { s.mgmt with pkghlt := false, railsOn := true, bootStep := 8, bootFail := false } }
  s1.modCore w.core fun k => { k with
    icache := []
    dbg := { k.dbg with hreq := 0, dbpa := Vector.replicate 4 0, roles := [] }
    ctx := Vector.ofFn fun j : Fin 4 =>
    if j == w.ctx then
      { k.ctx[j] with run := .active, pc := BitVec.ofNat 64 placeVa, allot := 64, blocked := none, ahead := none,
                      pend := false, past := none, hangt := 0, step := .none }
    else { k.ctx[j] with run := .free } }

end Sys2Proof.Machine
end

