-- ==== Sys2Proof/Machine/Step.lean ====
section
/-! DEFINITION. One step of the package: an issue cycle of a core, or an event (log 1). -/

namespace Sys2Proof.Machine

/-- What an issue cycle has come to: an instruction that it has fetched is executed. -/
def Issue.go : Issue → Host.Outcome State Fault Refusal
  | .done s => .next s
  | .run i s =>
    match exec i s with
    | .next s1 => .next (s1.afterIssue s.who)
    | .fault f => .fault f
    | .refused r => .refused r

/-- One move of a turn whose time has passed. -/
def State.move (s : State) : Move → Host.Outcome State Fault Refusal
  | .issue c => (s.issue c).go
  | .event i => if (encode i).isEmpty then exec i s else .next s
  | .retry w => (s.issueAgain w).go
  | .ingress => .next s.serveNext
  | .decay g => .next { s with worn := if s.worn.contains g then s.worn else g :: s.worn }
  | .enable c => .next (s.modCore c fun k => { k with withdrawn := false })
  | .mapped p => .next { s.purgePages [p] with swPages := s.swPages.filter (· != p) }

/-- Whether a turn is one that the side-band port makes, or the ROM's boot. -/
def Move.ofPort : Move → Bool
  | .event i => Sys2Proof.Machine.ofPort i
  | .decay _ => false
  | .enable _ => false
  | .mapped _ => false
  | .issue _ => false
  | .retry _ => false
  | .ingress => false

/-- Whether a turn is one that the management die makes by itself. -/
def Move.ofManagement : Move → Bool
  | .event i => Sys2Proof.Machine.ofManagement i
  | .decay _ => true
  | .enable _ => true
  | .mapped _ => true
  | .issue _ => false
  | .retry _ => false
  | .ingress => false

/-- Whether a move can be made (R433, R439): the side-band port always acts; the management die when a verified image runs; the compute
dies when they have left reset, at boot step 4, and their rails are on. -/
def State.acts (s : State) (m : Move) : Bool :=
  m.ofPort || s.booted && (m.ofManagement || s.outOfReset && s.mgmt.railsOn)

/-- One step: the next turn's time passes, then its move is made, where it can be; else only the time passes. -/
def step (s : State) : Host.Outcome State Fault Refusal :=
  let now := s.tick s.turn.1 s.turn.2
  if s.acts s.turn.1.move then now.move s.turn.1.move else .next now

/-- `s` with an opcode-table instruction placed where the next step fetches it (log 13). -/
def State.withFetchWord (s : State) (nbits w : Nat) : State :=
  s.placed ((tableWords (w % 2 ^ nbits)).flatMap bytesOfWord)

end Sys2Proof.Machine
end

