-- ==== Sys2Proof/Safety.lean ====
section
/-! DEFINITION. What a safe state is, and what a safe run is (R4, R11, R14, R33). -/

namespace Sys2Proof.Machine

/-- Every memory keeps its canonical form. -/
def State.Safe (s : State) : Prop := Memory.wf s = true

/-- A run of `k` steps that reaches neither a fault nor a refusal. -/
def SafeRun (k : Nat) (s : State) : Prop := ∃ t, Sys2Proof.core.run k s = .next t

end Sys2Proof.Machine
end

