-- ==== Sys2Proof/Certificates/Slice0/Obligations.lean ====
section
/-! DEFINITION. The statements about the package, by family of the opcode table.  Each says what an instruction or an
event does and, by naming the next state, what it leaves unchanged. -/

namespace Sys2Proof.Claims

open Sys2Proof Sys2Proof.Machine

/-! ## What the statements are made of -/

/-- Every scalar register that an instruction names lies within the allotment (R15). -/
abbrev InBounds (s : State) (regs : List SReg) : Prop := ∀ r ∈ regs, r.toNat < s.me.allot.toNat

/-- The context runs neither a position of a Pleat window nor the guess routine (R209, R210). -/
abbrev Plain (s : State) (w : Who) : Prop :=
  (s.positionOf (s.ctxOf w)).isNone = true ∧ (s.guessingOf (s.ctxOf w)).isNone = true

/-- The instruction completes: exec answers a next state, of which `p` holds. -/
def Runs (i : Instr) (s : State) (p : State → Prop) : Prop := ∃ t, exec i s = .next t ∧ p t

/-- PC after `n` bytes (R11, R97). -/
def nextPc (pc : Word) (n : Nat) : Word := BitVec.ofNat 64 ((pc.toNat + n) % 2 ^ 52)

/-- A register-only instruction of `n` bytes: Sd takes `v`, unless d is 0, whose write is discarded (R14); the PC moves past
the instruction; every other register, every flag and control word, every handle, every other context and core, every
barrier, queue and launch, and every byte of memory is as before. -/
structure WritesScalar (s : State) (d : SReg) (v : Word) (n : Nat) (t : State) : Prop where
  result : t.me.rs d = if d = 0 then 0 else v
  others : ∀ r, r ≠ d → t.me.rs r = s.me.rs r
  pc : t.me.pc = nextPc s.me.pc n
  frame : t = s.setCtx s.who { s.me with s := t.me.s, pc := t.me.pc }
  memory : ∀ p, t.rawRead p 1 = s.rawRead p 1

/-- The same for a floating-point instruction, which besides ORs flags into FPS (R28, R144). -/
structure WritesFloat (s : State) (d : SReg) (v : Nat) (fl : Flags) (t : State) : Prop where
  result : t.me.rs d = if d = 0 then 0 else BitVec.ofNat 64 v
  others : ∀ r, r ≠ d → t.me.rs r = s.me.rs r
  flags : t.me.fps = s.me.fps ||| fl.setWidth 64
  pc : t.me.pc = nextPc s.me.pc 4
  frame : t = s.setCtx s.who { s.me with s := t.me.s, fps := t.me.fps, pc := t.me.pc }
  memory : ∀ p, t.rawRead p 1 = s.rawRead p 1

/-- A handle instruction: Hd takes `v`, and nothing else changes but the PC (R154). -/
structure WritesHandle (s : State) (h : HReg) (v : HandleWord) (n : Nat) (t : State) : Prop where
  result : t.me.rh h = v
  others : ∀ g, g ≠ h → t.me.rh g = s.me.rh g
  pc : t.me.pc = nextPc s.me.pc n
  frame : t = s.setCtx s.who { s.me with h := t.me.h, pc := t.me.pc }
  memory : ∀ p, t.rawRead p 1 = s.rawRead p 1

/-- A transfer of control: a link register or count takes `v`, and the PC is `pc` (R149 to R153). -/
structure Transfers (s : State) (d : SReg) (v : Word) (pc : Word) (t : State) : Prop where
  link : t.me.rs d = if d = 0 then 0 else v
  others : ∀ r, r ≠ d → t.me.rs r = s.me.rs r
  target : t.me.pc = pc
  frame : t = s.setCtx s.who { s.me with s := t.me.s, pc := pc }
  memory : ∀ p, t.rawRead p 1 = s.rawRead p 1

/-- Where a handler, a guess routine or a kernel starts: the PC keeps bits [51:2] of the address (R11; for one at or above 2^52 the choice of log 5). -/
def entryPc (h : Word) : Word := BitVec.ofNat 64 (h.toNat / 4 * 4 % 2 ^ 52)

/-- A precise trap of a context in user mode with a handler (R376, R377): the instruction has no effect; the cause, its
subcode, the instruction's address and the value are saved, and the handler starts in handler mode. -/
structure TrapsWith (s : State) (cause sub : Byte) (val : Word) (t : State) : Prop where
  cause : t.me.trapcause.extractLsb' 0 8 = cause ∧ t.me.trapcause.extractLsb' 8 8 = sub
  address : t.me.trappc = s.me.pc
  value : t.me.trapval = val
  entry : t.me.mode = .handler ∧ t.me.pc = entryPc s.me.traphnd
  frame : t = s.setCtx s.who { s.me with
    trapcause := t.me.trapcause, trappc := s.me.pc, trapval := val, mode := .handler, pc := entryPc s.me.traphnd,
    run := .active, blocked := none, progress := t.me.progress }
  memory : ∀ p, t.rawRead p 1 = s.rawRead p 1

/-- The issuing context takes traps precisely: user mode, a handler, ACTIVE, and no speculative position (R214, R377). -/
abbrev Trappable (s : State) : Prop :=
  Plain s s.who ∧ s.me.mode = .user ∧ s.me.traphnd ≠ 0 ∧ s.me.run = .active ∧ s.me.blocked = none

/-- A branch target that R149 accepts. -/
abbrev GoodTarget (v : Word) : Prop := v.toNat % 4 = 0 ∧ v.toNat < 2 ^ 52

/-- PC + 4 × off (R150, R152). -/
def offTarget {n : Nat} (pc : Word) (off : BitVec n) : Word := BitVec.ofInt 64 (pc.toNat + 4 * off.toInt)

end Sys2Proof.Claims

open Sys2Proof Sys2Proof.Machine Sys2Proof.Claims

/-! ## Integer, compare and select instructions -/

/-- R136: the results of the integer group, as exact arithmetic narrowed to 64 bits. -/
def Sys2Proof.Claims.IntegerOps : Prop :=
  ∀ (s : State) (d a b : SReg), InBounds s [d, a, b] →
    let A := (s.me.rs a).toNat
    let B := (s.me.rs b).toNat
    let x := (s.me.rs a).toInt
    let y := (s.me.rs b).toInt
    Runs (.add d a b) s (WritesScalar s d (BitVec.ofNat 64 (A + B)) 4) ∧
    Runs (.sub d a b) s (WritesScalar s d (BitVec.ofInt 64 (A - B)) 4) ∧
    Runs (.mul d a b) s (WritesScalar s d (BitVec.ofNat 64 (A * B)) 4) ∧
    Runs (.mulh d a b) s (WritesScalar s d (BitVec.ofInt 64 (x * y / 2 ^ 64)) 4) ∧
    Runs (.mulhu d a b) s (WritesScalar s d (BitVec.ofNat 64 (A * B / 2 ^ 64)) 4) ∧
    Runs (.and d a b) s (WritesScalar s d (BitVec.ofNat 64 (A &&& B)) 4) ∧
    Runs (.or d a b) s (WritesScalar s d (BitVec.ofNat 64 (A ||| B)) 4) ∧
    Runs (.xor d a b) s (WritesScalar s d (BitVec.ofNat 64 (A ^^^ B)) 4) ∧
    Runs (.andn d a b) s (WritesScalar s d (BitVec.ofNat 64 (A &&& (2 ^ 64 - 1 - B))) 4) ∧
    Runs (.shl d a b) s (WritesScalar s d (BitVec.ofNat 64 (A * 2 ^ (B % 64))) 4) ∧
    Runs (.shr d a b) s (WritesScalar s d (BitVec.ofNat 64 (A / 2 ^ (B % 64))) 4) ∧
    Runs (.sra d a b) s (WritesScalar s d (BitVec.ofInt 64 (x / 2 ^ (B % 64))) 4) ∧
    Runs (.rol d a b) s (WritesScalar s d (BitVec.ofNat 64 (A * 2 ^ (B % 64) % 2 ^ 64 + A / 2 ^ (64 - B % 64))) 4) ∧
    Runs (.min d a b) s (WritesScalar s d (BitVec.ofInt 64 (min x y)) 4) ∧
    Runs (.max d a b) s (WritesScalar s d (BitVec.ofInt 64 (max x y)) 4) ∧
    Runs (.minu d a b) s (WritesScalar s d (BitVec.ofNat 64 (min A B)) 4) ∧
    Runs (.maxu d a b) s (WritesScalar s d (BitVec.ofNat 64 (max A B)) 4)

/-- R136: the bit counts.  CLZ is 63 minus the place of the highest one bit, CTZ the largest power of two that divides, and
both are 64 for 0; POPC is the sum of the bits. -/
def Sys2Proof.Claims.BitCounts : Prop :=
  ∀ (s : State) (d a : SReg), InBounds s [d, a] →
    let A := (s.me.rs a).toNat
    Runs (.clz d a) s (WritesScalar s d (BitVec.ofNat 64 (if A = 0 then 64 else 63 - Nat.log2 A)) 4) ∧
    (∃ n, (A = 0 ∧ n = 64 ∨ n < 64 ∧ A % 2 ^ n = 0 ∧ A / 2 ^ n % 2 = 1) ∧
      Runs (.ctz d a) s (WritesScalar s d (BitVec.ofNat 64 n) 4)) ∧
    Runs (.popc d a) s (WritesScalar s d (BitVec.ofNat 64 ((List.range 64).map fun k => A / 2 ^ k % 2).sum) 4)

/-- R137: DIV and REM truncate toward zero, the remainder has the sign of a, and the last two rows of the table hold: division
by zero gives all ones and leaves a, and −2^63 over −1 gives −2^63 and 0 (which the narrowing of the exact quotient gives). -/
def Sys2Proof.Claims.DivisionResults : Prop :=
  ∀ (s : State) (d a b : SReg), InBounds s [d, a, b] →
    let A := (s.me.rs a).toNat
    let B := (s.me.rs b).toNat
    let x := (s.me.rs a).toInt
    let y := (s.me.rs b).toInt
    Runs (.div d a b) s (WritesScalar s d (if y = 0 then BitVec.ofInt 64 (-1) else BitVec.ofInt 64 (x.tdiv y)) 4) ∧
    Runs (.rem d a b) s (WritesScalar s d (BitVec.ofInt 64 (if y = 0 then x else x - x.tdiv y * y)) 4) ∧
    Runs (.divu d a b) s (WritesScalar s d (if B = 0 then BitVec.ofNat 64 (2 ^ 64 - 1) else BitVec.ofNat 64 (A / B)) 4) ∧
    Runs (.remu d a b) s (WritesScalar s d (BitVec.ofNat 64 (A % B)) 4)

/-- Integer results modulo 2^64, bit counts, and truncating division with its corners. -/
def Obligations.IntegerResults : Prop :=
  IntegerOps ∧ BitCounts ∧ DivisionResults

/-- R142: SEL.  Its word is 0x03 and the four numbers; it gives Sa when Sc is not zero and Sb when it is; and the first of its four
registers that lies beyond the allotment, from the highest field downward, traps with REGBOUND and its number. -/
def Obligations.SelectChooses : Prop :=
  ∀ d c a b : SReg,
    decodeTableWord 32 (0x03000000 + d.toNat * 2 ^ 18 + c.toNat * 2 ^ 12 + a.toNat * 2 ^ 6 + b.toNat) = some (.sel d c a b) ∧
    ∀ s : State,
      (InBounds s [d, c, a, b] →
        Runs (.sel d c a b) s (WritesScalar s d (if (s.me.rs c).toNat ≠ 0 then s.me.rs a else s.me.rs b) 4)) ∧
      (Trappable s → ∀ r, [d, c, a, b].find? (fun q => decide (s.me.allot.toNat ≤ q.toNat)) = some r →
        Runs (.sel d c a b) s (TrapsWith s Cause.regbound 0 (r.setWidth 64)))

/-- R141: comparisons give 1 or 0. -/
def Sys2Proof.Claims.CompareResults : Prop :=
  ∀ (s : State) (d a b : SReg), InBounds s [d, a, b] →
    let A := (s.me.rs a).toNat
    let B := (s.me.rs b).toNat
    let x := (s.me.rs a).toInt
    let y := (s.me.rs b).toInt
    Runs (.ceq d a b) s (WritesScalar s d (if A = B then 1 else 0) 4) ∧
    Runs (.cne d a b) s (WritesScalar s d (if A = B then 0 else 1) 4) ∧
    Runs (.clt d a b) s (WritesScalar s d (if x < y then 1 else 0) 4) ∧
    Runs (.cle d a b) s (WritesScalar s d (if x ≤ y then 1 else 0) 4) ∧
    Runs (.cltu d a b) s (WritesScalar s d (if A < B then 1 else 0) 4) ∧
    Runs (.cleu d a b) s (WritesScalar s d (if A ≤ B then 1 else 0) 4)

/-- R138 to R140: immediates are sign-extended, shift amounts are 0 to 63, and LI and LIW are eight bytes long. -/
def Sys2Proof.Claims.ImmediateResults : Prop :=
  ∀ (s : State) (d a : SReg) (j : BitVec 12) (n : BitVec 6) (imm : IWord), InBounds s [d, a] →
    let A := (s.me.rs a).toNat
    let J : Word := BitVec.ofInt 64 j.toInt
    Runs (.addi d a j) s (WritesScalar s d (BitVec.ofInt 64 (A + j.toInt)) 4) ∧
    Runs (.andi d a j) s (WritesScalar s d (BitVec.ofNat 64 (A &&& J.toNat)) 4) ∧
    Runs (.ori d a j) s (WritesScalar s d (BitVec.ofNat 64 (A ||| J.toNat)) 4) ∧
    Runs (.xori d a j) s (WritesScalar s d (BitVec.ofNat 64 (A ^^^ J.toNat)) 4) ∧
    Runs (.shli d a n) s (WritesScalar s d (BitVec.ofNat 64 (A * 2 ^ n.toNat)) 4) ∧
    Runs (.shri d a n) s (WritesScalar s d (BitVec.ofNat 64 (A / 2 ^ n.toNat)) 4) ∧
    Runs (.srai d a n) s (WritesScalar s d (BitVec.ofInt 64 ((s.me.rs a).toInt / 2 ^ n.toNat)) 4) ∧
    Runs (.li d imm) s (WritesScalar s d (BitVec.ofInt 64 imm.toInt) 8) ∧
    Runs (.liw d imm) s (WritesScalar s d (BitVec.ofNat 64 (imm.toNat * 2 ^ 32 + (s.me.rs d).toNat % 2 ^ 32)) 8)

/-- Comparisons give 1 or 0; immediates are sign-extended; LI and LIW are eight bytes long. -/
def Obligations.CompareAndImmediate : Prop :=
  CompareResults ∧ ImmediateResults

/-! ## Floating point -/

/-- An FP32 code that is a NaN (R54, R55). -/
abbrev Sys2Proof.Claims.isNan32 (c : Nat) : Prop := c / 2 ^ 23 % 256 = 255 ∧ c % 2 ^ 23 ≠ 0

/-- R143 to R148: each instruction takes its operands from the low bits, writes what the FP32 operation or the conversion gives under
the current FPC, and ORs the flags of that operation into FPS; it never traps on a value. -/
def Sys2Proof.Claims.FloatOps : Prop :=
  ∀ (s : State) (d a b c : SReg) (k : FCond), InBounds s [d, a, b, c] →
    let e := Env.of (BitVec.ofNat 16 s.me.fpc.toNat)
    let A := (s.me.rs a).toNat % 2 ^ 32
    let B := (s.me.rs b).toNat % 2 ^ 32
    let C := (s.me.rs c).toNat % 2 ^ 32
    Runs (.fadd d a b) s (WritesFloat s d (f32Add e A B).1 (f32Add e A B).2) ∧
    Runs (.fsub d a b) s (WritesFloat s d (f32Sub e A B).1 (f32Sub e A B).2) ∧
    Runs (.fmul d a b) s (WritesFloat s d (f32Mul e A B).1 (f32Mul e A B).2) ∧
    Runs (.fdiv d a b) s (WritesFloat s d (f32Div e A B).1 (f32Div e A B).2) ∧
    Runs (.fsqrt d a) s (WritesFloat s d (f32Sqrt e A).1 (f32Sqrt e A).2) ∧
    Runs (.fmin d a b) s (WritesFloat s d (f32Min e A B).1 (f32Min e A B).2) ∧
    Runs (.fmax d a b) s (WritesFloat s d (f32Max e A B).1 (f32Max e A B).2) ∧
    Runs (.ffma d a b c) s (WritesFloat s d (f32Fma e A B C).1 (f32Fma e A B C).2) ∧
    Runs (.fcmp k d a b) s (WritesFloat s d (if (f32Cmp e k A B).1 then 1 else 0) (f32Cmp e k A B).2) ∧
    ∀ t u : CvtType, (Instr.fcvt t u d a).wellFormed = true →
      Runs (.fcvt t u d a) s (WritesFloat s d (cvtWrite e t (cvtRead e u (s.me.rs a))).1
        (cvtWrite e t (cvtRead e u (s.me.rs a))).2)

/-- R67: an FP32 result that is a NaN is the canonical NaN, with sign 0, whatever the operands and the rounding mode. -/
def Sys2Proof.Claims.FloatNanCanonical : Prop :=
  ∀ (e : Env) (a b c : Nat), a < 2 ^ 32 → b < 2 ^ 32 → c < 2 ^ 32 →
    ∀ r ∈ [f32Add e a b, f32Sub e a b, f32Mul e a b, f32Div e a b, f32Min e a b, f32Max e a b, f32Sqrt e a, f32Fma e a b c],
      isNan32 r.1 → r.1 = 0x7FC00000

/-- Scalar floating point writes Sd and ORs flags into FPS; NaN results are canonical. -/
def Obligations.FloatResults : Prop :=
  FloatOps ∧ FloatNanCanonical

/-! ## Control transfer -/

/-- R149 to R152: BR, CALL, RET, JMPR and the conditional branches go to their targets when these are acceptable; CALL and
JMPR leave PC + 4 in the link register; JMPR reads its target before it writes the link. -/
def Sys2Proof.Claims.TargetsTaken : Prop :=
  ∀ (s : State) (d a b : SReg) (o : BitVec 24) (v : BitVec 12), InBounds s [d, a, b] →
    let pc := s.me.pc
    (GoodTarget (offTarget pc o) → Runs (.br o) s (Transfers s 0 0 (offTarget pc o))) ∧
    (InBounds s [15] → GoodTarget (offTarget pc o) → Runs (.call o) s (Transfers s 15 (pc + 4) (offTarget pc o))) ∧
    (InBounds s [15] → GoodTarget (s.me.rs 15) → Runs .ret s (Transfers s 0 0 (s.me.rs 15))) ∧
    (GoodTarget (s.me.rs a) → Runs (.jmpr d a) s (Transfers s d (pc + 4) (s.me.rs a))) ∧
    (let goes := fun (i : Instr) (c : Prop) [Decidable c] => (c → GoodTarget (offTarget pc v)) →
      Runs i s (Transfers s 0 0 (if c then offTarget pc v else nextPc pc 4))
     goes (.bz a v) ((s.me.rs a).toNat = 0) ∧ goes (.bnz a v) ((s.me.rs a).toNat ≠ 0) ∧
     goes (.beq a b v) (s.me.rs a = s.me.rs b) ∧ goes (.bne a b v) (s.me.rs a ≠ s.me.rs b) ∧
     goes (.blt a b v) ((s.me.rs a).toInt < (s.me.rs b).toInt) ∧ goes (.bge a b v) ((s.me.rs b).toInt ≤ (s.me.rs a).toInt))

/-- R153: LOOP takes one from its count, modulo 2^64, and branches while the result is not zero; LOOP S0 always branches. -/
def Sys2Proof.Claims.LoopCounts : Prop :=
  ∀ (s : State) (a : SReg) (v : BitVec 12), InBounds s [a] →
    let n : Word := BitVec.ofInt 64 ((s.me.rs a).toNat - 1)
    (n.toNat ≠ 0 → GoodTarget (offTarget s.me.pc v)) →
    Runs (.loop a v) s (Transfers s a n (if n.toNat = 0 then nextPc s.me.pc 4 else offTarget s.me.pc v))

/-- R149: a transfer to a target with nonzero low bits traps with ALIGN, one to a target at or above 2^52 with XLAT, and
the instruction has no other effect: no link is written. -/
def Sys2Proof.Claims.BadTargetsTrap : Prop :=
  ∀ (s : State) (d a : SReg) (o : BitVec 24), InBounds s [d, a] → Trappable s →
    ∀ v : Word, ¬ GoodTarget v →
      let c := if v.toNat % 4 ≠ 0 then Cause.align else Cause.xlat
      (v = s.me.rs a → Runs (.jmpr d a) s (TrapsWith s c 0 v)) ∧
      (v = s.me.rs 15 → InBounds s [15] → Runs .ret s (TrapsWith s c 0 v)) ∧
      (v = offTarget s.me.pc o → Runs (.br o) s (TrapsWith s c 0 v)) ∧
      (v = offTarget s.me.pc o → InBounds s [15] → Runs (.call o) s (TrapsWith s c 0 v))

/-- R149, R152, R153: so does a conditional branch or LOOP that is taken to such a target, and LOOP does not count. -/
def Sys2Proof.Claims.BadBranchesTrap : Prop :=
  ∀ (s : State) (a b : SReg) (v : BitVec 12), InBounds s [a, b] → Trappable s →
    let g := offTarget s.me.pc v
    ¬ GoodTarget g →
    let traps := fun (i : Instr) => Runs i s (TrapsWith s (if g.toNat % 4 ≠ 0 then Cause.align else Cause.xlat) 0 g)
    ((s.me.rs a).toNat = 0 → traps (.bz a v)) ∧ ((s.me.rs a).toNat ≠ 0 → traps (.bnz a v)) ∧
    (s.me.rs a = s.me.rs b → traps (.beq a b v)) ∧ (s.me.rs a ≠ s.me.rs b → traps (.bne a b v)) ∧
    ((s.me.rs a).toInt < (s.me.rs b).toInt → traps (.blt a b v)) ∧ ((s.me.rs b).toInt ≤ (s.me.rs a).toInt → traps (.bge a b v)) ∧
    ((s.me.rs a).toNat ≠ 1 → traps (.loop a v))

/-- Branches, calls, returns and LOOP reach their targets; bad targets trap without a link. -/
def Obligations.ControlTransfers : Prop :=
  TargetsTaken ∧ LoopCounts ∧ BadTargetsTrap ∧ BadBranchesTrap

/-! ## Handles, groups and the allotment -/

/-- R158: HMOV.  Its word is 0x20 and the two numbers, with the low fourteen bits zero; it copies the handle unchanged, valid or
not, and HMOV of a handle to itself changes nothing but the PC. -/
def Obligations.HandleMoves : Prop :=
  ∀ (h g : HReg),
    (∀ low, low < 2 ^ 14 → decodeTableWord 32 (0x20000000 + h.toNat * 2 ^ 19 + g.toNat * 2 ^ 14 + low) =
      if low = 0 then some (.hmov h g) else none) ∧
    ∀ s : State,
      Runs (.hmov h g) s (WritesHandle s h (s.me.rh g) 4) ∧
      Runs (.hmov h h) s fun t => t = s.setCtx s.who { s.me with pc := nextPc s.me.pc 4 }

/-- R156 to R161: building and moving views.  HSET takes a value in the field's range; HSLICE and HADV take a step that keeps OFF
inside 48 bits, computed with exact integers; HOBJ gives the entry's default view. -/
def Sys2Proof.Claims.HandleBuilds : Prop :=
  ∀ (s : State) (h g : HReg) (a d : SReg) (k : BitVec 2) (f : HField) (n : BitVec 14), InBounds s [d, a] →
    let v := s.me.rs a
    let x := s.me.rh g
    let y := s.me.rh h
    (∀ r : HandleWord, hsetOk f v = true →
      (∀ j, j < 256 → r.getLsbD j = if f.pos.1 ≤ j ∧ j < f.pos.1 + f.pos.2 then v.getLsbD (j - f.pos.1) else y.getLsbD j) →
      Runs (.hset f h a) s (WritesHandle s h r 4)) ∧
    Runs (.hget f g d) s (WritesScalar s d
      (if f.signed then BitVec.ofInt 64 (x.extractLsb' f.pos.1 24).toInt
        else BitVec.ofNat 64 ((x &&& ~~~(BitVec.twoPow 256 93)).toNat / 2 ^ f.pos.1 % 2 ^ f.pos.2)) 4) ∧
    (let o := (hOff x : Int) + (v.toNat % 2 ^ 16 : Nat) * hStr x k.toNat
     hVal x = true → v.toNat < 2 ^ 32 → v.toNat % 2 ^ 16 + v.toNat / 2 ^ 16 ≤ hDim x k.toNat → 0 ≤ o → o < 2 ^ 48 →
      Runs (.hslice h g a k) s fun t =>
        WritesHandle s h (t.me.rh h) 4 t ∧ (hOff (t.me.rh h) : Int) = o ∧ hDim (t.me.rh h) k.toNat = v.toNat / 2 ^ 16 ∧
        ∀ j, j < 256 → ¬ (32 ≤ j ∧ j < 80) → ¬ (96 + 16 * k.toNat ≤ j ∧ j < 112 + 16 * k.toNat) →
          (t.me.rh h).getLsbD j = x.getLsbD j) ∧
    (let o := (hOff y : Int) + v.toInt * hStr y k.toNat
     hVal y = true → 0 ≤ o → o < 2 ^ 48 →
      Runs (.hadv h a k) s fun t =>
        WritesHandle s h (t.me.rh h) 4 t ∧ (hOff (t.me.rh h) : Int) = o ∧
        ∀ j, j < 256 → ¬ (32 ≤ j ∧ j < 80) → (t.me.rh h).getLsbD j = y.getLsbD j) ∧
    (∀ o, s.objOf s.me n.toNat = some o →
      Runs (.hobj h n) s fun t =>
        WritesHandle s h (t.me.rh h) 4 t ∧ hObj (t.me.rh h) = n.toNat ∧ hView (t.me.rh h) = 0xFFFF ∧ hOff (t.me.rh h) = 0 ∧
        hFmt (t.me.rh h) = o.fmt ∧ hVal (t.me.rh h) = true ∧ hRd (t.me.rh h) = o.rd ∧ hWr (t.me.rh h) = o.wr ∧
        hUsc (t.me.rh h) = o.usc ∧ (t.me.rh h).getLsbD 91 = false ∧ (t.me.rh h).getLsbD 93 = false ∧ hWc (t.me.rh h) = o.wc.toNat ∧
        (∀ j, j < 4 → hDim (t.me.rh h) j = o.dim j) ∧
        ∀ j, j < 4 → (t.me.rh h).toNat / 2 ^ (160 + 24 * j) % 2 ^ 24 = if j < o.ndim then o.strides.toNat / 2 ^ (24 * j) % 2 ^ 24 else 0)

/-- R162, R163: GSIZE counts a group's members, GRANK is the number of lower ranks in it or all ones, and REGA sets the
allotment; the registers that a grow exposes read zero (R16). -/
def Sys2Proof.Claims.GroupsAndAllotment : Prop :=
  ∀ (s : State) (d : SReg) (g : BitVec 8) (n : BitVec 7), InBounds s [d] →
    let m := s.groupMask s.me g
    let k := s.me.teamid.toNat / 2 ^ 32 % 64
    Runs (.gsize d g) s (WritesScalar s d (BitVec.ofNat 64 ((List.range 64).filter m.getLsbD).length) 4) ∧
    Runs (.grank d g) s (WritesScalar s d
      (if m.getLsbD k then BitVec.ofNat 64 ((List.range k).filter m.getLsbD).length else BitVec.ofNat 64 (2 ^ 64 - 1)) 4) ∧
    (Plain s s.who → n.toNat % 8 = 0 → 8 ≤ n.toNat → n.toNat ≤ 64 →
      Runs (.rega n) s fun t =>
        t.me.allot = n ∧ t.me.pc = nextPc s.me.pc 4 ∧
        (∀ r : Fin 64, t.me.s[r] = if s.me.allot.toNat ≤ r.val ∧ r.val < n.toNat then 0 else s.me.s[r]) ∧
        t = s.setCtx s.who { s.me with s := t.me.s, allot := n, pc := t.me.pc })

/-- HSET, HGET, HSLICE, HADV, HOBJ, GSIZE, GRANK and REGA give their results. -/
def Obligations.HandleResults : Prop :=
  HandleBuilds ∧ GroupsAndAllotment

/-! ## Scalar memory access -/

/-- What the address check of R164 lets an access of `n` bytes at `a` reach: the place, and the state after the look-up,
which may hold a translation more. -/
def Sys2Proof.Claims.reach (s : State) (a : Word) (n : Nat) (need : Need) : Option (State × Nat) :=
  match s.checkAddr s.who a n need with
  | .ok q => some q
  | .error _ => none

/-- Nothing makes an access that has passed its address check wait or trap: no line lease of another context (R176), no
posted store of its own to these bytes (R169), and no poisoned granule (R165). -/
abbrev Sys2Proof.Claims.Clear (s : State) (n : Nat) (q : State × Nat) : Prop :=
  q.1.leasedByOther s.who q.2 = false ∧ q.1.underWay s.who q.2 n = false ∧ q.1.poisoned q.2 n = false

/-- No posted store or atomic of the context to this package is on its way, so a release below SYS has nothing to wait for
(R172). -/
abbrev Sys2Proof.Claims.Unposted (s : State) : Prop :=
  ∀ r ∈ s.reqs, r.scalar = true → r.who = s.who → ∀ t ∈ r.targets, s.servesRef t.1 = false

/-- Nothing of the context is outstanding in the fabric or stands in its replay queue, and no fault of it is deferred (R172,
R187). -/
abbrev Sys2Proof.Claims.Settled (s : State) : Prop :=
  (∀ r ∈ s.reqs, r.scalar = true → r.who ≠ s.who) ∧ s.me.deferred = [] ∧ ∀ (k : Fin 5), ∀ c ∈ s.me.queues[k], c.waits = []

/-- Nor is any remote write of its copy commands unfinished: a release at SYS has nothing to wait for or to report (R307). -/
abbrev Sys2Proof.Claims.Quiet (s : State) : Prop :=
  Settled s ∧ ∀ c ∈ s.me.queues[(0 : Fin 5)] ++ s.me.queues[(3 : Fin 5)], c.remoteWrite = false

/-- A release at a scope has nothing to wait for or to report. -/
abbrev Sys2Proof.Claims.Released (s : State) (c : Scope) : Prop := if c = .sys then Quiet s else Unposted s

/-- The access touches no object for which races are detected (R314). -/
abbrev Sys2Proof.Claims.Unwatched (s : State) (a : Word) (n : Nat) (q : State × Nat) : Prop :=
  q.1.touched (q.1.ctxOf s.who) a.toNat n = []

/-- Every L1 copy is one whole line of device memory. -/
abbrev Sys2Proof.Claims.HeldLines (s : State) : Prop := ∀ c, ∀ l ∈ (s.core c).l1, l.bytes.length = 128 ∧ l.line < 2 ^ 41

/-- The L1 that may keep the line of a place (R349, R354). -/
abbrev Sys2Proof.Claims.homeL1 (s : State) (p : Nat) : CoreId := s.l1Home s.who.core p

/-- A place in no dirty software-managed copy of the set that the line of place `p` goes to: a copy that makes room for the line
is written back, and nothing else of memory changes (R349, R360). -/
abbrev Sys2Proof.Claims.Untouched (s : State) (p a : Nat) : Prop :=
  ∀ l ∈ (s.core (homeL1 s p)).l1, l.dirty = true → l.line % 512 = p / 128 % 512 → a / 128 ≠ l.line

/-- What an access to a place leaves behind beside its effect: the translation looked up, its place in the queue of a line lease
given up, and a line in the L1, whose set may have given up another one (R349, R351).  Only that L1, the dirty lines of its set and
what the write-back of one changes differ: a line of another set stays, and no line is added but the access's own. -/
structure Sys2Proof.Claims.Visits (s : State) (q : State × Nat) (t : State) : Prop where
  tlb : t.tlb = q.1.tlb
  lineq : t.lineq = s.lineq.filter fun l => !(l.access && l.who == s.who && l.req.isNone && l.cmd.isNone)
  kept : ∀ l ∈ (s.core (homeL1 s q.2)).l1, l.line % 512 ≠ q.2 / 128 % 512 → l ∈ (t.core (homeL1 s q.2)).l1
  lines : ∀ l ∈ (t.core (homeL1 s q.2)).l1, l ∈ (s.core (homeL1 s q.2)).l1
  owners : ∀ e ∈ s.dirty, e.1 % 512 ≠ q.2 / 128 % 512 ∨ isDev q.2 = false → e ∈ t.dirty
  scratch : isDev q.2 = false → t.dirty = s.dirty ∧ t.fresh = q.1.fresh

/-- The state `s` with another context, and with what an access may change of the L1 of a place and of memory. -/
def Sys2Proof.Claims.accessed (s : State) (q : State × Nat) (x : Ctx) (t : State) : State :=
  { (s.setCtx s.who x).modCore (homeL1 s q.2) (fun c => { c with l1 := (t.core (homeL1 s q.2)).l1 }) with
    tlb := t.tlb, fresh := t.fresh, dirty := t.dirty, lineq := t.lineq, mem := t.mem, poison := t.poison, worn := t.worn,
    plain := t.plain, hides := t.hides }

/-- What a store of the issuing context leaves for its own commands to read (R304): what they already kept, and of the bytes that it
writes what these held before. -/
def Sys2Proof.Claims.Hides (s : State) (p n : Nat) (t : State) : Prop :=
  (∀ h ∈ t.hides, h ∈ s.hides ∨ h.isOf s.me = true ∧ p ≤ h.place ∧ h.place < p + n ∧ s.rawRead h.place 1 = [h.old]) ∧
  ((∀ k : Fin 5, s.me.queues[k] = []) → ∀ h ∈ t.hides, h ∈ s.hides)

/-- A read of `n` bytes at a place: its value, little-endian and zero-extended, into Sd (R167), and nothing else. -/
structure Sys2Proof.Claims.ReadsTo (s : State) (q : State × Nat) (d : SReg) (n : Nat) (t : State) : Prop where
  result : t.me.rs d = if d = 0 then 0 else BitVec.ofNat 64 (leNat (s.rawRead q.2 n))
  others : ∀ r, r ≠ d → t.me.rs r = s.me.rs r
  pc : t.me.pc = nextPc s.me.pc 4
  visits : Visits s q t
  owners : ∀ e ∈ t.dirty, e ∈ s.dirty
  reads : t.plain = s.plain ∧ ∀ h ∈ t.hides, h ∈ s.hides
  frame : t = accessed s q { s.me with s := t.me.s, pc := t.me.pc } t
  memory : ∀ a, Untouched s q.2 a → t.rawRead a 1 = s.rawRead a 1

/-- A write of the low `n` bytes of `v` at a place, little-endian: every other byte of device memory and of every scratch is
as before, and so is every register; a line of device memory becomes dirty in the L1 that keeps it (R351); commands of the context
that have yet to complete keep what the store replaces for themselves (R304). -/
structure Sys2Proof.Claims.StoresTo (s : State) (q : State × Nat) (n v : Nat) (t : State) : Prop where
  bytes : ∀ k, k < n → t.rawRead (q.2 + k) 1 = [BitVec.ofNat 8 (v / 256 ^ k)]
  memory : ∀ a, a < 2 ^ 48 + 2 ^ 30 → a < q.2 ∨ q.2 + n ≤ a → Untouched s q.2 a → t.rawRead a 1 = s.rawRead a 1
  context : t.me = { s.me with pc := nextPc s.me.pc 4, progress := { acc := 0, since := some s.cycle } }
  hides : Hides s q.2 n t
  visits : Visits s q t
  owner : isDev q.2 = true → (s.core (homeL1 s q.2)).caches = true → (q.2 / 128, homeL1 s q.2) ∈ t.dirty
  owners : ∀ e ∈ t.dirty, e ∈ s.dirty ∨ e = (q.2 / 128, homeL1 s q.2)
  frame : t = (accessed s q t.me t).modCore (placeCore q.2) fun c => { c with scratch := (t.core (placeCore q.2)).scratch }
  device : isDev q.2 = true → ∀ c, (t.core c).scratch = (s.core c).scratch
  poison : ∀ g, 32 * g < 2 ^ 48 → Untouched s q.2 (32 * g) →
    (g ∈ t.poison ↔ g ∈ s.poison ∧ ¬ (q.2 ≤ 32 * g ∧ 32 * g + 32 ≤ q.2 + n))

/-- Every translation that is held names a whole 64 KiB page below 2^48. -/
abbrev Sys2Proof.Claims.HeldPages (s : State) : Prop := ∀ h ∈ s.tlb, h.pa % 65536 = 0 ∧ h.pa + 65536 ≤ 2 ^ 48

/-- The L1 that keeps the line of a place has room for one more dirty line (R166). -/
abbrev Sys2Proof.Claims.HasRoom (s : State) (p : Nat) : Prop :=
  s.dirtyCount (s.l1Home s.who.core p) < (s.core (s.l1Home s.who.core p)).limit

/-- The plain loads with their addresses and sizes (R167, R168). -/
def Sys2Proof.Claims.loadForms (s : State) (d a b : SReg) (o : BitVec 12) : List (Instr × Word × Nat) :=
  let off : Word := BitVec.ofInt 64 ((s.me.rs a).toNat + o.toInt)
  let idx : Nat → Word := fun n => BitVec.ofNat 64 ((s.me.rs a).toNat + n * (s.me.rs b).toNat)
  [(.ldb d a o, off, 1), (.ldh d a o, off, 2), (.ldw d a o, off, 4), (.ldd d a o, off, 8),
    (.ldx .b d a b, idx 1, 1), (.ldx .h d a b, idx 2, 2), (.ldx .w d a b, idx 4, 4), (.ldx .d d a b, idx 8, 8)]

/-- The plain stores with their addresses and sizes (R167, R168). -/
def Sys2Proof.Claims.storeForms (s : State) (v a b : SReg) (o : BitVec 12) : List (Instr × Word × Nat) :=
  let off : Word := BitVec.ofInt 64 ((s.me.rs a).toNat + o.toInt)
  let idx : Nat → Word := fun n => BitVec.ofNat 64 ((s.me.rs a).toNat + n * (s.me.rs b).toNat)
  [(.stb v a o, off, 1), (.sth v a o, off, 2), (.stw v a o, off, 4), (.std v a o, off, 8),
    (.stx .b v a b, idx 1, 1), (.stx .h v a b, idx 2, 2), (.stx .w v a b, idx 4, 4), (.stx .d v a b, idx 8, 8)]

/-- R34, R164: where a naturally aligned access of 1, 2, 4, 8, 32 or 128 bytes goes.  A misaligned one traps with ALIGN; the local window
is the own scratch, the peer windows are the scratches of the cluster's members, and both need a SCRATCH bank that the team
owns; every other address below 2^48 traps with ADDR, and one at or above it is translated. -/
def Obligations.AddressCheck : Prop :=
  ∀ (s : State) (a : Word) (n : Nat) (need : Need), n ∈ [1, 2, 4, 8, 32, 128] →
    let v := a.toNat
    let own := s.who.core
    let peer : CoreId := clusterMate own ((v - 0x01000000) / 2 ^ 21)
    let isScratch := fun (c : CoreId) (b : Nat) => (s.core c).bankrole.toNat / 4 ^ b % 4 = 1
    (v % n ≠ 0 → s.checkAddr s.who a n need = trap Cause.align 0 a) ∧
    (v % n = 0 → v < 2 ^ 21 →
      if isScratch own (v / 65536) ∧ s.me.bankown.getLsbD (v / 65536) = true then
        reach s a n need = some (s, 2 ^ 48 + 2 ^ 21 * own.val + v)
      else s.checkAddr s.who a n need = trap Cause.addr 0 a) ∧
    (v % n = 0 → 0x01000000 ≤ v → v < 0x02000000 →
      let mine := if peer = own then s.me.bankown else s.teamBanks s.me.team peer
      if isScratch peer (v % 2 ^ 21 / 65536) ∧ mine.getLsbD (v % 2 ^ 21 / 65536) = true then
        reach s a n need = some (s, 2 ^ 48 + 2 ^ 21 * peer.val + v % 2 ^ 21)
      else s.checkAddr s.who a n need = trap Cause.addr 0 a) ∧
    (v % n = 0 → 2 ^ 21 ≤ v → v < 0x01000000 ∨ 0x02000000 ≤ v → v < 2 ^ 48 →
      s.checkAddr s.who a n need = trap Cause.addr 0 a) ∧
    (v % n = 0 → 2 ^ 48 ≤ v → ∀ s1 p, s.xlate s.me.slot v need = (s1, .ok p) → reach s a n need = some (s1, p)) ∧
    (v % n = 0 → 2 ^ 48 ≤ v → ∀ s1 e, s.xlate s.me.slot v need = (s1, .error e) →
      s.checkAddr s.who a n need = trap Cause.xlat e a)

/-- R386 to R388: translation of an address of which nothing is held.  The table of level 0 is at TROOT; a valid entry that is
not a leaf gives the next table, and one that is a leaf at level 1, 2 or 3 maps 2^30, 2^21 or 2^16 bytes.  An access that the
page does not allow is refused with subcode 1, 2 or 3, an address without a valid entry with subcode 0, and one whose walk meets a
malformed entry with subcode 4.  That an access which lacks both rights is refused for R, and that poison in a table is not looked
at, are the model's choice (log 34). -/
def Obligations.Translation : Prop :=
  ∀ (s : State) (slot : Fin 16) (va : Nat) (need : Need), va < 2 ^ 52 →
    (∀ h ∈ s.tlb, ¬ (h.slot = slot ∧ h.page = va / 65536)) →
    let troot := s.slots[slot].troot
    let entry := fun (table k : Nat) => leNat (cellsRead s.mem (table + 8 * k) 8)
    let base := fun (e : Nat) => e / 256 % 2 ^ 40 * 256
    let plain := fun (e : Nat) => e % 2 = 1 ∧ e / 32 % 8 = 0 ∧ e / 2 ^ 48 = 0
    let table := fun (e size : Nat) => plain e ∧ e / 2 % 2 = 0 ∧ base e % size = 0
    let leaf := fun (e size : Nat) => plain e ∧ e / 2 % 2 = 1 ∧ base e % size = 0 ∧ s.pageMapped (base e) size = true
    let e0 := entry (troot.toNat / 65536 % 2 ^ 32 * 65536) (va / 2 ^ 39)
    let e1 := entry (base e0) (va / 2 ^ 30 % 512)
    let e2 := entry (base e1) (va / 2 ^ 21 % 512)
    let e3 := entry (base e2) (va / 2 ^ 16 % 32)
    let gives := fun (e size : Nat) =>
      (s.xlate slot va need).2 =
        (if need.reads ∧ e / 4 % 2 = 0 then .error 1
        else if need.writes ∧ e / 8 % 2 = 0 then .error 2
        else if need = .exec ∧ e / 16 % 2 = 0 then .error 3
        else .ok (base e + va % size))
    (troot.getLsbD 0 = false → (s.xlate slot va need).2 = .error 0) ∧
    (troot.getLsbD 0 = true → e0 % 2 = 0 → (s.xlate slot va need).2 = .error 0) ∧
    (troot.getLsbD 0 = true → e0 % 2 = 1 → ¬ table e0 4096 → (s.xlate slot va need).2 = .error 4) ∧
    (troot.getLsbD 0 = true → table e0 4096 →
      (e1 % 2 = 0 → (s.xlate slot va need).2 = .error 0) ∧
      (e1 % 2 = 1 → ¬ table e1 4096 → ¬ leaf e1 (2 ^ 30) → (s.xlate slot va need).2 = .error 4) ∧
      (leaf e1 (2 ^ 30) → gives e1 (2 ^ 30)) ∧
      (table e1 4096 →
        (e2 % 2 = 0 → (s.xlate slot va need).2 = .error 0) ∧
        (e2 % 2 = 1 → ¬ table e2 256 → ¬ leaf e2 (2 ^ 21) → (s.xlate slot va need).2 = .error 4) ∧
        (leaf e2 (2 ^ 21) → gives e2 (2 ^ 21)) ∧
        (table e2 256 →
          (e3 % 2 = 0 → (s.xlate slot va need).2 = .error 0) ∧
          (e3 % 2 = 1 → ¬ leaf e3 (2 ^ 16) → (s.xlate slot va need).2 = .error 4) ∧
          (leaf e3 (2 ^ 16) → gives e3 (2 ^ 16)))))

/-- R167, R168, R174: LDB to LDD, LDX and LDA read 1, 2, 4 or 8 bytes, zero-extended, from scratch or from device memory in
hardware-coherent mode. -/
def Sys2Proof.Claims.Loads : Prop :=
  ∀ (s : State) (d a b : SReg) (o : BitVec 12), InBounds s [d, a, b] → Plain s s.who → Memory.wf s = true → HeldLines s →
    (∀ f ∈ loadForms s d a b o, ∀ q, reach s f.2.1 f.2.2 .read = some q → Clear s f.2.2 q → Unwatched s f.2.1 f.2.2 q →
      s.isSw q.2 = false → Runs f.1 s (ReadsTo s q d f.2.2)) ∧
    (∀ (c : Scope) (z : Size) q, reach s (s.me.rs a) (sizeBytes z) .read = some q → Clear s (sizeBytes z) q →
      s.isSw q.2 = false → Runs (.lda c z d a) s (ReadsTo s q d (sizeBytes z)))

/-- R167, R168, R174: STB to STD and STX store the low bytes of Sv, and so does STL when its release has nothing to wait for.  The
state is one in which memory is in its canonical form, held translations name pages, and L1 copies are lines, which every step
keeps. -/
def Sys2Proof.Claims.Stores : Prop :=
  ∀ (s : State) (v a b : SReg) (o : BitVec 12), InBounds s [v, a, b] → Plain s s.who → Memory.wf s = true → HeldPages s →
    HeldLines s →
    (∀ f ∈ storeForms s v a b o, ∀ q, reach s f.2.1 f.2.2 .write = some q → Clear s f.2.2 q → Unwatched s f.2.1 f.2.2 q →
      s.isSw q.2 = false → HasRoom s q.2 → Runs f.1 s (StoresTo s q f.2.2 (s.me.rs v).toNat)) ∧
    (∀ (c : Scope) (z : Size) q, reach s (s.me.rs a) (sizeBytes z) .write = some q → Clear s (sizeBytes z) q →
      s.isSw q.2 = false → HasRoom s q.2 → Released s c →
      Runs (.stl c z a v) s (StoresTo s q (sizeBytes z) (s.me.rs v).toNat))

/-- Loads and stores move 1, 2, 4 or 8 bytes, and store addresses are the instruction's own. -/
def Obligations.LoadsAndStores : Prop :=
  Loads ∧ Stores

/-- R303, R360: in a page of software-managed mode a load takes the value of the L1 copy, or of memory where there is no copy;
a clean copy may have left (the free value of log 12), and then the value is memory's.  A store changes the copy alone, which
becomes dirty, whether the line was held before or is filled from memory; memory keeps its bytes, but for those of a dirty copy of
the set that makes room for the line. -/
def Sys2Proof.Claims.CopiesInL1 : Prop :=
  ∀ (s : State) (d a b : SReg) (o : BitVec 12), InBounds s [d, a, b] → Plain s s.who → Memory.wf s = true → HeldLines s →
    HeldPages s →
    (∀ f ∈ loadForms s d a b o, ∀ q, reach s f.2.1 f.2.2 .read = some q → Clear s f.2.2 q → Unwatched s f.2.1 f.2.2 q →
      s.isSw q.2 = true →
      let here := s.core (homeL1 s q.2)
      Runs f.1 s fun t =>
        (∀ r, r ≠ d → t.me.rs r = s.me.rs r) ∧ t.me.pc = nextPc s.me.pc 4 ∧
        (∀ p, Untouched s q.2 p → t.rawRead p 1 = s.rawRead p 1) ∧
        ((∀ l ∈ here.l1, l.line ≠ q.2 / 128) →
          t.me.rs d = (if d = 0 then 0 else BitVec.ofNat 64 (leNat (s.rawRead q.2 f.2.2)))) ∧
        (∀ l, here.l1.find? (fun m => m.line == q.2 / 128) = some l → l.dirty = false →
          d ≠ 0 → t.me.rs d = BitVec.ofNat 64 (leNat ((l.bytes.drop (q.2 % 128)).take f.2.2)) ∨
            t.me.rs d = BitVec.ofNat 64 (leNat (s.rawRead q.2 f.2.2))) ∧
        (∀ l, here.l1.find? (fun m => m.line == q.2 / 128) = some l → l.dirty = true → d ≠ 0 →
          t.me.rs d = BitVec.ofNat 64 (leNat ((l.bytes.drop (q.2 % 128)).take f.2.2)))) ∧
    (∀ f ∈ storeForms s d a b o, ∀ q, reach s f.2.1 f.2.2 .write = some q → Clear s f.2.2 q → Unwatched s f.2.1 f.2.2 q →
      s.isSw q.2 = true → HasRoom s q.2 → q.1.poisoned (q.2 / 128 * 128) 128 = false →
      let home := homeL1 s q.2
      (s.core home).caches = true →
      let held := (s.core home).l1.find? fun m => m.line == q.2 / 128
      Runs f.1 s fun t =>
        t.me = { s.me with pc := nextPc s.me.pc 4, progress := { acc := 0, since := some s.cycle } } ∧
        (∀ p, Untouched s q.2 p → t.rawRead p 1 = s.rawRead p 1) ∧
        (∃ before : List Byte,
          (match held with
            | none => before = cellsRead s.mem (q.2 / 128 * 128) 128
            | some m => before = m.bytes ∨ m.dirty = false ∧ before = cellsRead s.mem (q.2 / 128 * 128) 128) ∧
          ∃ l ∈ (t.core home).l1, l.line = q.2 / 128 ∧ l.dirty = true ∧ l.bytes.length = 128 ∧
            ∀ k, k < 128 → l.bytes[k]? = if q.2 % 128 ≤ k ∧ k < q.2 % 128 + f.2.2 then
              some (BitVec.ofNat 8 ((s.me.rs d).toNat / 256 ^ (k - q.2 % 128))) else before[k]?) ∧
        (q.2 / 128, home) ∈ t.dirty)

/-- R155: HLD takes its 32 bytes as a handle and HST stores a handle's 32 bytes, at 32 × the signed offset from Sa. -/
def Sys2Proof.Claims.HandleLoadsAndStores : Prop :=
  ∀ (s : State) (h : HReg) (a : SReg) (o : Byte), InBounds s [a] → Plain s s.who → Memory.wf s = true → HeldLines s →
    let adr : Word := BitVec.ofInt 64 ((s.me.rs a).toNat + 32 * o.toInt)
    (∀ q, reach s adr 32 .read = some q → Clear s 32 q → Unwatched s adr 32 q → s.isSw q.2 = false →
      Runs (.hld h a o) s fun t =>
        t.me.rh h = BitVec.ofNat 256 (leNat (s.rawRead q.2 32)) ∧ (∀ g, g ≠ h → t.me.rh g = s.me.rh g) ∧
        Visits s q t ∧ (∀ e ∈ t.dirty, e ∈ s.dirty) ∧ t.plain = s.plain ∧ (∀ e ∈ t.hides, e ∈ s.hides) ∧
        t = accessed s q { s.me with h := t.me.h, pc := nextPc s.me.pc 4 } t ∧
        ∀ p, Untouched s q.2 p → t.rawRead p 1 = s.rawRead p 1) ∧
    (∀ q, reach s adr 32 .both = some q → Clear s 32 q → Unwatched s adr 32 q → s.isSw q.2 = false → HasRoom s q.2 →
      HeldPages s → Runs (.hst h a o) s (StoresTo s q 32 (s.me.rh h).toNat))

/-- Software-managed pages read and write the L1 copy; HLD and HST move 32 bytes. -/
def Obligations.SoftwareManagedPages : Prop :=
  CopiesInL1 ∧ HandleLoadsAndStores

/-! ## Atomics, ordering, leases and page modes -/

/-- The images of the firmware banks are in canonical form. -/
abbrev Sys2Proof.Claims.BankForm (s : State) : Prop := cellsWf s.mgmt.bank0 = true ∧ cellsWf s.mgmt.bank1 = true

/-- A queued access holds no lease, and a lease or a request for one is a context's. -/
abbrev Sys2Proof.Claims.QueueForm (s : State) : Prop :=
  ∀ l ∈ s.lineq, if l.access then l.stop = none else l.req = none ∧ l.inbound = false ∧ l.cmd = none

/-- An atomic at its home: Sd takes the old value, the `n` bytes take `new`, and every other byte and register is as before
(R170, R171). -/
structure Sys2Proof.Claims.AtomicTo (s : State) (q : State × Nat) (d : SReg) (n old new : Nat) (t : State) : Prop where
  result : t.me.rs d = if d = 0 then 0 else BitVec.ofNat 64 old
  others : ∀ r, r ≠ d → t.me.rs r = s.me.rs r
  bytes : ∀ k, k < n → t.rawRead (q.2 + k) 1 = [BitVec.ofNat 8 (new / 256 ^ k)]
  memory : ∀ p, p < 2 ^ 48 + 2 ^ 30 → p < q.2 ∨ q.2 + n ≤ p → t.rawRead p 1 = s.rawRead p 1
  context : t.me = { s.me with s := t.me.s, pc := nextPc s.me.pc 4, progress := { acc := 0, since := some s.cycle } }
  hides : Hides s q.2 n t
  lineq : t.lineq = s.lineq.filter fun l => !(l.access && l.who == s.who && l.req.isNone && l.cmd.isNone)
  held : t.tlb = q.1.tlb ∧ t.fresh = q.1.fresh
  dirty : ∀ e ∈ t.dirty, e ∈ s.dirty
  frame : t = { (s.setCtx s.who t.me).modCore (placeCore q.2) (fun c => { c with scratch := (t.core (placeCore q.2)).scratch }) with
    tlb := t.tlb, fresh := t.fresh, dirty := t.dirty, lineq := t.lineq, mem := t.mem, poison := t.poison, worn := t.worn, hides := t.hides }
  device : isDev q.2 = true → ∀ c, (t.core c).scratch = (s.core c).scratch

/-- A number of `w` bits read as signed. -/
def Sys2Proof.Claims.signed (w v : Nat) : Int := if v < 2 ^ (w - 1) then v else (v : Int) - 2 ^ w

/-- R170, R171: the eight atomics on 4 or 8 bytes, aligned, of scratch or of device memory in either page mode. -/
def Obligations.Atomics : Prop :=
  ∀ (s : State) (w : Bool) (o : Order) (c : Scope) (d a b : SReg), InBounds s [d, a, b] → Plain s s.who →
    Memory.wf s = true → HeldPages s → (o = .rel ∨ o = .ar → Released s c) →
    let n := if w then 4 else 8
    ∀ q, reach s (s.me.rs a) n .both = some q → Clear s n q →
    let m := 2 ^ (8 * n)
    let old := leNat (s.rawRead q.2 n)
    let x := (s.me.rs b).toNat % m
    let e := (s.me.rs d).toNat % m
    let sg := signed (8 * n)
    Runs (.aadd w o c d a b) s (AtomicTo s q d n old ((old + x) % m)) ∧
    Runs (.amin w o c d a b) s (AtomicTo s q d n old (if sg x < sg old then x else old)) ∧
    Runs (.amax w o c d a b) s (AtomicTo s q d n old (if sg old < sg x then x else old)) ∧
    Runs (.aand w o c d a b) s (AtomicTo s q d n old (old &&& x)) ∧
    Runs (.aor w o c d a b) s (AtomicTo s q d n old (old ||| x)) ∧
    Runs (.axor w o c d a b) s (AtomicTo s q d n old (old ^^^ x)) ∧
    Runs (.aswap w o c d a b) s (AtomicTo s q d n old x) ∧
    Runs (.acas w o c d a b) s (AtomicTo s q d n old (if old = e then x else old))

/-- R172, R173, R187, R307: FENCE moves on at once when it does not release, or when what its release waits for has come: at SYS that
nothing of the context is outstanding and its copy commands have written what they write of other packages, and below SYS that none of
its posted stores to this package is on its way, which is the model's choice (log 29); FULL at SYS drops the words fetched ahead
(R100).  While a posted store is unacknowledged, or a row or flag add of a started command is not yet written, a release at SYS waits,
as one below SYS does for a store to this package (log 29), and then a release at SYS reports the oldest deferred fault, with the
address of the faulting PST, instead of its effect. -/
def Sys2Proof.Claims.FencesAndReleases : Prop :=
  ∀ (s : State) (k : FenceKind) (c : Scope), Plain s s.who →
    (k = .acq ∨ Released s c → Runs (.fence k c) s fun t =>
      t = s.setCtx s.who { s.me with
        pc := nextPc s.me.pc 4, ahead := if k = .full ∧ c = .sys then none else s.me.ahead }) ∧
    (k ≠ .acq → c = .sys → (∃ r ∈ s.reqs, r.scalar = true ∧ r.who = s.who ∧ r.team = s.me.team ∧ ∃ bs f, r.kind = .pst bs f) →
      Runs (.fence k c) s fun t => t = s.setCtx s.who { s.me with blocked := some .drain }) ∧
    (k ≠ .acq → c = .sys →
      (∃ e ∈ s.me.queues[(0 : Fin 5)] ++ s.me.queues[(3 : Fin 5)], e.remoteWrite = true ∧ e.phase ≠ .queued) →
      Runs (.fence k c) s fun t => t = s.setCtx s.who { s.me with blocked := some .drain }) ∧
    (k ≠ .acq → c ≠ .sys → (∃ r ∈ s.reqs, r.scalar = true ∧ r.who = s.who ∧ r.team = s.me.team ∧ s.servesRef r.ref = true ∧
        ∃ bs f, r.kind = .pst bs f) →
      Runs (.fence k c) s fun t => t = s.setCtx s.who { s.me with blocked := some .drain }) ∧
    (k ≠ .acq → c = .sys → ∀ d, s.me.deferred = [d] → Quiet (s.setCtx s.who { s.me with deferred := [] }) → Trappable s →
      Runs (.fence k c) s fun t =>
        t.me.trapcause.extractLsb' 0 8 = d.cause ∧ t.me.trapcause.extractLsb' 8 8 = d.sub ∧ t.me.trapval = d.addr ∧
        t.me.trappc = s.me.pc ∧ t.me.mode = .handler ∧ t.me.pc = entryPc s.me.traphnd ∧ t.me.deferred = [])

/-- R175: FLUSHD of no bytes moves on, and a range that passes the end of the address space traps with ADDR.  Otherwise, on a
core that is not fused, the L1 copies of the lines that the range names are clean, or gone when it invalidates, and their
bytes are in memory. -/
def Sys2Proof.Claims.Flushes : Prop :=
  ∀ (s : State) (inv : Bool) (a b : SReg), InBounds s [a, b] → Plain s s.who →
    let base := (s.me.rs a).toNat
    let n := (s.me.rs b).toNat
    let me := s.who.core
    let hit := lineIn (s.leaves s.me.slot) base n
    (n = 0 → Runs (.flushd inv a b) s fun t => t = s.setCtx s.who { s.me with pc := nextPc s.me.pc 4 }) ∧
    (n ≠ 0 → 2 ^ 64 < base + n → Trappable s → Runs (.flushd inv a b) s (TrapsWith s Cause.addr 0 (s.me.rs a))) ∧
    (n ≠ 0 → base + n ≤ 2 ^ 64 → s.fused.getLsbD (me.val / 8) = false → Memory.wf s = true → HeldLines s →
      Runs (.flushd inv a b) s fun t =>
        t.me = { s.me with pc := nextPc s.me.pc 4 } ∧
        (t.core me).l1 = (if inv then (s.core me).l1.filter fun l => !hit l.line
          else (s.core me).l1.map fun l => if hit l.line then { l with dirty := false } else l) ∧
        (∀ e, e ∈ t.dirty ↔ e ∈ s.dirty ∧ ¬ (e.2 = me ∧ hit e.1 = true)) ∧
        (∀ l ∈ (s.core me).l1, hit l.line = true → l.dirty = true → (∀ m ∈ (s.core me).l1, m.line = l.line → m = l) →
          t.rawRead (128 * l.line) 128 = l.bytes) ∧
        (∀ p, p < 2 ^ 48 + 2 ^ 30 → (∀ l ∈ (s.core me).l1, l.line ≠ p / 128) → t.rawRead p 1 = s.rawRead p 1) ∧
        ∀ c, c ≠ me → (t.core c).l1 = (s.core c).l1)

/-- Fences and releases wait or report; FLUSHD cleans or drops the lines of its range. -/
def Obligations.FencesAndFlushes : Prop :=
  FencesAndReleases ∧ Flushes

/-- R176, R177: LLEASE of a free line of a coherent page is granted for LEASEMAX cycles, and of a line that another context
leases it waits in the line's queue; LLREL of the held line gives it up; a second LLEASE, LLREL without a lease and LLREL
after the counter has run out trap with LEASE. -/
def Sys2Proof.Claims.LeaseInstructions : Prop :=
  ∀ (s : State) (a : SReg), InBounds s [a] → Plain s s.who → QueueForm s →
    let v := s.me.rs a
    let mine := s.lineq.filter fun l => l.who == s.who && !l.access
    (v.toNat % 128 = 0 → 2 ^ 48 ≤ v.toNat → mine = [] → s.me.leasemax ≠ 0 →
      ∀ q, reach s v 1 .write = some q → s.isSw q.2 = false →
      (s.core (s.l1Home s.who.core (128 * (q.2 / 128)))).roleChanges = [] →
      let asked : LineReq :=
        { who := s.who, line := v, phys := q.2 / 128, stop := none, access := false, req := none, inbound := false }
      ((∀ l ∈ s.lineq, l.phys ≠ q.2 / 128) → Runs (.llease a) s fun t =>
        t.lineq = s.lineq ++ [{ asked with stop := some (s.cycle + s.me.leasemax.toNat) }] ∧
        t.me = { s.me with pc := nextPc s.me.pc 4, run := .active, blocked := none, since := s.cycle } ∧
        ∀ p, t.rawRead p 1 = s.rawRead p 1) ∧
      ((∃ l ∈ s.lineq, l.phys = q.2 / 128 ∧ ∃ c, l.stop = some c ∧ s.cycle < c) → Runs (.llease a) s fun t =>
        t.lineq = s.lineq ++ [asked] ∧ t.me = { s.me with run := .waiting, blocked := some .lineLease })) ∧
    (∀ l c, mine = [l] → l.stop = some c → s.cycle < c → l.line = v &&& ~~~127#64 → s.me.expired = false → Unposted s →
      Runs (.llrel a) s fun t =>
        t = { s with lineq := s.lineq.filter fun k => k.who != s.who || k.access }.setCtx s.who { s.me with pc := nextPc s.me.pc 4 }) ∧
    (Trappable s → mine = [] → s.me.expired = false → Runs (.llrel a) s (TrapsWith s Cause.lease 2 (v &&& ~~~127#64))) ∧
    (Trappable s → mine = [] → s.me.expired = true → Runs (.llrel a) s fun t =>
      t.me.trapcause.extractLsb' 0 16 = 3#8 ++ Cause.lease ∧ t.me.trapval = v &&& ~~~127#64 ∧ t.me.expired = false ∧
      t.me.mode = .handler ∧ t.me.pc = entryPc s.me.traphnd) ∧
    (Trappable s → ∀ l c, mine = [l] → l.stop = some c → s.cycle < c → v.toNat % 128 = 0 → 2 ^ 48 ≤ v.toNat →
      ∀ q, reach s v 1 .write = some q → Runs (.llease a) s (TrapsWith s Cause.lease 1 v)) ∧
    (Trappable s → v.toNat % 128 ≠ 0 → mine = [] → Runs (.llease a) s (TrapsWith s Cause.align 0 v))

/-- R176, R177, R166: a queued lease is granted when it is the oldest request for its line and no lease there is current; a lease
whose counter has run out ends and marks its context; at DIRTYLIM the oldest dirty line of a core is written back. -/
def Sys2Proof.Claims.LineEvents : Prop :=
  ∀ s : State,
    (∀ (w : Who) (l : LineReq), QueueForm s → (s.ctxOf w).blocked = some .lineLease → l.stop = none →
      s.lineq.filter (fun k => k.who == w && !k.access) = [l] → (s.lineq.filter fun k => k.phys == l.phys).head? = some l →
      (∀ k ∈ s.lineq, k.phys = l.phys → ∀ c, k.stop = some c → c ≤ s.cycle) →
      (s.core (s.l1Home w.core (128 * l.phys))).roleChanges = [] →
      Runs (.lineLeaseGrant w) s fun t =>
        t = { s with lineq := s.lineq.map fun k => if k = l then { l with stop := some (s.cycle + (s.ctxOf w).leasemax.toNat) } else k
            }.setCtx w { s.ctxOf w with pc := nextPc (s.ctxOf w).pc 4, run := .active, blocked := none, since := s.cycle }) ∧
    (∀ (w : Who) (l : LineReq) (c : Nat), QueueForm s → s.lineq.filter (fun k => k.who == w && !k.access) = [l] →
      l.stop = some c → c ≤ s.cycle →
      Runs (.lineLeaseExpiry w) s fun t =>
        t = { s with lineq := s.lineq.filter fun k => k.who != w || k.access }.setCtx w { s.ctxOf w with expired := true }) ∧
    (∀ (c : CoreId) (line : Nat), s.dirty.find? (fun e => e.2 == c) = some (line, c) → s.dirty.Nodup →
      (s.core c).limit ≤ s.dirtyCount c → Memory.wf s = true → HeldLines s →
      Runs (.dirtyLineWriteback c) s fun t =>
        t.dirty = s.dirty.erase (line, c) ∧
        (∀ l, (s.core c).l1.find? (fun m => m.line == line && m.dirty) = some l → t.rawRead (128 * line) 128 = l.bytes) ∧
        (∀ p, p < 2 ^ 48 + 2 ^ 30 → p / 128 ≠ line → t.rawRead p 1 = s.rawRead p 1) ∧
        (∀ l ∈ (t.core c).l1, l.line = line → l.dirty = false) ∧ ∀ w, t.ctxOf w = s.ctxOf w)

/-- LLEASE and LLREL, their LEASE traps, and the line events of grant, end and write-back. -/
def Obligations.LineLeases : Prop :=
  LeaseInstructions ∧ LineEvents

/-- R183: MODESW switches whole pages, as many as its size names; those already in the mode are left alone, the others lose their
L1 copies in every core, the dirty ones written back first, and an address or a size that is no multiple of 64 KiB traps.  One page
is the one that the address check of R164 gives for a write. -/
def Sys2Proof.Claims.PageModes : Prop :=
  ∀ (s : State) (hw : Bool) (a b : SReg), InBounds s [a, b] → Plain s s.who →
    let va := (s.me.rs a).toNat
    let n := (s.me.rs b).toNat
    (n = 0 → Runs (.modesw hw a b) s fun t => t = s.setCtx s.who { s.me with pc := nextPc s.me.pc 4 }) ∧
    (n ≠ 0 → va % 65536 ≠ 0 → Trappable s → Runs (.modesw hw a b) s (TrapsWith s Cause.align 0 (s.me.rs a))) ∧
    (n ≠ 0 → va % 65536 = 0 → n % 65536 ≠ 0 → Trappable s → Runs (.modesw hw a b) s (TrapsWith s Cause.align 0 (s.me.rs b))) ∧
    (va % 65536 = 0 → 2 ^ 48 ≤ va → ∀ s1 pages, s.pagesOf s.me.slot va 1 = .ok (s1, pages) ↔
      ∃ q, reach s (s.me.rs a) 1 .write = some q ∧ q.1 = s1 ∧ pages = [q.2 / 65536]) ∧
    (n % 65536 = 0 → va % 65536 = 0 → HeldPages s → Memory.wf s = true → HeldLines s →
      ∀ s1 pages, s.pagesOf s.me.slot va (n / 65536) = .ok (s1, pages) →
      (∀ l ∈ s.lineq, l.phys / 512 ∈ pages → ∀ c, l.stop = some c → c ≤ s.cycle) →
      let switched := fun (page : Nat) => page ∈ pages ∧ (page ∈ s.swPages ↔ hw = true)
      Runs (.modesw hw a b) s fun t =>
        pages.length = n / 65536 ∧ t.me = { s.me with pc := nextPc s.me.pc 4 } ∧
        (∀ page, page ∈ t.swPages ↔ if page ∈ pages then hw = false else page ∈ s.swPages) ∧
        (∀ c l, l ∈ (t.core c).l1 ↔ l ∈ (s.core c).l1 ∧ ¬ switched (l.line / 512)) ∧
        (∀ e, e ∈ t.dirty ↔ e ∈ s.dirty ∧ ¬ switched (e.1 / 512)) ∧
        (∀ c, ∀ l ∈ (s.core c).l1, switched (l.line / 512) → l.dirty = true →
          (∀ d, ∀ m ∈ (s.core d).l1, m.line = l.line → m.dirty = true → m = l) → t.rawRead (128 * l.line) 128 = l.bytes) ∧
        ∀ p, p < 2 ^ 48 + 2 ^ 30 → ¬ switched (p / 65536) → t.rawRead p 1 = s.rawRead p 1)

/-- R184: CBLD takes 16 BF16 entries from 32 aligned bytes and installs them, when the handle may write a CB4 object, no command
that was issued before it has yet to read the object, and each entry is 0 or lies in range; while such a command is left it stalls
with no effect but that it is remembered, and an entry out of range traps with its number and value. -/
def Sys2Proof.Claims.Codebooks : Prop :=
  ∀ (s : State) (g : HReg) (a : SReg) (c : BitVec 2), InBounds s [a] → Plain s s.who → Memory.wf s = true → HeldLines s →
    let h := s.me.rh g
    let n := hObj h
    ∀ o q, s.objOf s.me n = some o → hVal h = true → hWr h = true → o.wr = true →
      (o.fmt = 0x23#8 ∨ o.fmt = 0xFE#8 ∧ o.wc = 1#2) →
      (s.me.rs a).toNat % 32 = 0 → reach s (s.me.rs a) 32 .read = some q → Clear s 32 q →
      Unwatched s (s.me.rs a) 32 q → s.isSw q.2 = false →
      let entry : Fin 16 → BitVec 16 := fun k =>
        BitVec.ofNat 16 (leNat (s.rawRead (q.2 + 2 * k.val) 2))
      let good := fun (v : BitVec 16) => v.toNat % 2 ^ 15 = 0 ∨ 111 ≤ v.toNat / 128 % 256 ∧ v.toNat / 128 % 256 ≤ 142
      ((∀ k, good (entry k)) → s.loadWaits (s.launchId s.me) n = [] →
        Runs (.cbld g a c) s fun t =>
          t.me = { s.me with pc := nextPc s.me.pc 4 } ∧
          (∃ o', t.objOf t.me n = some o' ∧ ∀ k : Fin 4, o'.codebooks[k] =
            if k.val = c.toNat then some (Vector.ofFn entry) else o.codebooks[k]) ∧
          t.loads = (s.loads.filter fun l => l.who != s.who) ∧ Visits s q t ∧
          t = { accessed s q t.me t with launches := t.launches, loads := t.loads } ∧
          ∀ p, Untouched s q.2 p → t.rawRead p 1 = s.rawRead p 1) ∧
      ((∀ k, good (entry k)) → s.loadWaits (s.launchId s.me) n ≠ [] →
        Runs (.cbld g a c) s fun t => t = { s.setCtx s.who { s.me with blocked := some .stall } with
          loads := { who := s.who, launch := s.launchId s.me, obj := n, before := s.loadWaits (s.launchId s.me) n } ::
            s.loads.filter fun l => l.who != s.who }) ∧
      (∀ k, ¬ good (entry k) → (∀ j, j < k → good (entry j)) → Trappable s →
        Runs (.cbld g a c) s (TrapsWith s Cause.format 4 (BitVec.ofNat 64 (k.val + (entry k).toNat * 65536))))

/-- MODESW switches whole pages; CBLD installs checked codebook entries. -/
def Obligations.PageModesAndCodebooks : Prop :=
  PageModes ∧ Codebooks

/-! ## Objects, the pool and remote requests -/

/-- The first element of what an indexed access through a handle reaches (R185), when its checks pass. -/
def Sys2Proof.Claims.elem (s : State) (h : HandleWord) (i : Word) (z : Size) (rd wr : Bool) : Option (Obj × Nat) :=
  match s.poolElem s.me h i z rd wr with
  | .ok r => some r
  | .error _ => none

/-- R22, R379: the element that indices name is OFF plus the exact sum of index times stride; it must have each index below its
dimension, lie inside the object, and have the right in the handle and in the entry.  The fault names the object and the
offset, modulo 2^36. -/
def Sys2Proof.Claims.ElementOffsets : Prop :=
  ∀ (get : Nat → Option Obj) (h : HandleWord) (i : Fin 4 → Nat) (rd wr : Bool),
    let r := elemOffset get h [i 0, i 1, i 2, i 3] rd wr
    let detail := fun (e : Int) => BitVec.ofNat 64 (hObj h + (e % 2 ^ 36).toNat * 2 ^ 16)
    (h.getLsbD 88 = false → r = .error ⟨Cause.handle, 1, detail 0⟩) ∧
    (h.getLsbD 88 = true → get (hObj h) = none → r = .error ⟨Cause.handle, 3, detail 0⟩) ∧
    ∀ o, h.getLsbD 88 = true → get (hObj h) = some o → viewOk (hView h) o = true →
      fmtOk (hFmt h).toNat (hWc h) (hUsc h) = true →
      let e : Int := hOff h + i 0 * hStr h 0 + i 1 * hStr h 1 + i 2 * hStr h 2 + i 3 * hStr h 3
      let within := ∀ k : Fin 4, i k < hDim h k.val
      let rights := (rd = true → h.getLsbD 89 = true ∧ o.rd = true) ∧ (wr = true → h.getLsbD 90 = true ∧ o.wr = true)
      (within → 0 ≤ e → e < o.size.toNat → rights → r = .ok (o, e.toNat)) ∧
      (within → ¬ (0 ≤ e ∧ e < o.size.toNat) → r = .error ⟨Cause.handle, 2, detail e⟩) ∧
      (within → 0 ≤ e → e < o.size.toNat → ¬ rights → r = .error ⟨Cause.handle, 5, detail e⟩) ∧
      ∀ k : Fin 4, (∀ j : Fin 4, j < k → i j < hDim h j.val) → hDim h k.val ≤ i k →
        r = .error ⟨Cause.handle, 2, detail (hOff h +
          (((List.finRange 4).filter fun j => decide (j < k)).map fun j => (i j : Int) * hStr h j.val).sum)⟩

/-- R179, R180: SEAL seals this member's piece on each masked axis, and PLACE on each masked axis whose demand differs from the
current state, and asks the axis's home for the conversion.  Each begins the object's next conversion; the placement itself
changes only when a conversion ends. -/
def Obligations.SealsAndPlaces : Prop :=
  ∀ (s : State) (h : HReg) (m : BitVec 4), Plain s s.who →
    let hw := s.me.rh h
    let n := hObj hw
    ∀ o, hVal hw = true → s.objOf s.me n = some o → (∀ a : Fin 4, m.getLsbD a.val = true → o.axisSize a.val ≠ 0) →
      (∀ c ∈ s.convs, c.launch = s.launchId s.me → c.obj = n → c.sealed = false) →
      let released := fun (go : Fin 4 → Prop) => (∀ a, ¬ go a) ∨ (∀ a, go a → o.axisSize a.val < 2) ∧ Unposted s ∨ Quiet s
      let seals := fun (go : Fin 4 → Prop) (target : Fin 4 → Option (BitVec 4)) (t : State) =>
        t.me = { s.me with pc := nextPc s.me.pc 4 } ∧ (∀ w, w ≠ s.who → t.ctxOf w = s.ctxOf w) ∧ t.mem = s.mem ∧
        (∃ o', t.objOf t.me n = some o' ∧ o'.place = o.place ∧
          ∀ a : Fin 4, (go a → o'.sealed.getLsbD a.val = true ∧ o'.flight.getLsbD a.val = true) ∧
            (¬ go a → o'.sealed.getLsbD a.val = o.sealed.getLsbD a.val ∧ o'.flight.getLsbD a.val = o.flight.getLsbD a.val)) ∧
        ∀ a, go a → ∃ num, Msg.seal { domain := o.domain, axis := a, num := num } (o.station a 0) (target a) ∈ t.outbox
      (released (fun a => m.getLsbD a.val = true) → Runs (.seal h m) s (seals (fun a => m.getLsbD a.val = true) fun _ => none)) ∧
      (let want := fun (a : Fin 4) => (hView hw).extractLsb' (4 * a.val) 4
       let differs := fun (a : Fin 4) => m.getLsbD a.val = true ∧ want a ≠ 15 ∧ want a ≠ o.place.extractLsb' (4 * a.val) 4
       (∀ a, differs a → o.reachable a (want a) = true) → released differs →
        Runs (.place h m) s (seals differs fun a => some (want a)))

/-- R182: OBJQ's snapshots. -/
def Sys2Proof.Claims.ObjectQueries : Prop :=
  ∀ (s : State) (g : HReg) (d : SReg) (q : Byte), InBounds s [d] → q.toNat ≤ 7 →
    ∀ o, hVal (s.me.rh g) = true → s.objOf s.me (hObj (s.me.rh g)) = some o →
      ∃ v, v < 2 ^ 64 ∧ Runs (.objq g d q) s (WritesScalar s d (BitVec.ofNat 64 v) 4) ∧
        (q.toNat = 0 → (∀ a, a < 4 → v / 16 ^ a % 16 = if o.axisSize a = 0 then 15 else o.place.toNat / 16 ^ a % 16) ∧
          v / 2 ^ 16 % 16 = o.flight.toNat ∧ v / 2 ^ 20 % 16 = o.sealed.toNat ∧ v / 2 ^ 24 % 2 ^ 8 = 0 ∧ v / 2 ^ 32 = o.begun.toNat) ∧
        (q.toNat = 1 → v % 16 = o.status.toNat ∧ (v / 16 % 2 = 1 ↔ o.nan = true) ∧ v / 2 ^ 8 % 4 = o.axis.val ∧ v / 2 ^ 32 = o.num.toNat) ∧
        (q.toNat = 2 → v = o.missing.toNat) ∧
        (q.toNat = 3 → v % 2 ^ 32 = o.msize.toNat ∧ v / 2 ^ 32 = o.midx.toNat) ∧
        (q.toNat = 4 → v = o.size.toNat) ∧
        (q.toNat = 5 → v % 4 = o.kind.toNat ∧ (v / 4 % 2 = 1 ↔ o.fenced = true) ∧ (v / 8 % 2 = 1 ↔ o.detect = true) ∧
          v / 16 = o.fmt.toNat) ∧
        (q.toNat = 6 → v = ((s.heldNow (s.objKey o)).map fun h => h.stop.toNat).getD 0) ∧
        (q.toNat = 7 → v = ((s.heldNow (s.objKey o)).map fun h => h.token.toNat).getD 0)

/-- Element offsets with their checks and faults, and OBJQ's snapshots. -/
def Obligations.ElementsAndQueries : Prop :=
  ElementOffsets ∧ ObjectQueries

/-- An element of a scratch region passes the address check of R164 in the local window; other elements need none (R366). -/
abbrev Sys2Proof.Claims.InWindow (s : State) (o : Obj) (e n : Nat) (need : Need) : Prop :=
  o.kind = 2#2 → (reach s (BitVec.ofNat 64 (o.byteOf e)) n need).isSome = true

/-- R188: PST posts its element with the flag's place and goes on: the request carries the low bytes of Sv, the back-off
that BKOFF and BKLIM give at this moment, the instruction's address and the station of R405; nothing in memory changes yet. -/
def Sys2Proof.Claims.PostedStores : Prop :=
  ∀ (s : State) (z : Size) (h g : HReg) (i v : SReg), InBounds s [i, v] → Plain s s.who →
    ∀ o e fo f, elem s (s.me.rh h) (s.me.rs i) z false true = some (o, e) → elem s (s.me.rh g) 0 .d false true = some (fo, f) →
      InWindow s o e (sizeBytes z) .write → InWindow s fo f 8 .both →
      o.unmet (hView (s.me.rh h)) = [] → o.flight = 0#4 →
      s.postCount s.who < 64 → s.replayCount s.who < 16 → s.touchedRef s.me (s.elemRef o e) (sizeBytes z) = [] →
      let r := s.elemRef o e
      let context := { s.me with pc := nextPc s.me.pc 4, progress := { acc := 0, since := some s.cycle } }
      (s.noRoute r = false → Runs (.pst z h g i v) s fun t =>
        t.reqs = s.reqs ++ [{
          id := s.nextId, who := s.who, team := s.me.team, slot := s.me.slot, obj := hObj (s.me.rh h), elem := e, ref := r
          kind := .pst (leBytes (sizeBytes z) (s.me.rs v).toNat) (s.elemRef fo f)
          station := if s.servesRef r then none else s.planeOf r.node r.page
          sent := s.sendsNow s.nextId r (if s.servesRef r then none else s.planeOf r.node r.page)
          fill := false, bkoff := s.me.bkoff.toNat % 2 ^ 32, bklim := s.me.bklim.toNat % 256, attempts := 0, due := none, pc := s.me.pc
          before := s.me.order, epoch := (s.me.clock[s.me.rank]?.getD 0).toNat }] ∧
        t.me = context ∧ t.mem = s.mem ∧ t.outbox = s.outbox ∧ ∀ p, t.rawRead p 1 = s.rawRead p 1) ∧
      (s.noRoute r = true → Runs (.pst z h g i v) s fun t =>
        t.reqs = s.reqs ∧
        t.me = { context with deferred := s.me.deferred ++ [{ cause := Cause.route, sub := 0, addr := s.me.pc, order := s.nextId }] } ∧
        ∀ p, t.rawRead p 1 = s.rawRead p 1)

/-- R189, R190: PLD of a pool page that the package holds VALID under a current lease reads the copy, and PLD of a scratch
element reads the scratch.  PLD of a device-memory element, or of a pool element under no current lease, and PATOM send their request
and wait for its answer, without effect until then. -/
def Sys2Proof.Claims.PoolLoadsAndAtomics : Prop :=
  ∀ (s : State) (z : Size) (g : HReg) (d i : SReg), InBounds s [d, i] → Plain s s.who →
    let h := s.me.rh g
    (∀ (o : Obj) (e : Nat) c, elem s h (s.me.rs i) z true false = some (o, e) → o.unmet (hView h) = [] → o.kind = 0#2 →
      s.writePending s.who (s.elemRef o e) (sizeBytes z) = false →
      s.leaseCurrent (.pool o.poolid) = true → s.cachePage o.poolid (o.byteOf e / 65536) = some c → c.state = .valid →
      Runs (.pld z g d i) s (WritesScalar s d (BitVec.ofNat 64 (leNat (cellsRead c.data (o.byteOf e % 65536) (sizeBytes z)))) 4)) ∧
    (∀ (o : Obj) (e : Nat) q, elem s h (s.me.rs i) z true false = some (o, e) → o.unmet (hView h) = [] → o.kind = 2#2 →
      let a : Word := BitVec.ofNat 64 (o.byteOf e)
      reach s a (sizeBytes z) .read = some q → Clear s (sizeBytes z) q → Unwatched s a (sizeBytes z) q → s.isSw q.2 = false →
      Memory.wf s = true → HeldLines s → Runs (.pld z g d i) s (ReadsTo s q d (sizeBytes z))) ∧
    (∀ (o : Obj) (e : Nat), elem s h (s.me.rs i) z true false = some (o, e) → o.unmet (hView h) = [] →
      (o.kind = 1#2 ∨ o.kind = 0#2 ∧ s.leaseCurrent (.pool o.poolid) = false) →
      s.writePending s.who (s.elemRef o e) (sizeBytes z) = false → s.touchedRef s.me (s.elemRef o e) (sizeBytes z) = [] →
      s.noRoute (s.elemRef o e) = false →
      Runs (.pld z g d i) s fun t =>
        (∃ r : Req, t.reqs = s.reqs ++ [r] ∧ r.id = s.nextId ∧ r.who = s.who ∧ r.ref = s.elemRef o e ∧ r.kind = .pld d (sizeBytes z)) ∧
        t.me = { s.me with blocked := some (.remote s.nextId) } ∧ ∀ p, t.rawRead p 1 = s.rawRead p 1) ∧
    (∀ (p : AtomOp) (y : PoolSize) (o : Obj) (e : Nat), elem s h 0 (if y = .d then Size.d else Size.w) true true = some (o, e) →
      (hFmt h = 0xA2#8 ∨ hFmt h = 0xC1#8) → o.unmet (hView h) = [] → o.flight = 0#4 →
      InWindow s o e (if y = .d then 8 else 4) .both → Quiet s →
      s.noRoute (s.elemRef o e) = false →
      Runs (.patom p y g d i) s fun t =>
        (∃ r : Req, t.reqs = s.reqs ++ [r] ∧ r.id = s.nextId ∧ r.who = s.who ∧ r.ref = s.elemRef o e ∧
          r.kind = .patom d p (y == .d) (s.me.rs i) (s.me.rs d)) ∧
        t.me = { s.me with blocked := some (.remote s.nextId), progress := { acc := 0, since := some s.cycle } } ∧
        ∀ p, t.rawRead p 1 = s.rawRead p 1)

/-- PST posts and goes on; PLD reads a valid copy or asks, and PATOM asks and waits. -/
def Obligations.PoolAccesses : Prop :=
  PostedStores ∧ PoolLoadsAndAtomics

/-- R191, R192, R361: LSACQ asks the holder for a lease of LTERM microseconds (5,000 where LTERM is 0) and waits; LSREL of an object
that is not held moves on, of one held more than once takes one off the count, and of one held once sends the release and waits: the
hold and the cached pages go when it is answered. -/
def Sys2Proof.Claims.PoolLeases : Prop :=
  ∀ (s : State) (g : HReg) (d : SReg), InBounds s [d] → Plain s s.who →
    let h := s.me.rh g
    ∀ o, hVal h = true → s.objOf s.me (hObj h) = some o → (o.kind = 0#2 ∨ o.kind = 1#2 ∧ o.fenced = true) →
      let k := s.objKey o
      let asks := fun (kind : ReqKind) (t : State) =>
        (∃ r, t.reqs.getLast? = some r ∧ r.id = s.nextId ∧ r.who = s.who ∧ r.ref = s.elemRef o 0 ∧ r.kind = kind) ∧
        t.nextId = s.nextId + 1 ∧ t.me = { s.me with blocked := some (.remote s.nextId) }
      (s.noRoute (s.elemRef o 0) = false → Runs (.lsacq g d) s fun t =>
        asks (.lsacq d (if s.mgmt.lterm.toNat % 2 ^ 32 = 0 then 5000 else BitVec.ofNat 64 (s.mgmt.lterm.toNat % 2 ^ 32))) t ∧
        t.holds = s.holds ∧ t.cache = s.cache ∧ t.mem = s.mem) ∧
      (Quiet s → s.heldNow k = none → Runs (.lsrel g) s fun t => t = s.setCtx s.who { s.me with pc := nextPc s.me.pc 4 }) ∧
      (Quiet s → ∀ l, s.heldNow k = some l → 1 < l.count → Runs (.lsrel g) s fun t =>
        t = { s with holds := s.holds.map fun (m : Hold) => if m.key = k then { m with count := m.count - 1 } else m }.setCtx s.who
          { s.me with pc := nextPc s.me.pc 4 }) ∧
      (Quiet s → ∀ l, s.heldNow k = some l → l.count = 1 → (∀ r ∈ s.reqs, ∀ e ∈ r.targets, e.1.key ≠ k) →
        s.noRoute (s.elemRef o 0) = false →
        Runs (.lsrel g) s fun t => asks .lsrel t ∧ t.holds = s.holds ∧ t.cache = s.cache ∧ t.mem = s.mem)

/-- R405, R412: the requests and page fetches that wait to be sent: one is sent when the station that R405 now gives it does not
retrain and no earlier request to its page, or fetch of the page, is unanswered on another station (of a conversion's chunks no more
than eight are out at once, R424); one without a live station is not sent; one that has been sent stays as it is, and where all have
been sent nothing changes. -/
def Sys2Proof.Claims.WaitingRequests : Prop :=
  ∀ s : State,
    ((∀ q ∈ s.reqs, q.sent = true) → (∀ c ∈ s.cache, ∀ f, c.fetch = some f → f.sent = true) → s.sendWaiting = s) ∧
    s.sendWaiting = { s with reqs := s.sendWaiting.reqs, cache := s.sendWaiting.cache } ∧
    s.sendWaiting.reqs.length = s.reqs.length ∧
    ∀ (k : Nat) (q : Req), s.reqs[k]? = some q → ∃ q', s.sendWaiting.reqs[k]? = some q' ∧ (q.sent = true → q' = q) ∧
      (q.sent = false → q.isSlot = false →
        let via := if s.servesRef q.ref then none else s.planeOf q.ref.node q.ref.page
        q' = { q with station := via, sent := q'.sent } ∧
        (q'.sent = true ↔ s.chunkWaits q = false ∧
          (match via with
            | some j => s.stations[j].state ≠ .train
            | none => s.servesRef q.ref = true) ∧
          (∀ p ∈ s.reqs, p.isSlot = false → p.id < q.id → p.ref.node = q.ref.node → p.ref.page = q.ref.page →
            p.station = none ∨ p.station = via) ∧
          ∀ c ∈ s.cache, ∀ f, c.fetch = some f → c.page = q.ref.page → f.id < q.id → f.node = q.ref.node →
            f.station = none ∨ f.station = via))

/-- R186 to R192, R385: what an answer from outside does to the request it answers: data and tokens reach Sd and the instruction
completes; an acknowledgement of a PST retires it; a lease granted is held, with one more on its count when it extends a current one,
and one released is gone with the cached pages; receiver-not-ready schedules another attempt after BKOFF × 2^attempts while the
replay queue has room, or fails with POOLRNR when BKLIM is reached; a fault is taken by the instruction, or deferred for a PST. -/
def Sys2Proof.Claims.RemoteAnswers : Prop :=
  ∀ (s : State) (r : Req), s.reqs.find? (fun q => q.id == r.id) = some r → r.scalar = true → r.due = none → r.fill = false →
    r.sent = true → s.servesRef r.ref = false → s.behindPst r = false →
    let x := s.ctxOf r.who
    let settled := fun (s : State) => { s with
      reqs := s.reqs.filter fun q => q.id != r.id, lineq := s.lineq.filter fun l => l.inbound || l.req != some r.id }.sendWaiting
    let gone := fun (t : State) => (∀ q ∈ t.reqs, q.id ≠ r.id) ∧ t.mem = s.mem
    let resumed := fun (y : Ctx) => { y with pc := nextPc y.pc 4, blocked := none, run := .active, since := s.cycle }
    let waits := x.team = r.team ∧ x.blocked = some (.remote r.id) ∧ x.run = .active
    let dev := fun (e : ElemRef) => ∃ n b, e.key = .dev n b
    let still := (∀ q ∈ s.reqs, q.fill = false) ∧ s.convs = []
    let hold := s.holds.find? fun h => h.key == r.ref.key
    (∀ d n v w, r.kind = .pld d n → waits → Runs (.remoteAnswer r.id (.data v w)) s fun t =>
      t = (settled s).setCtx r.who (resumed (x.ws d v))) ∧
    (∀ d op wide a e v w, r.kind = .patom d op wide a e → waits → s.convs = [] → Runs (.remoteAnswer r.id (.data v w)) s fun t =>
      t.ctxOf r.who = resumed (x.ws d v) ∧ gone t ∧
      (dev r.ref → still → t = (settled s).setCtx r.who (resumed (x.ws d v)))) ∧
    (∀ bs f, r.kind = .pst bs f → s.convs = [] → Runs (.remoteAnswer r.id .ack) s fun t =>
      gone t ∧ (dev r.ref → dev f → still → t = settled s)) ∧
    (∀ d term stop token version, r.kind = .lsacq d term → waits →
      let more := s.leaseCurrent r.ref.key = true ∧ ∃ h, hold = some h ∧ h.token = token
      Runs (.remoteAnswer r.id (.grant stop token version)) s fun t =>
        t.ctxOf r.who = resumed (x.ws d token) ∧ gone t ∧
        ∃ n, t.holds = ({ key := r.ref.key, count := n, stop := stop, token := token } : Hold) ::
            (s.holds.filter fun h => h.key != r.ref.key) ∧
          (more → ∀ h, hold = some h → n = h.count + 1) ∧ (¬ more → n = 1)) ∧
    (r.kind = .lsrel → waits → s.convs = [] → Runs (.remoteAnswer r.id .released) s fun t =>
      t.ctxOf r.who = resumed x ∧ gone t ∧ t.holds = (s.holds.filter fun h => h.key != r.ref.key) ∧
      ∀ c ∈ t.cache, r.ref.key ≠ .pool c.poolid) ∧
    (r.isSlot = false → r.attempts < r.bklim → (0 < r.attempts ∨ s.replayCount r.who < 16) →
      Runs (.remoteAnswer r.id .rnr) s fun t =>
      t = { s with reqs := s.reqs.map fun (q : Req) => if q.id = r.id then
        { q with attempts := q.attempts + 1, due := some (s.gtc.toNat + r.bkoff * 2 ^ min r.attempts 16) } else q }) ∧
    (∀ bs f c, r.kind = .pst bs f → x.team = r.team → x.ended = false →
      Runs (.remoteAnswer r.id (.fault (.linkkey c))) s fun t =>
        t = (settled s).setCtx r.who
          { x with deferred := x.deferred ++ [({ cause := Cause.linkkey, sub := 0, addr := r.pc, order := r.id } : Deferred)] }) ∧
    (∀ d n, r.kind = .pld d n → waits → x.mode = .user → x.traphnd ≠ 0 → Plain s r.who →
      (r.bklim ≤ r.attempts → Runs (.remoteAnswer r.id .rnr) s fun t =>
        gone t ∧ (t.ctxOf r.who).pc = entryPc x.traphnd ∧ (t.ctxOf r.who).mode = .handler ∧ (t.ctxOf r.who).trappc = x.pc ∧
        (t.ctxOf r.who).trapcause.extractLsb' 0 8 = Cause.poolrnr ∧ (t.ctxOf r.who).s = x.s) ∧
      ∀ worn, Runs (.remoteAnswer r.id (.fault (.ecc worn))) s fun t =>
        gone t ∧ (t.ctxOf r.who).pc = entryPc x.traphnd ∧ (t.ctxOf r.who).mode = .handler ∧ (t.ctxOf r.who).trappc = x.pc ∧
        (t.ctxOf r.who).trapcause.extractLsb' 0 16 = (if worn = true then 2#8 else 1#8) ++ Cause.ecc ∧ (t.ctxOf r.who).trapval = BitVec.ofNat 64 r.ref.addr ∧
        (t.ctxOf r.who).s = x.s)

/-- LSACQ and LSREL, what every kind of remote answer does to its request, and which requests that waited then go out. -/
def Obligations.LeasesAndAnswers : Prop :=
  PoolLeases ∧ RemoteAnswers ∧ WaitingRequests

/-- R186, R191, R369, R371, R374: a request whose back-off has passed is sent again, and before that nothing happens; a fill makes its page
VALID under a current lease and serves the PLD that waits; a prefetched page is held AHEAD with its version; a lapsed lease
loses its hold. -/
def Obligations.PoolEvents : Prop :=
  ∀ s : State,
    (∀ (r : Req) (due : Nat), s.reqs.find? (fun q => q.id == r.id) = some r → r.due = some due → r.isSlot = false → r.fill = false →
      (s.gtc.toNat < due → Runs (.replayRetry r.id) s fun t => t = s) ∧
      (due ≤ s.gtc.toNat → s.noRoute r.ref = false → s.servesRef r.ref = false →
        (∀ q ∈ s.reqs, q.id = r.id → q = r) → Runs (.replayRetry r.id) s fun t =>
        t = { s with reqs := s.reqs.map fun (q : Req) => if q.id = r.id then
          { r with
            due := none, station := s.planeOf r.ref.node r.ref.page
            sent := s.sendsNow r.id r.ref (s.planeOf r.ref.node r.ref.page) } else q })) ∧
    (∀ (id : Word) (page : Nat) (c : CachePage) (bs : List Byte) (v : Word) (r : Req) (d : SReg) (n : Nat),
      s.cachePage id page = some c → c.state = .filling [] → (∃ f, c.fetch = some f ∧ f.sent = true) →
      s.leaseCurrent (.pool id) = true → s.prefetch = [] → s.convs = [] →
      s.fillReqs id page = [r] → r.due = none → s.writePending r.who r.ref n = false → r.kind = .pld d n → s.waitsFor r = true → (s.ctxOf r.who).run = .active →
      r.ref.addr % 65536 + n ≤ 65536 → bs.length = 65536 → d ≠ 0 →
      Runs (.poolCacheFill id page (.page bs v)) s fun t =>
        (∃ e, t.cachePage id page = some e ∧ e.state = .valid ∧ ∀ k, k < 65536 → bs[k]? = some (cellGet e.data k)) ∧
        (t.ctxOf r.who).rs d = BitVec.ofNat 64 (leNat ((bs.drop (r.ref.addr % 65536)).take n)) ∧
        (t.ctxOf r.who).pc = nextPc (s.ctxOf r.who).pc 4 ∧ (t.ctxOf r.who).blocked = none ∧
        (∀ q ∈ t.reqs, q.id ≠ r.id) ∧ t.mem = s.mem) ∧
    (∀ (id : Word) (page : Nat) (c : CachePage) (bs : List Byte) (v : Word),
      s.cachePage id page = some c → c.state = .fetching → s.prefetch = [] →
      (Runs (.prefetchPageAnswer id page (.page bs v)) s fun t =>
        (∃ e, t.cachePage id page = some e ∧ e.state = .ahead v) ∧ t.mem = s.mem ∧ t.cores = s.cores) ∧
      Runs (.prefetchPageAnswer id page .rnr) s fun t => t.cachePage id page = none ∧ t.mem = s.mem ∧ t.cores = s.cores) ∧
    (∀ (id : Word), s.convs = [] → Runs (.poolLeaseLapse id) s fun t =>
      t.holds = s.holds.filter (fun h => !((match h.key with
        | .pool i => i == id
        | .dev _ b => b == id) && h.stop.toNat ≤ s.gtc.toNat)) ∧
      (∀ h ∈ s.holds, h.key = .pool id → h.stop.toNat ≤ s.gtc.toNat + s.guardNs → ∀ c ∈ t.cache, c.poolid ≠ id) ∧
      t.mem = s.mem ∧ t.cores = s.cores)

/-- Bytes of one page that translate for a need, and hold no poison: the place, and the state after the look-up. -/
abbrev Sys2Proof.Claims.inPage (s : State) (slot : Fin 16) (a : Word) (n : Nat) (need : Need) (q : State × Nat) : Prop :=
  2 ^ 48 ≤ a.toNat ∧ 0 < n ∧ a.toNat % 65536 + n ≤ 65536 ∧ s.xlate slot a.toNat need = (q.1, .ok q.2) ∧ q.1.poisoned q.2 n = false

/-- R190, R384, R418, R474: what this package does for others.  A write puts its bytes, with the scale words of its blocks in the same
access (R64), then adds one to its flag, and is acknowledged on the station of R405; a flag that is not homed here is refused; a read
answers the bytes; an atomic answers the old value; a token below the highest granted is refused with FENCED, with no effect; a lease
is granted with the next token, extended for its holder, and refused to others. -/
def Sys2Proof.Claims.ServedNow : Prop :=
  ∀ s : State, s.mgmt.pkghlt = false → s.inbox = [] → s.lineq = [] → Memory.wf s = true → HeldPages s →
    let live := fun (v : Fin 64) => s.stations[v].state ≠ .keyexh
    let answer := fun (dest : BitVec 11) (a : Word) (v : Answer) => s.outbox ++ [Msg.reply dest (s.planeOf dest (a.toNat / 65536)) v]
    let apart := fun (p n q m : Nat) => p + n ≤ q ∨ q + m ≤ p
    (∀ (m : RemWrite) (q : State × Nat), live m.via → m.fenced = false → m.flag = none → m.scale = none →
      inPage s m.slot m.addr m.data.length .write q →
      Runs (.remoteWriteRequest m) s fun t =>
        (∀ k, k < m.data.length → some (cellGet t.mem (q.2 + k)) = m.data[k]?) ∧
        (∀ p, p < q.2 ∨ q.2 + m.data.length ≤ p → cellGet t.mem p = cellGet s.mem p) ∧
        t.outbox = answer m.src m.addr .ack ∧ t.cores = s.cores) ∧
    (∀ (m : RemWrite) (q f : State × Nat) (a : Word) (words : List Byte), live m.via → m.fenced = false → m.flag = none →
      m.scale = some (a, words) → inPage s m.slot m.addr m.data.length .write q → inPage q.1 m.slot a words.length .write f →
      apart q.2 m.data.length f.2 words.length →
      Runs (.remoteWriteRequest m) s fun t =>
        (∀ k, k < m.data.length → some (cellGet t.mem (q.2 + k)) = m.data[k]?) ∧
        (∀ k, k < words.length → some (cellGet t.mem (f.2 + k)) = words[k]?) ∧
        (∀ p, p < q.2 ∨ q.2 + m.data.length ≤ p → p < f.2 ∨ f.2 + words.length ≤ p → cellGet t.mem p = cellGet s.mem p) ∧
        t.outbox = answer m.src m.addr .ack ∧ t.cores = s.cores) ∧
    (∀ (m : RemWrite) (q f : State × Nat) (a : Word), live m.via → m.fenced = false → m.scale = none → m.flag = some a →
      m.flagNode = s.ownNode → m.flagFenced = false → a.toNat % 8 = 0 →
      inPage s m.slot m.addr m.data.length .write q → inPage q.1 m.slot a 8 .both f → apart q.2 m.data.length f.2 8 →
      Runs (.remoteWriteRequest m) s fun t =>
        (∀ k, k < m.data.length → some (cellGet t.mem (q.2 + k)) = m.data[k]?) ∧
        leNat (cellsRead t.mem f.2 8) = (leNat (cellsRead s.mem f.2 8) + 1) % 2 ^ 64 ∧
        t.outbox = answer m.src m.addr .ack ∧ t.cores = s.cores) ∧
    (∀ (m : RemWrite), live m.via → m.flag.isSome = true → m.flagNode ≠ s.ownNode → Runs (.remoteWriteRequest m) s fun t =>
      t = { s with outbox := answer m.src m.addr (.fault .handle) }) ∧
    (∀ m : RemWrite, live m.via → m.flag = none ∨ m.flagNode = s.ownNode → m.fenced = true →
      m.token = 0 ∨ (∃ e, s.leases.find? (fun f => f.base == m.base) = some e ∧ m.token.toNat < e.token.toNat) →
      Runs (.remoteWriteRequest m) s fun t => t = { s with outbox := answer m.src m.addr (.fault .fenced) }) ∧
    (∀ (m : RemRead) (q : State × Nat), live m.via → m.scale = none → inPage s m.slot m.addr m.len .read q →
      Runs (.remoteReadRequest m) s fun t =>
        t.outbox = s.outbox ++ [Msg.readReply m.src (s.planeOf m.src (m.addr.toNat / 65536)) (cellsRead s.mem q.2 m.len) []] ∧
        t.mem = s.mem ∧ t.cores = s.cores) ∧
    (∀ (m : RemRead) (q f : State × Nat) (a : Word) (n : Nat), live m.via → m.scale = some (a, n) →
      inPage s m.slot m.addr m.len .read q → inPage q.1 m.slot a n .read f → Runs (.remoteReadRequest m) s fun t =>
        t.outbox = s.outbox ++ [Msg.readReply m.src (s.planeOf m.src (m.addr.toNat / 65536)) (cellsRead s.mem q.2 m.len)
          (cellsRead s.mem f.2 n)] ∧
        t.mem = s.mem ∧ t.cores = s.cores) ∧
    (∀ (m : RemAtomic) (q : State × Nat), live m.via → m.fenced = false → m.op = .add → m.wide = true → m.addr.toNat % 8 = 0 →
      inPage s m.slot m.addr 8 .both q → Runs (.remoteAtomicRequest m) s fun t =>
        let old := leNat (cellsRead s.mem q.2 8)
        let new := (old + m.x.toNat) % 2 ^ 64
        leNat (cellsRead t.mem q.2 8) = new ∧
        t.outbox = answer m.src m.addr (.data (BitVec.ofNat 64 old) (BitVec.ofNat 64 new)) ∧ t.cores = s.cores) ∧
    (∀ (v : Fin 64) (src : BitVec 11) (base term : Word), live v →
      let stop := s.gtc + term * 1000
      let find := s.leases.find? fun f => f.base == base
      ((∀ e ∈ s.leases, e.base ≠ base) → s.leases.length < 1024 → Runs (.leaseRequest ⟨v, src⟩ base term) s fun t =>
        t = { s with leases := s.leases ++ [{ base := base, stop := stop, token := 1, holder := some src }]
                     outbox := answer src base (.grant stop 1 0) }) ∧
      (∀ e h, find = some e → e.holder = some h → s.gtc.toNat < e.stop.toNat →
        (h ≠ src → Runs (.leaseRequest ⟨v, src⟩ base term) s fun t => t = { s with outbox := answer src base .rnr }) ∧
        (h = src → Runs (.leaseRequest ⟨v, src⟩ base term) s fun t => t.outbox = answer src base (.grant stop e.token 0))) ∧
      (∀ e, find = some e → e.holder = none ∨ e.stop.toNat ≤ s.gtc.toNat → Runs (.leaseRequest ⟨v, src⟩ base term) s fun t =>
        t.outbox = answer src base (.grant stop (e.token + 1) 0)) ∧
      Runs (.leaseRelease ⟨v, src⟩ base) s fun t =>
        t.outbox = answer src base .released ∧
        (∀ e ∈ t.leases, e.base = base → e.holder ≠ some src) ∧ t.mem = s.mem ∧ t.cores = s.cores)

/-- R401, R411: a request that a link in KEYEXH carries is answered receiver-not-ready, and while the package is halted one waits in its
queue, up to half its depth, which is open (log 12). -/
def Sys2Proof.Claims.HeldRequests : Prop :=
  ∀ s : State,
    let requests := fun (v : Fin 64) (p : Instr → BitVec 11 → Nat → Inbound → Prop) =>
      (∀ m : RemWrite, m.via = v → p (.remoteWriteRequest m) m.src (m.addr.toNat / 65536) (.write m)) ∧
      (∀ m : RemRead, m.via = v → p (.remoteReadRequest m) m.src (m.addr.toNat / 65536) (.read m)) ∧
      (∀ m : RemAtomic, m.via = v → p (.remoteAtomicRequest m) m.src (m.addr.toNat / 65536) (.atomic m)) ∧
      (∀ src base term, p (.leaseRequest ⟨v, src⟩ base term) src (base.toNat / 65536) (.lease src base term)) ∧
      (∀ src base, p (.leaseRelease ⟨v, src⟩ base) src (base.toNat / 65536) (.release src base)) ∧
      ∀ m : ConvMsg, m.via = v → m.src ≠ s.mgmt.stnid →
        let conv := fun (i : Instr) (b : ConvBody) => p i (m.src.setWidth 11) 0 (.conv m.key m.src b)
        (∀ k tg, conv (.convSealMessage m k tg) (.seal k tg)) ∧ (∀ tg me, conv (.convStartMessage m tg me) (.start tg me)) ∧
        (∀ f bs, conv (.convChunkWrite m f bs) (.chunk f bs)) ∧ (∀ n, conv (.convDoneMessage m n) (.done n)) ∧
        ∀ w, conv (.convAbortMessage m w) (.abort w)
    ∀ v : Fin 64,
      (s.stations[v].state = .keyexh → requests v fun i src page _ => Runs i s fun t =>
        t = { s with outbox := s.outbox ++ [Msg.reply src (s.planeOf src page) .rnr] }) ∧
      (s.stations[v].state ≠ .keyexh → s.mgmt.pkghlt = true → s.lineq = [] → s.inbox.length ≤ Config.ingressHalf →
        requests v fun i _ _ b => Runs i s fun t => t = { s with inbox := s.inbox ++ [(s.nextId, b)], nextId := s.nextId + 1 })

/-- What this package does for others at once, and what it holds back.  That a handle that names another object or launch is refused before the
fence and the translation are looked at is the model's choice (log 34). -/
def Obligations.ServedRequests : Prop :=
  ServedNow ∧ HeldRequests

/-- R414, R416: a request for another station is relayed on the road of R405 with its count raised, up to three times, and a record is
kept of it until its answer travels back to its source; after three relays, and where there is no road, it is answered ROUTE with this
package's station, and receiver-not-ready where its lane is quiescing or the link that carried it is in KEYEXH (R411). -/
def Sys2Proof.Claims.Relays : Prop :=
  ∀ (s : State) (v : Fin 64) (src dst : BitVec 11) (page count : Nat),
    let back := fun (a : Answer) (t : State) => t = { s with outbox := s.outbox ++ [.relayAnswer src (s.planeOf src page) a] }
    let route := back (.fault (.route s.ownStation))
    let i : Instr := .relayRequest (.request v src dst) page count
    (s.stations[v].state = .keyexh → Runs i s (back .rnr)) ∧
    (s.stations[v].state ≠ .keyexh →
      (3 ≤ count → Runs i s route) ∧
      (count < 3 → s.quietLane dst = true → Runs i s (back .rnr)) ∧
      (count < 3 → s.quietLane dst = false →
        (s.planeOf dst page = none → Runs i s route) ∧
        ∀ k, s.planeOf dst page = some k → Runs i s fun t => t = { s with
          relays := s.relays ++ [{ id := s.nextId, src := src, page := page, station := k }], nextId := s.nextId + 1,
          outbox := s.outbox ++ [.relay dst k (count + 1)] })) ∧
    ∀ (r : RelayRec) (a : Answer), s.relays.find? (fun q => q.id == r.id) = some r →
      Runs (.relayRequest (.answer r.id a) page count) s fun t => t = { s with
        relays := s.relays.filter fun q => q.id != r.id
        outbox := s.outbox ++ [.relayAnswer r.src (s.planeOf r.src r.page) a] }

/-- R414: an answer for another station that this package has no record of goes on by the same rules. -/
def Sys2Proof.Claims.PassingAnswers : Prop :=
  ∀ (s : State) (v : Fin 64) (dst : BitVec 11) (a : Answer) (page count : Nat), dst ≠ s.ownNode →
    Runs (.relayRequest (.passing v dst a) page count) s fun t =>
      t = { s with outbox := s.outbox ++ [.relayAnswer dst (s.planeOf dst page) a] }

/-- R405: plane routing takes the first live station, not a direct lane, from the page number plus the destination on; a live
station that DLROUTE names for the destination comes first. -/
def Sys2Proof.Claims.PlaneRouting : Prop :=
  ∀ (s : State) (dst : BitVec 11) (page : Nat),
    let usable := fun (k : Fin 64) => s.stations[k].live = true ∧ s.stations[k].lane = false
    ((∀ e ∈ s.mgmt.dlroute.toList, ¬ (e.getLsbD 0 = true ∧ dst.getLsbD 10 = false ∧ e.toNat / 2 % 1024 = dst.toNat % 1024)) →
      (∀ k, s.planeOf dst page = some k ↔
        usable k ∧ ∀ j : Nat, j < (k.val + 128 - (page + dst.toNat) % 64) % 64 → ∀ i : Fin 64, i.val = (page + dst.toNat + j) % 64 → ¬ usable i) ∧
      (s.planeOf dst page = none ↔ ∀ k, ¬ usable k)) ∧
    (∀ e, s.mgmt.dlroute.toList.find? (fun e => e.getLsbD 0 && !dst.getLsbD 10 && e.toNat / 2 % 1024 == dst.toNat % 1024) = some e →
      ∀ k : Fin 64, k.val = e.toNat / 2 ^ 11 % 64 → s.stations[k].live = true → s.planeOf dst page = some k)

/-- Relayed requests up to three times, and the station that plane routing takes. -/
def Obligations.RelaysAndRoutes : Prop :=
  Relays ∧ PassingAnswers ∧ PlaneRouting

/-- R424 to R426: the messages of a conversion from another package, on a link that is not in KEYEXH, while nothing waits before them.  A
SEAL reaches the record at the home, which with a target starts the conversion for every member, of a reduction once the switch has
granted the slots that it asks for (on which plane, and how often it asks again, is open: log 59); START reaches the member's record;
a chunk is staged and acknowledged; DONE ends the conversion with the new placement, ABORT with the old one; a message for a domain
that no launch holds is refused. -/
def Sys2Proof.Claims.MessagesArrive : Prop :=
  ∀ (s : State) (m : ConvMsg), m.src ≠ s.mgmt.stnid → s.stations[m.via].state ≠ .keyexh → s.mgmt.pkghlt = false → s.inbox = [] →
    let key := m.key
    (s.domainObj key = none →
      let no := fun (t : State) => t = { s with outbox := s.outbox ++ [.noDomain key m.src] }
      (∀ k tg, Runs (.convSealMessage m k tg) s no) ∧ (∀ tg me, Runs (.convStartMessage m tg me) s no) ∧
      (∀ f bs, Runs (.convChunkWrite m f bs) s no) ∧ (∀ n, Runs (.convDoneMessage m n) s no) ∧
      (∀ w, Runs (.convAbortMessage m w) s no) ∧ (∀ k, Runs (.convNodomain m k false) s no)) ∧
    ∀ l n o, s.domainObj key = some (l, n, o) →
      (∀ (k : Fin 64) (tg : BitVec 4), o.isHome key.axis = true → k.val < o.axisSize key.axis → k.val ≠ 0 →
        (∀ h ∈ s.homes, h.key.domain ≠ key.domain) → s.stale o key = false →
        let home : Home := { key := key, target := some tg, sealed := BitVec.twoPow 64 k.val, started := true, missing := 0,
                             since := s.gtc.toNat, asks := [] }
        (o.state key.axis = tg ∨ isPartial (o.state key.axis) = false → Runs (.convSealMessage m k (some tg)) s fun t =>
          t.homeFor key = some home ∧ t.cores = s.cores ∧
          ∀ k, k < o.axisSize key.axis → Msg.start key (o.station key.axis k) tg
            (if o.state key.axis ≠ tg ∧ isShard (o.state key.axis) = true then .exchange else .keep) ∈ t.outbox) ∧
        (o.state key.axis ≠ tg → isPartial (o.state key.axis) = true → ∀ c st, o.reduceChunks key.axis tg = [c] → s.slotPlane = some st →
          let what : SlotWants := { nidx := o.axisSize key.axis, rop := (o.state key.axis).toNat - 8, fmt := o.fmt.toNat
                                    len := c.1.2 * o.width / 8, tmo := s.cvtmo, dest := c.2 }
          Runs (.convSealMessage m k (some tg)) s fun t =>
            t.homeFor key = some { home with started := false, since := 0
                                             asks := [{ id := s.nextId, plane := st, name := none, attempts := 0, due := none, what := what }] } ∧
            t.outbox = s.outbox ++ [.alloc s.nextId st what] ∧ t.cores = s.cores)) ∧
      (∀ (tg : BitVec 4) (me : ConvMethod), o.isHome key.axis = false → o.reachable key.axis tg = true → s.stale o key = false →
        o.axisSize key.axis = 1 ∨ methodFits (o.state key.axis) tg me = true → Runs (.convStartMessage m tg me) s fun t =>
          (∃ c, t.convOf key = some c ∧ c.start = some (tg, me)) ∧ t.cores = s.cores ∧ t.launches = s.launches) ∧
      (∀ (f : Nat) (bs : List Byte) (c : Conv), s.convOf key = some c → c.ending = none →
        (∀ tg names, c.start ≠ some (tg, .reduce names)) → s.stale o key = false → s.chunkFull key f bs = false →
        Runs (.convChunkWrite m f bs) s fun t =>
          (∃ c', t.convOf key = some c' ∧ (∀ i ∈ o.chunkItems f bs, i ∈ c'.staged) ∧ c'.start = c.start) ∧
          t.outbox = s.outbox ++ [.reply (m.src.setWidth 11) (s.planeOf (m.src.setWidth 11) (o.byteOf f / 65536)) .ack] ∧
          t.cores = s.cores ∧ t.mem = s.mem) ∧
      (∀ (nan : Bool) (c : Conv) (tg : BitVec 4) (me : ConvMethod) l' p, s.convOf key = some c → c.start = some (tg, me) →
        c.ending = none → s.launchAt c.launch = some l' → l'.obj c.obj = some p → o.isHome key.axis = false → o.kind ≠ 0#2 →
        c.complete o = true → Runs (.convDoneMessage m nan) s fun t =>
          t.convOf key = none ∧ ∃ p', (t.launchAt c.launch).bind (fun l => l.obj c.obj) = some p' ∧ p'.status = 2#4 ∧
            p'.place.extractLsb' (4 * key.axis.val) 4 = tg ∧ p'.flight.getLsbD key.axis.val = false ∧
            p'.sealed.getLsbD key.axis.val = false ∧ p'.axis = key.axis ∧ p'.num = key.num ∧
            (p'.nan = true ↔ nan = true ∧ isPartial (o.state key.axis) = true ∧ o.axisSize key.axis ≠ 1)) ∧
      (∀ (missing : Word) (c : Conv) p, s.convOf key = some c → c.ending = none →
        (s.launchAt c.launch).bind (fun l => l.obj c.obj) = some p → Runs (.convAbortMessage m missing) s fun t =>
          t.convOf key = none ∧ ∃ p', (t.launchAt c.launch).bind (fun l => l.obj c.obj) = some p' ∧ p'.status = 3#4 ∧
            p'.place = p.place ∧ p'.missing = missing ∧ p'.flight.getLsbD key.axis.val = false)

/-- R420, R425, R426: what becomes of a conversion that fails.  A refusal of a message makes a member one that does not contribute, at
the home, and ends the conversion as aborted at a member whose SEAL is refused; a chunk that has failed, a slot that times out and one
that cannot be had abort it, and the home sends ABORT; a slot is asked for again after its back-off (log 59), and the last that is granted starts a
reduction. -/
def Sys2Proof.Claims.ConversionsFail : Prop :=
  ∀ (s : State) (m : ConvMsg) (l : Launch) (n : Nat) (o : Obj), s.domainObj m.key = some (l, n, o) →
    let key := m.key
    (∀ (k : Fin 64) (h : Home), s.homeFor key = some h → (∀ r ∈ s.reqs, r.conv ≠ some key) → Runs (.convNodomain m k true) s fun t =>
      t = { s with homes := s.homes.map fun (g : Home) => if g.key = key then { g with missing := g.missing ||| BitVec.twoPow 64 k.val } else g }) ∧
    (∀ (c : Conv) p, s.homeFor key = none → s.convOf key = some c → c.sealed = true → c.ending = none →
      (s.launchAt c.launch).bind (fun l => l.obj c.obj) = some p → Runs (.convNodomain m 0 true) s fun t =>
        t.convOf key = none ∧ ∃ p', (t.launchAt c.launch).bind (fun l => l.obj c.obj) = some p' ∧ p'.status = 3#4 ∧
          p'.place = p.place ∧ p'.missing = 1#64) ∧
    ∀ h : Home, s.homeFor key = some h →
      let aborts := fun (missing : Word) (t : State) => t.homeFor key = none ∧ t.cores = s.cores ∧
        ∀ k, k < o.axisSize key.axis → Msg.convAbort key (o.station key.axis k) missing ∈ t.outbox
      (∀ missing : Word, missing ||| h.missing ≠ 0 →
        h.missing.getLsbD 0 = true ∨ h.started = true ∧ (∀ k, (missing ||| h.missing).getLsbD k = true →
          h.since + s.cvtmoNs * o.chunksOf key.axis (h.target.getD 0) k ≤ s.gtc.toNat ∨
          k ≠ o.member key.axis ∧ s.planeOf ((o.station key.axis k).setWidth 11) 0 = none) →
        Runs (.convChunkTimeout key missing) s (aborts (missing ||| h.missing))) ∧
      (∀ (r : Req) (name missing : Word) (i f : Nat) (bs : List Byte), s.reqAt r.id = some r → r.kind = .slotChunk name i f bs →
        r.sent = true → r.conv = some key → missing ≠ 0 → Runs (.slotTimeout r.id missing) s (aborts (missing ||| h.missing))) ∧
      ∀ (a : SlotAsk) (name : Word), h.asks = [a] → s.homes = [h] → s.reqAt a.id = none →
        (a.name = none → a.due = none → Runs (.slotUnknown a.id) s (aborts (1 ||| h.missing)) ∧
          (Runs (.remoteAnswer a.id .rnr) s fun t =>
            if a.attempts < Config.convBklim then t = { s with homes := [{ h with asks := [{ a with
              attempts := a.attempts + 1, due := some (s.gtc.toNat + Config.convBkoff * 2 ^ min a.attempts 16) }] }] }
            else aborts (1 ||| h.missing) t) ∧
          ∀ tg, h.target = some tg → h.started = false → s.mgmt.pkghlt = false → o.axisSize key.axis ≠ 1 → o.state key.axis ≠ tg →
            isPartial (o.state key.axis) = true → (o.reduceChunks key.axis tg).length = 1 → Runs (.slotGrant a.id name) s fun t =>
              t.homeFor key = some { h with started := true, since := s.gtc.toNat, asks := [{ a with name := some name }] } ∧
              t.cores = s.cores ∧ ∀ k, k < o.axisSize key.axis → Msg.start key (o.station key.axis k) tg (.reduce [name]) ∈ t.outbox) ∧
        ∀ due, a.due = some due → due ≤ s.gtc.toNat → s.stations[a.plane].live = true → Runs (.replayRetry a.id) s fun t =>
          t = { s with homes := [{ h with asks := [{ a with due := none }] }], outbox := s.outbox ++ [.alloc a.id a.plane a.what] }

/-- The messages of conversions, and what ends one that fails. -/
def Obligations.ConversionMessages : Prop :=
  MessagesArrive ∧ ConversionsFail

/-! ## Barriers, tokens and queues -/

/-- Entry by entry the larger of two clocks (R318). -/
def Sys2Proof.Claims.joined (a b : Clock) : Clock := Vector.ofFn fun k : Fin 64 => if a[k].toNat < b[k].toNat then b[k] else a[k]

/-- A context's clock with one added to its own epoch (R318). -/
def Sys2Proof.Claims.ticked (x : Ctx) : Clock := Vector.ofFn fun k : Fin 64 => if k.val = x.rank then x.clock[k] + 1 else x.clock[k]

/-- The own epoch can grow without reaching 2^32 (R322). -/
abbrev Sys2Proof.Claims.EpochRoom (x : Ctx) : Prop := ∀ k : Fin 64, k.val = x.rank → x.clock[k].toNat + 1 < 2 ^ 32

/-- What an update leaves of a barrier (R37): with the arrivals complete and more bytes arrived than expected it is in error;
with both complete the phase flips and the counts start again. -/
def Sys2Proof.Claims.afterUpdate (b : Barrier) : Barrier :=
  let complete := if b.expa.toNat = 0 then b.expb.toNat ≠ 0 else b.arra.toNat = b.expa.toNat
  if complete ∧ b.expb.toNat < b.arrb.toNat then { b with err := true }
  else if complete ∧ b.arrb.toNat = b.expb.toNat then { b with ph := !b.ph, arra := 0, expb := 0, arrb := 0, done := true }
  else b

/-- The issuing core's barrier `b` is `v`, the context is `x`, and nothing else changes. -/
structure Sys2Proof.Claims.SetsBarrier (s : State) (b : BitVec 6) (v : Barrier) (x : Ctx) (t : State) : Prop where
  barrier : (t.core s.who.core).barAt b = v
  others : ∀ k, k ≠ b → (t.core s.who.core).barAt k = (s.core s.who.core).barAt k
  context : t.me = x
  frame : t = (s.setCtx s.who x).modCore s.who.core fun c => { c with bar := (t.core s.who.core).bar }

/-- A wait that is not satisfied: the context blocks in it, and nothing else changes (R193). -/
def Sys2Proof.Claims.waits (s : State) (i : Instr) : State := s.setCtx s.who { s.me with run := .waiting, blocked := some (.wait i) }

/-- A wait that completes: the PC moves on and the progress counter starts again (R193, R391). -/
def Sys2Proof.Claims.passed (s : State) (x : Ctx) (n : Nat) : Ctx :=
  { x with pc := nextPc x.pc n, progress := { acc := 0, since := some s.cycle } }

/-- R36, R37, R196, R197: BINIT sets the expected arrivals and clears the counts and ERR; BEXP adds expected bytes, BARR adds them and one
arrival, or ERR for an arrival too many, and in both the barrier's clock joins the issuer's, whose own epoch grows by one; a barrier
that the team does not own traps with PRIV, and an epoch that would reach 2^32 traps with MMX, subcode EPOCH. -/
def Sys2Proof.Claims.BarrierUpdates : Prop :=
  ∀ (s : State) (b : BitVec 6) (n : Byte) (a : SReg), InBounds s [a] →
    let v := (s.core s.who.core).barAt b
    let bytes := (s.me.rs a).setWidth 32
    let arrived := if v.expa.toNat < v.arra.toNat + 1 then { v with err := true } else { v with arra := v.arra + 1 }
    let clock := joined v.clock s.me.clock
    let me := { s.me with pc := nextPc s.me.pc 4 }
    (s.me.barown.getLsbD b.toNat = true →
      Runs (.binit b n) s (SetsBarrier s b (afterUpdate { v with expa := n, arra := 0, expb := 0, arrb := 0, err := false }) me)) ∧
    (s.me.barown.getLsbD b.toNat = true → EpochRoom s.me → Unposted s →
      Runs (.barr b a) s (SetsBarrier s b (afterUpdate { arrived with expb := v.expb + bytes, clock := clock })
        { me with clock := ticked s.me }) ∧
      Runs (.bexp b a) s (SetsBarrier s b (afterUpdate { v with expb := v.expb + bytes, clock := clock })
        { me with clock := ticked s.me })) ∧
    (s.me.barown.getLsbD b.toNat = true → ¬ EpochRoom s.me → Unposted s → Trappable s →
      Runs (.barr b a) s (TrapsWith s Cause.mmx 3 0) ∧ Runs (.bexp b a) s (TrapsWith s Cause.mmx 3 0)) ∧
    (s.me.barown.getLsbD b.toNat = false → Trappable s →
      Runs (.binit b n) s (TrapsWith s Cause.priv 0 (Instr.binit b n).head) ∧
      Runs (.barr b a) s (TrapsWith s Cause.priv 0 (Instr.barr b a).head) ∧
      Runs (.bexp b a) s (TrapsWith s Cause.priv 0 (Instr.bexp b a).head))

/-- R193, R194, R198: BWAIT completes when the phase differs from its operand, taking the barrier's clock, and blocks while it does
not; a barrier in error traps with ENGINE, subcode 10. -/
def Sys2Proof.Claims.BarrierWaits : Prop :=
  ∀ (s : State) (b : BitVec 6) (p : Bool), s.me.barown.getLsbD b.toNat = true →
    let v := (s.core s.who.core).barAt b
    let unfaulted := ∀ f ∈ s.me.faults, ¬ (f.f1.getLsbD 10 = true ∧ f.f1.toNat / 16 % 64 = b.toNat)
    (v.err = false → unfaulted → v.ph ≠ p → Runs (.bwait b p) s fun t =>
      t = s.setCtx s.who { passed s s.me 4 with clock := joined s.me.clock v.clock }) ∧
    (v.err = false → unfaulted → v.ph = p → Runs (.bwait b p) s fun t => t = waits s (.bwait b p)) ∧
    (v.err = true → Trappable s → Runs (.bwait b p) s (TrapsWith s Cause.engine 10 (b.setWidth 64)))

/-- R36, R199, R318: BTEST reads the barrier's image: PH, ERR, EXPA and ARRA and EXPB into Sd, ARRB into S(d + 1); it takes the
barrier's clock when a phase has completed. -/
def Sys2Proof.Claims.BarrierTests : Prop :=
  ∀ (s : State) (d e : SReg) (b : BitVec 6), e.toNat = d.toNat + 1 → InBounds s [d, e] → s.me.barown.getLsbD b.toNat = true →
    let v := (s.core s.who.core).barAt b
    let bit := fun (c : Bool) => if c then 1 else 0
    Runs (.btest d b) s fun t =>
      t.me.rs d = (if d = 0 then 0 else BitVec.ofNat 64 (bit v.ph + 2 * bit v.err + v.expa.toNat * 2 ^ 8 + v.arra.toNat * 2 ^ 16 +
        v.expb.toNat * 2 ^ 32)) ∧
      t.me.rs e = BitVec.ofNat 64 v.arrb.toNat ∧ (∀ r, r ≠ d → r ≠ e → t.me.rs r = s.me.rs r) ∧
      t = s.setCtx s.who { s.me with
        s := t.me.s, pc := nextPc s.me.pc 4, clock := if v.done then joined s.me.clock v.clock else s.me.clock }

/-- BINIT, BARR, BEXP, BWAIT and BTEST: images, completion, waits and traps. -/
def Obligations.Barriers : Prop :=
  BarrierUpdates ∧ BarrierWaits ∧ BarrierTests

/-- R40, R201: TKPOP takes the oldest token of its FIFO with its clock, and TKPUSH adds one with the issuer's clock while there are fewer than
16 (once its posted stores to this package are performed); each blocks otherwise. -/
def Sys2Proof.Claims.Tokens : Prop :=
  ∀ (s : State) (f : Fifo),
    (∀ v rest, s.me.tok[f.num] = v :: rest → Runs (.tkpop f) s fun t =>
      t = s.setCtx s.who { passed s s.me 4 with tok := s.me.tok.set f.num rest, clock := joined s.me.clock v }) ∧
    (s.me.tok[f.num] = [] → s.me.faults = [] → Runs (.tkpop f) s fun t => t = waits s (.tkpop f)) ∧
    (s.me.tok[f.num].length < 16 → EpochRoom s.me → Unposted s → Runs (.tkpush f) s fun t =>
      t = s.setCtx s.who { passed s s.me 4 with
        tok := s.me.tok.set f.num (s.me.tok[f.num] ++ [s.me.clock]), clock := ticked s.me }) ∧
    (s.me.tok[f.num].length < 16 → ¬ EpochRoom s.me → Unposted s → Trappable s →
      Runs (.tkpush f) s (TrapsWith s Cause.mmx 3 0)) ∧
    (16 ≤ s.me.tok[f.num].length → Unposted s → Runs (.tkpush f) s fun t => t = waits s (.tkpush f))

/-- R194, R203, R204: QWAIT completes when at most n commands of its queue are outstanding, and blocks while there are more; a
fault of the queue is reported instead, once.  QSTAT counts commands and tokens and shows the build register. -/
def Sys2Proof.Claims.QueueWaits : Prop :=
  ∀ (s : State) (q : Queue) (n : BitVec 6) (d : SReg), InBounds s [d] →
    let count := s.me.queues[q.num].length
    let unfaulted := ∀ f ∈ s.me.faults, f.queue ≠ q
    (n.toNat ≤ 32 → unfaulted → count ≤ n.toNat → Runs (.qwait q n) s fun t => t = s.setCtx s.who (passed s s.me 4)) ∧
    (n.toNat ≤ 32 → unfaulted → n.toNat < count → Runs (.qwait q n) s fun t => t = waits s (.qwait q n)) ∧
    (n.toNat ≤ 32 → Trappable s → ∀ f, s.me.faults = [f] → f.queue = q → Runs (.qwait q n) s fun t =>
      t.me.trapcause.extractLsb' 0 8 = f.cause ∧ t.me.trapcause.extractLsb' 8 8 = f.sub ∧ t.me.trapval = f.val ∧
      t.me.trappc = s.me.pc ∧ t.me.pc = entryPc s.me.traphnd ∧ t.me.faults = []) ∧
    ((∀ f : Fin 6, s.me.tok[f].length ≤ 16) → count ≤ 32 → ∃ v, Runs (.qstat q d) s (WritesScalar s d (BitVec.ofNat 64 v) 4) ∧
      v % 64 = count ∧ (v / 64 % 2 = 1 ↔ ¬ unfaulted) ∧
      v / 2 ^ 8 % 256 = ((fifosInto q).1.map fun f => s.me.tok[f.num].length).getD 0 ∧
      v / 2 ^ 16 % 256 = ((fifosInto q).2.map fun f => s.me.tok[f.num].length).getD 0 ∧
      (v / 2 ^ 32 % 2 = 1 ↔ s.me.build[q.num] ≠ none) ∧
      ∀ t b, s.me.build[q.num] = some (t, b) → v / 2 ^ 33 = t.toNat)

/-- TKPOP, TKPUSH, QWAIT and QSTAT: results, waits, and faults reported once.  That QWAIT reports a fault of its queue whatever its n is the
model's choice (log 11): R203 speaks of the commands that must have completed. -/
def Obligations.TokensAndQueueWaits : Prop :=
  Tokens ∧ QueueWaits

/-- R200, R318: GBAR completes for its last member, in a group of any size: its clock becomes the join of all members' clocks, entry by
entry the largest, and advances, and it releases the members that wait in it; before that it blocks.  A context that is no member of the group traps with PRIV. -/
def Obligations.GroupBarriers : Prop :=
  ∀ (s : State) (g : Byte), Plain s s.who →
    ∀ tm, s.teamOf s.me = some tm →
      let m := s.groupMask s.me g
      let others := (List.range 64).filter fun r => m.getLsbD r && r != s.me.rank
      let k := ((s.me.gbars.find? fun e => e.1 == g).map (·.2)).getD 0 + 1
      (m.getLsbD s.me.rank = true → others = [] → tm.whoOf s.me.rank = some s.who → EpochRoom s.me → Unposted s →
        Runs (.gbar g) s fun t =>
        t = s.setCtx s.who { passed s s.me 4 with clock := ticked s.me, gbars := (g, k) :: s.me.gbars.filter fun e => e.1 != g }) ∧
      (m.getLsbD s.me.rank = true → (∃ r ∈ others, s.gbarArrived tm g k r = false) → Unposted s →
        Runs (.gbar g) s fun t => t = waits s (.gbar g)) ∧
      (∀ v : Clock, m.getLsbD s.me.rank = true → Unposted s → tm.whoOf s.me.rank = some s.who →
        (∀ r ∈ others, tm.hasLeft r = true ∨ ∃ w, tm.whoOf r = some w ∧ w ≠ s.who ∧ (s.ctxOf w).blocked = some (.wait (.gbar g)) ∧
          k = (((s.ctxOf w).gbars.find? fun e => e.1 == g).map (·.2)).getD 0 + 1) →
        (∀ j : Fin 64, (∀ r ∈ s.me.rank :: others, (s.rankClock tm r)[j].toNat ≤ v[j].toNat) ∧
          ∃ r ∈ s.me.rank :: others, v[j] = (s.rankClock tm r)[j]) →
        v.toList.all (fun e => e.toNat + 1 < 2 ^ 32) = true → Runs (.gbar g) s fun t =>
          t.me = { passed s s.me 4 with
            clock := ticked { s.me with clock := v }, gbars := (g, k) :: s.me.gbars.filter fun e => e.1 != g } ∧
          ∀ r ∈ others, ∀ w, tm.whoOf r = some w → w ≠ s.who → (s.ctxOf w).blocked = some (.wait (.gbar g)) →
            t.ctxOf w = { s.ctxOf w with blocked := some (.released (.gbar g) v) }) ∧
      (m.getLsbD s.me.rank = false → Trappable s → Runs (.gbar g) s (TrapsWith s Cause.priv 0 (g.setWidth 64)))

/-! ## Templates and engine issue -/

/-- Bit by bit: `n` bits of `v` stand in the result from bit `lo`, and the other bits are those of `t` (R43). -/
def Sys2Proof.Claims.Replaced (t : TemplateBits) (lo n : Nat) (v : Nat) (r : TemplateBits) : Prop :=
  ∀ j, j < 1024 → r.getLsbD j = if lo ≤ j ∧ j < lo + n then v.testBit (j - lo) else t.getLsbD j

/-- The active plane of a pair as it stood at the end of the previous cycle (R108). -/
def Sys2Proof.Claims.planeBefore (s : State) (p : PlanePair) : Plane :=
  match p.kept with
  | some l => if l.cycle = s.cycle then l.before else p.active
  | none => p.active

/-- A packet has been applied (R43, R104 to R108): each ISS word has queued one command; a packet of one word replaces the field or four
fields that it names in the build register's template, or in the active one as the cycle before left it, and keeps the result in the
build register or queues it with the captured FPC, a CRED also with its number among its group's, counted as issued (R281); KEEP replaces the same fields in the active plane, whose CRC follows.  Registers,
other queues, other planes, other contexts and cores are as before, and memory is that of `m`. -/
structure Sys2Proof.Claims.Emits (s : State) (q : Queue) (ws : List IWord) (n : Nat) (m t : State) : Prop where
  queued : ∃ new, t.me.queues[q.num] = s.me.queues[q.num] ++ new ∧ new.length = issCount ws ∧
    ∀ c ∈ new, c.phase = .queued ∧ c.clock = s.me.clock ∧ c.row = 0 ∧ tF c.bits 2 = s.me.fpc.setWidth 16
  queues : ∀ k, k ≠ q.num → t.me.queues[k] = s.me.queues[k]
  files : t.me.s = s.me.s ∧ t.me.h = s.me.h ∧ t.me.fpc = s.me.fpc ∧ t.me.fps = s.me.fps ∧ t.me.tok = s.me.tok
  pc : t.me.pc = nextPc s.me.pc n
  clock : t.me.clock = ticked s.me
  creds : q ≠ .ldq → q ≠ .stq → t.me.creds = s.me.creds
  one : ∀ w, ws = [w] →
    let tidx := w.extractLsb' 26 6
    let field := w.toNat / 2 ^ 20 % 64
    let pair := (s.core s.who.core).planes[q.engine.num]
    let base := match s.me.build[q.num] with
      | some (k, b) => if k = tidx then b else ((planeBefore s pair).at tidx).bits
      | none => ((planeBefore s pair).at tidx).bits
    let changed := fun (b r : TemplateBits) => if w.getLsbD 17 then Replaced b (16 * field) 64 (s.me.rs (w.extractLsb' 0 6)).toNat r
      else Replaced b (16 * field) 16 (w.toNat % 2 ^ 16) r
    ∃ r, changed base r ∧
      (w.getLsbD 19 = false → t.me.build[q.num] = some (tidx, r)) ∧
      (w.getLsbD 19 = true → t.me.build[q.num] = none ∧
        ∀ c, t.me.queues[q.num].getLast? = some c → (∀ f, f < 60 → f ≠ 2 → tF c.bits f = tF r f) ∧
          (q = .ldq ∨ q = .stq → (tF r 0).toNat % 2 ^ 8 = 0x09 → c.link = countOf s.me.creds (BitVec.ofNat 8 (tN r 28 4)) + 1)) ∧
      (w.getLsbD 18 = false → (t.core s.who.core).planes = (s.core s.who.core).planes) ∧
      (w.getLsbD 18 = true → (∀ l, pair.kept = some l → l.cycle ≠ s.cycle) →
        let new := (t.core s.who.core).planes[q.engine.num]
        changed (pair.active.at tidx).bits (new.active.at tidx).bits ∧ (new.active.at tidx).valid = (pair.active.at tidx).valid ∧
        (∀ k, k ≠ tidx → new.active.at k = pair.active.at k) ∧ new.active.crc = new.active.computed ∧ new.staging = pair.staging)
  planes : ∀ e : Fin 4, e ≠ q.engine.num → (t.core s.who.core).planes[e] = (s.core s.who.core).planes[e]
  context : t.me = { s.me with
    build := t.me.build, queues := t.me.queues, sers := t.me.sers, creds := t.me.creds, order := s.me.order + issCount ws, clock := ticked s.me,
    pc := nextPc s.me.pc n, progress := { acc := 0, since := some s.cycle } }
  frame : t = (m.setCtx s.who t.me).modCore s.who.core fun c => { c with planes := (t.core s.who.core).planes }
  memory : ∀ p, t.rawRead p 1 = m.rawRead p 1

/-- R43, R104 to R108: EMIT and EMITR apply their packet when its templates are valid and the queue has room for what it issues; without
room they block, an empty template traps with ENGINE, subcode BADOP, and its place in the packet, and an epoch that would reach 2^32
traps with MMX, subcode EPOCH.  EMITR reads its words as LDW does: `loadWords` gives them, here for words in scratch. -/
def Obligations.EngineIssue : Prop :=
  ∀ (s : State) (q : Queue) (ws : List IWord), packetOk ws = true → Plain s s.who →
    (∀ w ∈ ws, w.getLsbD 17 = true → (w.extractLsb' 0 6).toNat < s.me.allot.toNat) →
    let active := ((s.core s.who.core).planes[q.engine.num]).active
    let valid := ∀ w ∈ ws, (active.at (w.extractLsb' 26 6)).valid = true
    let room := s.me.queues[q.num].length + issCount ws ≤ 32
    (valid → room → EpochRoom s.me → Runs (.emit q ws) s (Emits s q ws (4 + 4 * ws.length) s)) ∧
    (valid → room → ¬ EpochRoom s.me → Trappable s → Runs (.emit q ws) s (TrapsWith s Cause.mmx 3 0)) ∧
    (¬ room → Runs (.emit q ws) s fun t => t = waits s (.emit q ws)) ∧
    (room → Trappable s → ∀ w ls rs, ws = ls ++ w :: rs → (∀ v ∈ ls, (active.at (v.extractLsb' 26 6)).valid = true) →
      (active.at (w.extractLsb' 26 6)).valid = false →
      Runs (.emit q ws) s (TrapsWith s Cause.engine 1 (BitVec.ofNat 64 (ls.length + 256 * (w.toNat / 2 ^ 26))))) ∧
    (∀ (a : SReg) (c : Byte) s1, InBounds s [a] → c ≠ 0 → (s.me.rs a).toNat % 4 = 0 →
      s.loadWords s.who (s.me.rs a) c.toNat = .ok (s1, ws) →
      (valid → room → EpochRoom s.me → Runs (.emitr q a c) s (Emits s q ws 4 s1)) ∧
      (¬ room → Runs (.emitr q a c) s fun t => t = waits s (.emitr q a c))) ∧
    (∀ (a : SReg) (c : Byte) (p : Nat → Nat), (∀ l ∈ s.lineq, ¬ (l.access = true ∧ l.who = s.who ∧ l.req = none ∧ l.cmd = none)) →
      (∀ k, k < c.toNat →
        let v := s.me.rs a + BitVec.ofNat 64 (4 * k)
        reach s v 4 .read = some (s, p k) ∧ isDev (p k) = false ∧ s.isSw (p k) = false ∧ Clear s 4 (s, p k) ∧ Unwatched s v 4 (s, p k)) →
      s.loadWords s.who (s.me.rs a) c.toNat =
        .ok (s, (List.range c.toNat).map fun k => BitVec.ofNat 32 (leNat (s.rawRead (p k) 4)))) ∧
    (∀ (a : SReg) (c : Byte), InBounds s [a] → c ≠ 0 → (s.me.rs a).toNat % 4 ≠ 0 → Trappable s →
      Runs (.emitr q a c) s (TrapsWith s Cause.align 0 (s.me.rs a)))

/-- R43, R205 to R207, R339: TMPLD puts 128 aligned bytes of scratch or of device memory in hardware-coherent mode into a staging
template, which is empty if their first field is 0; TMPSW exchanges the planes when the staging plane agrees with its CRC and traps with TMPL when it does not; TMPRD reads one
field and the valid bit. -/
def Obligations.TemplatePlanes : Prop :=
  ∀ (s : State) (e : Engine) (n : BitVec 6) (d a : SReg), InBounds s [d, a] →
    let p := (s.core s.who.core).planes[e.num]
    (Plain s s.who → Memory.wf s = true → HeldLines s → ∀ q, reach s (s.me.rs a) 128 .read = some q → Clear s 128 q →
      Unwatched s (s.me.rs a) 128 q → s.isSw q.2 = false → Runs (.tmpld e n a) s fun t =>
        let new := (t.core s.who.core).planes[e.num]
        let bits : TemplateBits := BitVec.ofNat 1024 (leNat (s.rawRead q.2 128))
        new.active = p.active ∧ new.staging.at n = (if bits.toNat % 2 ^ 16 = 0 then Template.empty else { valid := true, bits := bits }) ∧
        (∀ k, k ≠ n → new.staging.at k = p.staging.at k) ∧ new.staging.crc = new.staging.computed ∧
        (∀ k, k ≠ e.num → (t.core s.who.core).planes[k] = (s.core s.who.core).planes[k]) ∧
        t.me = { s.me with pc := nextPc s.me.pc 4 } ∧ Visits s q t ∧
        t = (accessed s q t.me t).modCore s.who.core (fun c => { c with planes := (t.core s.who.core).planes }) ∧
        ∀ v, Untouched s q.2 v → t.rawRead v 1 = s.rawRead v 1) ∧
    (Plain s s.who → p.staging.crc = p.staging.computed → Runs (.tmpsw e) s fun t =>
      t = (s.setCtx s.who { s.me with pc := nextPc s.me.pc 4 }).modCore s.who.core fun c =>
        { c with planes := c.planes.set e.num { active := p.staging, staging := p.active, kept := some { cycle := s.cycle, before := planeBefore s p, base := p.staging, made := [] } } }) ∧
    (p.staging.crc ≠ p.staging.computed → Trappable s → Runs (.tmpsw e) s (TrapsWith s Cause.tmpl 0 (e.code.setWidth 64))) ∧
    (let tm := (if (s.me.rs a).getLsbD 6 then p.staging else p.active).at n
     Runs (.tmprd e n d a) s (WritesScalar s d
       (BitVec.ofNat 64 (tm.bits.toNat / 2 ^ (16 * ((s.me.rs a).toNat % 64)) % 2 ^ 16 + if tm.valid then 2 ^ 16 else 0)) 4))

/-! ## Traps, control words and system instructions -/

/-- The scalar registers that an instruction names, from the highest field of its first word downward and then patch word by patch word
(R15, R103, R109 to R114); BTEST writes the register after its own too (R199), and CALL and RET use S15 (R150). -/
def Sys2Proof.Claims.named : Instr → List Nat
  | .add d a b | .sub d a b | .mul d a b | .mulh d a b | .mulhu d a b | .div d a b | .divu d a b | .rem d a b | .remu d a b | .and d a b
  | .or d a b | .xor d a b | .andn d a b | .shl d a b | .shr d a b | .sra d a b | .rol d a b | .min d a b | .max d a b | .minu d a b
  | .maxu d a b | .ceq d a b | .cne d a b | .clt d a b | .cle d a b | .cltu d a b | .cleu d a b | .fadd d a b | .fsub d a b
  | .fmul d a b | .fdiv d a b | .fmin d a b | .fmax d a b | .fcmp _ d a b | .ldx _ d a b | .stx _ d a b | .aadd _ _ _ d a b
  | .amin _ _ _ d a b | .amax _ _ _ d a b | .aand _ _ _ d a b | .aor _ _ _ d a b | .axor _ _ _ d a b | .aswap _ _ _ d a b
  | .acas _ _ _ d a b => [d.toNat, a.toNat, b.toNat]
  | .sel d c a b | .ffma d c a b => [d.toNat, c.toNat, a.toNat, b.toNat]
  | .clz d a | .ctz d a | .popc d a | .fsqrt d a | .fcvt _ _ d a | .addi d a _ | .andi d a _ | .ori d a _ | .xori d a _ | .shli d a _
  | .shri d a _ | .srai d a _ | .jmpr d a | .beq d a _ | .bne d a _ | .blt d a _ | .bge d a _ | .ldb d a _ | .ldh d a _ | .ldw d a _
  | .ldd d a _ | .stb d a _ | .sth d a _ | .stw d a _ | .std d a _ | .lda _ _ d a | .stl _ _ d a | .flushd _ d a | .modesw _ d a
  | .pst _ _ _ d a | .pld _ _ d a | .patom _ _ _ d a | .tmprd _ _ d a | .pleat d a _ => [d.toNat, a.toNat]
  | .li a _ | .liw a _ | .bz a _ | .bnz a _ | .loop a _ | .hld _ a _ | .hst _ a _ | .hset _ _ a | .hget _ _ a | .hslice _ _ a _
  | .hadv _ a _ | .grank a _ | .gsize a _ | .llease a | .llrel a | .objq _ a _ | .cbld _ a _ | .lsacq _ a | .barr _ a | .bexp _ a
  | .emitr _ a _ | .qstat _ a | .tmpld _ _ a | .pcarry a _ | .pcmp a _ | .launch a _ _ | .mfc a _ | .mtc a _ | .rdgtc a => [a.toNat]
  | .btest d _ => [d.toNat, d.toNat + 1]
  | .call _ | .ret => [15]
  | .emit _ ws => (ws.filter (·.getLsbD 17)).map fun w => w.toNat % 64
  | _ => []

/-- R15, R103: an instruction that names a register at or beyond the allotment traps with REGBOUND and that register's number,
the first one in order, before any other effect; so does an EMITR whose patch words name one. -/
def Sys2Proof.Claims.RegisterBounds : Prop :=
  ∀ (s : State) (i : Instr), Trappable s → i.wellFormed = true →
    (∀ r, (named i).find? (fun n => decide (s.me.allot.toNat ≤ n)) = some r →
      Runs i s (TrapsWith s Cause.regbound 0 (BitVec.ofNat 64 r))) ∧
    ∀ (q : Queue) (a : SReg) (c : Byte) (ws : List IWord) s1, i = .emitr q a c → InBounds s [a] → (s.me.rs a).toNat % 4 = 0 →
      s.loadWords s.who (s.me.rs a) c.toNat = .ok (s1, ws) → packetOk ws = true →
      ∀ r, (named (.emit q ws)).find? (fun n => decide (s.me.allot.toNat ≤ n)) = some r →
        Runs i s (TrapsWith s Cause.regbound 0 (BitVec.ofNat 64 r))

/-- R218, R376, R377: TRAP and BRK trap with their code, RTT returns to TRAPPC in user mode, and RTT in user mode traps with PRIV and its
own word; BRK halts its context when breakpoints are armed (R399). -/
def Sys2Proof.Claims.TrapInstructions : Prop :=
  ∀ (s : State) (c : BitVec 24),
    (Trappable s → Runs (.trap c) s (TrapsWith s Cause.trapi 0 (c.setWidth 64))) ∧
    (Trappable s → (s.core s.who.core).dbg.brkarm = false → Runs (.brk c) s (TrapsWith s Cause.brk 0 (c.setWidth 64))) ∧
    ((s.core s.who.core).dbg.brkarm = true → s.me.blocked = none → Runs (.brk c) s fun t =>
      t.me.run = .halted ∧ t.me.pc = s.me.pc ∧ t.me.s = s.me.s ∧ t.me.mode = s.me.mode ∧
      (t.core s.who.core).dbg.reason.toNat / 4 ^ s.who.ctx.val % 4 = 1) ∧
    (s.me.mode = .handler → GoodTarget s.me.trappc → Runs .rtt s fun t =>
      t = s.setCtx s.who { s.me with mode := .user, pc := s.me.trappc, progress := { acc := 0, since := some s.cycle } }) ∧
    (Trappable s → Runs .rtt s (TrapsWith s Cause.priv 0 Instr.rtt.head))

/-- R377, R378: a trap in handler mode, and a trap without a handler, end the member: its context is free, the member has ended, its launch
carries the error, and MEMBEREND is logged. -/
def Sys2Proof.Claims.DoubleTraps : Prop :=
  ∀ (s : State) (c : BitVec 24) (tm : Team) (l : Launch), Plain s s.who → s.me.team = some tm.id → s.teamAt tm.id = some tm →
    s.launchAt tm.launch = some l → s.me.rank < tm.members.length → (∀ k : Fin 5, s.me.queues[k] = []) →
    (s.me.mode = .handler ∨ s.me.traphnd = 0) → s.fused.getLsbD (s.who.core.val / 8) = false → s.mgmt.elog.length < 65536 →
    Runs (.trap c) s fun t =>
      t.me.run = .free ∧ t.me.team = none ∧
      (∃ tm', t.teamAt tm.id = some tm' ∧ tm'.members[s.me.rank]? = some .ended) ∧
      (∃ l', t.launchAt tm.launch = some l' ∧ l'.memberErr = true) ∧
      (∃ e ∈ t.mgmt.elog, e.code = .memberend ∧ e.gtc = s.gtc) ∧ t.mem = s.mem

/-- REGBOUND, TRAP, BRK, RTT and the end of a member by a trap without a handler. -/
def Obligations.TrapsAndReturns : Prop :=
  RegisterBounds ∧ TrapInstructions ∧ DoubleTraps

/-- R24, R27 to R31, R51: MFC reads the control words, and RDGTC the time. -/
def Obligations.ControlWordReads : Prop :=
  ∀ (s : State) (d : SReg), InBounds s [d] →
    let reads := fun (w : Byte) (v : Word) => Runs (.mfc d w) s (WritesScalar s d v 4)
    reads 0x00 s.me.fpc ∧ reads 0x01 s.me.fps ∧ reads 0x02 (s.me.allot.setWidth 64) ∧
    reads 0x03 (BitVec.ofNat 64 (s.who.ctx.val + 4 * (s.who.core.val % 8) + 32 * (s.who.core.val / 8 % 8) +
      256 * (s.who.core.val / 64) + 65536 * s.mgmt.stnid.toNat)) ∧
    reads 0x04 s.me.teamid ∧ reads 0x05 s.me.groups ∧ reads 0x06 (BitVec.ofNat 64 s.me.slot.val) ∧
    reads 0x08 (s.core s.who.core).bankrole ∧ reads 0x09 (s.me.bankown.setWidth 64) ∧ reads 0x0A s.me.barown ∧
    reads 0x0B (s.core s.who.core).dirtylim ∧ reads 0x0C s.me.leasemax ∧ reads 0x0D s.me.bkoff ∧ reads 0x0E s.me.bklim ∧
    reads 0x0F s.me.hangt ∧
    reads 0x10 (if s.me.pend then BitVec.ofNat 64 (1 + s.me.budget % 8192 * 65536) else 0) ∧
    reads 0x11 s.me.pleatst ∧ reads 0x18 s.me.trapcause ∧ reads 0x19 s.me.trappc ∧ reads 0x1A s.me.trapval ∧ reads 0x1B s.me.traphnd ∧
    Runs (.rdgtc d) s (WritesScalar s d s.gtc 4) ∧ Runs .nop s fun t => t = s.setCtx s.who { s.me with pc := nextPc s.me.pc 4 }

/-- R24, R25, R32, R33: MTC writes the bits of a control word that exist; the trap words belong to handler mode, and in user mode their write
traps with PRIV and the instruction's word.  A write to BANKROLE with a reserved role is ILLEGAL, one that changes a bank of
another team PRIV, and one that no command holds up takes effect: a bank whose role changes reads as zero. -/
def Sys2Proof.Claims.WordsWritten : Prop :=
  ∀ (s : State) (a : SReg), InBounds s [a] → Plain s s.who →
    let v := s.me.rs a
    let me := { s.me with pc := nextPc s.me.pc 4, progress := { acc := 0, since := some s.cycle } }
    let writes := fun (w : Byte) (x : Ctx) => Runs (.mtc a w) s fun t => t = s.setCtx s.who x
    let low := fun (n : Nat) => BitVec.ofNat 64 (v.toNat % 2 ^ n)
    writes 0x00 { me with fpc := low 9 } ∧ writes 0x01 { me with fps := low 5 } ∧
    writes 0x0C { me with leasemax := BitVec.ofNat 64 (min v.toNat 4096) } ∧ writes 0x0D { me with bkoff := low 32 } ∧
    writes 0x0E { me with bklim := low 8 } ∧ writes 0x0F { me with hangt := low 32 } ∧
    (s.me.mode = .handler → writes 0x18 { me with trapcause := low 16 } ∧ writes 0x19 { me with trappc := v } ∧
      writes 0x1A { me with trapval := v } ∧ writes 0x1B { me with traphnd := BitVec.ofNat 64 (v.toNat / 4 * 4) }) ∧
    (Trappable s → ∀ w ∈ [0x18#8, 0x19#8, 0x1A#8, 0x1B#8], Runs (.mtc a w) s (TrapsWith s Cause.priv 0 (Instr.mtc a w).head)) ∧
    (let old := (s.core s.who.core).bankrole
     let role := fun (w : Word) (b : Nat) => w.toNat / 4 ^ b % 4
     let changes := fun (b : Nat) => b < 32 ∧ role old b ≠ role v b
     ((∃ b, b < 32 ∧ role v b = 3) → Trappable s → Runs (.mtc a 0x08) s (TrapsWith s Cause.illegal 0 (Instr.mtc a 0x08).head)) ∧
     ((∀ b, b < 32 → role v b ≠ 3) → (∃ b, changes b ∧ s.me.bankown.getLsbD b = false) → Trappable s →
       Runs (.mtc a 0x08) s (TrapsWith s Cause.priv 0 (Instr.mtc a 0x08).head)) ∧
     ((∀ b, b < 32 → role v b ≠ 3) → (∀ b, changes b → s.me.bankown.getLsbD b = true) →
       (∀ x ∈ (s.core s.who.core).ctx.toList, ∀ k : Fin 5, x.queues[k] = []) → (∀ l ∈ s.lineq, l.stop = none) →
       (s.core s.who.core).l1 = [] → Memory.wf s = true → Runs (.mtc a 0x08) s fun t =>
         t.me = me ∧ (t.core s.who.core).bankrole = v ∧
         (∀ off, off < 2 ^ 21 → t.rawRead (2 ^ 48 + 2 ^ 21 * s.who.core.val + off) 1 =
           if role old (off / 65536) ≠ role v (off / 65536) then [0#8] else s.rawRead (2 ^ 48 + 2 ^ 21 * s.who.core.val + off) 1) ∧
         t.mem = s.mem ∧ ∀ c, c ≠ s.who.core → t.core c = s.core c))

/-- R33: a write to BANKROLE that stalls takes effect when nothing of the core's queues refers to a changing bank: the banks that it
changes take their new roles, and every other bank keeps the role that it has by then. -/
def Sys2Proof.Claims.BankRoleChanges : Prop :=
  ∀ (s : State) (w : Who) (r : RoleChange), (s.ctxOf w).blocked = some (.bankrole r) →
    let role := fun (v : Word) (b : Nat) => v.toNat / 4 ^ b % 4
    let old := (s.core w.core).bankrole
    let new := fun (b : Nat) => if b ∈ r.banks then role r.roles b else role old b
    (s.changeFree w.core r = true → (∀ b ∈ r.banks, b < 32) → (s.core w.core).l1 = [] → (s.ctxOf w).run = .active → Memory.wf s = true →
     Runs (.bankroleChange w) s fun t =>
      (∀ b, b < 32 → role (t.core w.core).bankrole b = new b) ∧
      t.ctxOf w = { s.ctxOf w with pc := nextPc (s.ctxOf w).pc 4, blocked := none, since := s.cycle } ∧
      (∀ off, off < 2 ^ 21 → t.rawRead (2 ^ 48 + 2 ^ 21 * w.core.val + off) 1 =
        if role old (off / 65536) ≠ new (off / 65536) then [0#8]
        else s.rawRead (2 ^ 48 + 2 ^ 21 * w.core.val + off) 1) ∧
      t.mem = s.mem) ∧
    (s.changeFree w.core r = false → Runs (.bankroleChange w) s fun t => t = s)

/-- MTC writes the bits that exist, PRIV guards the trap words, and BANKROLE its banks. -/
def Obligations.ControlWordWrites : Prop :=
  WordsWritten ∧ BankRoleChanges

/-- R193, R200: a blocked wait is executed again and completes whole when its condition holds, and stays as it was while it does
not; the wait of PLEAT ends with its window's start only. -/
def Obligations.WaitsComplete : Prop :=
  ∀ (s : State) (w : Who), s.mgmt.pkghlt = false → (s.ctxOf w).run = .waiting → s.frozen (s.ctxOf w) = false →
    let x := s.ctxOf w
    let woken := { x with run := .active, blocked := none, since := s.cycle, progress := { acc := 0, since := some s.cycle }, pc := nextPc x.pc 4 }
    (∀ (f : Fifo) v rest, x.blocked = some (.wait (.tkpop f)) → x.tok[f.num] = v :: rest → x.step = .none →
      Runs (.waitCompletion w) s fun t =>
        t = { s.setCtx w { woken with tok := x.tok.set f.num rest, clock := joined x.clock v } with who := w }) ∧
    (∀ (b : BitVec 6) (p : Bool), x.blocked = some (.wait (.bwait b p)) → x.barown.getLsbD b.toNat = true → x.step = .none →
      ((s.core w.core).barAt b).err = false → ((s.core w.core).barAt b).ph ≠ p → x.faults = [] →
      Runs (.waitCompletion w) s fun t =>
        t = { s.setCtx w { woken with clock := joined x.clock ((s.core w.core).barAt b).clock } with who := w }) ∧
    (∀ (q : Queue) (n : BitVec 6), x.blocked = some (.wait (.qwait q n)) → n.toNat ≤ 32 → x.faults = [] → x.step = .none →
      (x.queues[q.num].length ≤ n.toNat → Runs (.waitCompletion w) s fun t => t = { s.setCtx w woken with who := w }) ∧
      (n.toNat < x.queues[q.num].length → Runs (.waitCompletion w) s fun t =>
        t.ctxOf w = { x with since := s.cycle })) ∧
    (∀ (g : Byte) (v : Clock), x.blocked = some (.released (.gbar g) v) → x.step = .none →
      (joined x.clock v).toList.all (fun e => e.toNat + 1 < 2 ^ 32) = true → Runs (.waitCompletion w) s fun t =>
        (t.ctxOf w).pc = nextPc x.pc 4 ∧ (t.ctxOf w).run = .active ∧ (t.ctxOf w).blocked = none ∧
        (t.ctxOf w).clock = ticked { x with clock := joined x.clock v }) ∧
    (∀ i : Instr, x.blocked = some (.wait i) →
      (∃ b p, i = .bwait b p) ∨ (∃ g, i = .gbar g) ∨ (∃ f, i = .tkpop f ∨ i = .tkpush f) ∨ (∃ q n, i = .qwait q n) ∨
        (∃ q ws, i = .emit q ws) ∨ (∃ q a c, i = .emitr q a c) ∨ (∃ a c b, i = .launch a c b) →
      ∃ t, exec i { s.setCtx w { x with run := .active, blocked := none, since := s.cycle } with who := w } = .next t ∧
        Runs (.waitCompletion w) s fun u => u = t.afterIssue w) ∧
    (∀ a b n, x.blocked = some (.wait (.pleat a b n)) → Runs (.waitCompletion w) s fun t => t = s)

/-- R219, R220, R216: SAFEPT without a pending request moves on, and with one arrives at the gather; EXIT with its queues drained frees
the context, and the member has exited with its status. -/
def Obligations.SafePointsAndExits : Prop :=
  ∀ (s : State) (n : BitVec 16) (c : Byte) (tm : Team) (l : Launch), Plain s s.who → s.me.team = some tm.id →
    s.teamAt tm.id = some tm → s.launchAt tm.launch = some l → s.me.faults = [] → s.me.deferred = [] →
    (∀ k ∈ s.lineq, k.who ≠ s.who) →
    (n.toNat < l.desc.livecnt → s.me.pend = false → Runs (.safept n) s fun t => t = s.setCtx s.who (passed s s.me 8)) ∧
    (n.toNat < l.desc.livecnt → s.me.pend = true → EpochRoom s.me → Unposted s → Runs (.safept n) s fun t =>
      t = s.setCtx s.who { s.me with
        pc := nextPc s.me.pc 8, run := .waiting, blocked := some (.gather n.toNat), progress := { acc := 0, since := none } }) ∧
    (l.desc.livecnt ≤ n.toNat → Trappable s → Runs (.safept n) s (TrapsWith s Cause.illegal 0 (Instr.safept n).head)) ∧
    ((∀ k : Fin 5, s.me.queues[k] = []) → (∀ r ∈ s.reqs, r.who ≠ s.who) → s.me.rank < tm.members.length → Runs (.exit c) s fun t =>
      t.me.run = .free ∧ t.me.team = none ∧
      (∃ tm', t.teamAt tm.id = some tm' ∧ tm'.members[s.me.rank]? = some .exited) ∧
      (∃ l', t.launchAt tm.launch = some l' ∧ l'.status = max l.status c.toNat ∧ l'.memberErr = l.memberErr) ∧
      ∀ w, w ≠ s.who → (t.ctxOf w) = s.ctxOf w)

/-! ## Pleat regions -/

/-- R208, R209: PLEAT asks for a region with its guess routine, its count and its width, and blocks until every member has arrived;
a count of 0 traps with PLEAT, subcode USAGE. -/
def Sys2Proof.Claims.PleatEntry : Prop :=
  ∀ (s : State) (a b : SReg) (w : BitVec 4) (tm : Team), InBounds s [a, b] → 2 ≤ w.toNat → w.toNat ≤ 8 →
    s.teamOf s.me = some tm →
    (tm.region = none → s.me.rs b ≠ 0 → EpochRoom s.me → Unposted s → Runs (.pleat a b w) s fun t =>
      t.me = { s.me with run := .waiting, blocked := some (.wait (.pleat a b w)) } ∧
      (∃ tm', t.teamAt tm.id = some tm' ∧ tm'.region = some {
        guess := s.me.rs a, left := s.me.rs b, width := w.toNat, head := nextPc s.me.pc 4, clock := Clock.zero, begun := false,
        pos := [], guessing := none }) ∧ t.mem = s.mem) ∧
    (∀ r, tm.region = some r → r.begun = false → s.pleatArrived tm ≠ [] → s.me.rs b ≠ 0 → EpochRoom s.me → Unposted s →
      r.guess = s.me.rs a → r.left = s.me.rs b → r.width = w.toNat →
      Runs (.pleat a b w) s fun t => t = waits s (.pleat a b w)) ∧
    (tm.region = none → s.me.rs b = 0 → s.me.mode = .user → s.me.traphnd ≠ 0 → Runs (.pleat a b w) s fun t =>
      t.me.trapcause.extractLsb' 0 16 = 3#8 ++ Cause.pleat ∧ t.me.mode = .handler ∧ t.me.pc = entryPc s.me.traphnd ∧
      t.me.trappc = s.me.pc ∧ t.me.s = s.me.s ∧ t.teams = s.teams)

/-- R209, R210: outside a region PCARRY and PCMP read and write the team's carries; in a position PCARRY reads the position's input
and PCMP writes its output. -/
def Sys2Proof.Claims.PleatCarries : Prop :=
  ∀ (s : State) (a : SReg) (k : BitVec 3) (tm : Team), InBounds s [a] → s.teamOf s.me = some tm →
    (Plain s s.who → Runs (.pcarry a k) s (WritesScalar s a tm.carries[k.toNat] 4) ∧
      Runs (.pcmp a k) s fun t =>
        t = (s.modTeam tm.id fun u => { u with carries := u.carries.set k.toNat (s.me.rs a) }).setCtx s.who
          { s.me with pc := nextPc s.me.pc 4 }) ∧
    (∀ r p, s.guessingOf s.me = none → s.positionOf s.me = some (tm, r, p) →
      Runs (.pcarry a k) s (WritesScalar s a p.input[k.toNat] 4) ∧
      Runs (.pcmp a k) s fun t =>
        t.me = { s.me with pc := nextPc s.me.pc 4 } ∧
        ∃ tm' r' p', t.positionOf t.me = some (tm', r', p') ∧ p'.output = p.output.set k.toNat (s.me.rs a) ∧ p'.input = p.input ∧
          p'.buf = p.buf)

/-- PLEAT gathers its members; PCARRY and PCMP reach team or position carries. -/
def Obligations.PleatEntries : Prop :=
  PleatEntry ∧ PleatCarries

/-- R211 rule 4, R212, R313: a store in a position to device memory goes to its buffer and not to memory, one to scratch is performed at
once, and a load sees the position's own buffered bytes over memory's. -/
def Sys2Proof.Claims.PleatBuffers : Prop :=
  ∀ (s : State) (d a b : SReg) (o : BitVec 12) tm r p, InBounds s [d, a, b] → s.guessingOf s.me = none →
    s.positionOf s.me = some (tm, r, p) → p.direct = false → Memory.wf s = true → HeldPages s → HeldLines s →
    (∀ f ∈ storeForms s d a b o, ∀ q, reach s f.2.1 f.2.2 .write = some q → Clear s f.2.2 q → Unwatched s f.2.1 f.2.2 q →
      isDev q.2 = false → s.isSw q.2 = false → bufferLines p.buf + 2 ≤ 256 →
      Runs f.1 s (StoresTo s q f.2.2 (s.me.rs d).toNat)) ∧
    (∀ f ∈ storeForms s d a b o, ∀ q, reach s f.2.1 f.2.2 .write = some q → Clear s f.2.2 q → Unwatched s f.2.1 f.2.2 q →
      isDev q.2 = true → (∀ z ∈ r.pos, z.reads = []) → bufferLines p.buf + 2 ≤ 256 → Runs f.1 s fun t =>
        (s.isSw q.2 = false → ∀ z, t.rawRead z 1 = s.rawRead z 1) ∧
        t.me = { s.me with pc := nextPc s.me.pc 4, progress := { acc := 0, since := some s.cycle } } ∧
        ∃ tm' r' p', t.positionOf t.me = some (tm', r', p') ∧ p'.reads = [] ∧
          p'.buf = ((List.range f.2.2).map fun k => (q.2 + k, BitVec.ofNat 8 ((s.me.rs d).toNat / 256 ^ k))).reverse ++ p.buf) ∧
    (∀ f ∈ loadForms s d a b o, ∀ q, reach s f.2.1 f.2.2 .read = some q → Clear s f.2.2 q → Unwatched s f.2.1 f.2.2 q →
      s.isSw q.2 = false → (∀ z ∈ r.pos.take s.me.rank, z.buf = []) → d ≠ 0 → Runs f.1 s fun t =>
        t.me.rs d = BitVec.ofNat 64 (leNat ((List.range f.2.2).map fun k =>
          match p.buf.find? (fun c => c.1 == q.2 + k) with
          | some c => c.2
          | none => ((s.rawRead q.2 f.2.2)[k]?).getD 0)) ∧
        (∀ z, Untouched s q.2 z → t.rawRead z 1 = s.rawRead z 1) ∧
        ∃ tm' r' p', t.positionOf t.me = some (tm', r', p') ∧ (∀ k, k < f.2.2 → q.2 + k ∈ p'.reads) ∧ p'.buf = p.buf)

/-- R210: PGRET gives rank 0 its scalar file back; the next guess runs, and after the last one position 0 starts at the loop head.
PLEND with its commands done publishes the position, which waits for the window to end, but stops a position p ≥ 1 of which a command
has faulted (R214, R215), one of its own iteration by the issue order that the position began with; PLEND outside a position and PGRET outside the guess
routine trap with PLEAT, subcode USAGE. -/
def Sys2Proof.Claims.PleatIterations : Prop :=
  ∀ (s : State) (o : BitVec 24) (tm : Team) (r : Region),
    (∀ g : Guessing, s.guessingOf s.me = some (tm, r, g) → tm.whoOf 0 = some s.who → s.me.run = .active → Runs .pgret s fun t =>
      t.me.s = g.s ∧ t.me.run = .active ∧ t.me.blocked = none ∧
      (g.j + 1 < r.pos.length → t.me.pc = entryPc r.guess ∧
        ∃ r', (t.teamAt tm.id).bind (·.region) = some r' ∧ r'.guessing = some { j := g.j + 1, s := g.s }) ∧
      (r.pos.length ≤ g.j + 1 → t.me.pc = r.head ∧ ∃ r', (t.teamAt tm.id).bind (·.region) = some r' ∧ r'.guessing = none)) ∧
    (∀ p : Position, s.guessingOf s.me = none → s.positionOf s.me = some (tm, r, p) →
      s.me.pc + o.signExtend 64 <<< 2 = r.head → (∀ k : Fin 5, s.me.queues[k] = []) → EpochRoom s.me →
      s.me.rank = 0 ∨ (∀ f ∈ s.me.faults, f.order < p.order) → (∀ q, r.pos[s.me.rank + 1]? = some q → q.state = .idle ∨ q.input = p.output) →
      Runs (.plend o) s fun t =>
        t.me.run = .waiting ∧ t.me.blocked = some .window ∧ t.me.pc = s.me.pc ∧ t.me.s = s.me.s ∧
        ∃ r' p', (t.teamAt tm.id).bind (·.region) = some r' ∧ r'.pos[s.me.rank]? = some p' ∧ p' = { p with
          state := .published, after := nextPc s.me.pc 4 }) ∧
    (∀ p : Position, s.guessingOf s.me = none → s.positionOf s.me = some (tm, r, p) →
      s.me.pc + o.signExtend 64 <<< 2 = r.head → (∀ k : Fin 5, s.me.queues[k] = []) → s.me.rank ≠ 0 → (∃ f ∈ s.me.faults, p.order ≤ f.order) →
      Runs (.plend o) s fun t => t.me.pleatst.getLsbD 9 = true ∧
        ∃ r' p', (t.teamAt tm.id).bind (·.region) = some r' ∧ r'.pos[s.me.rank]? = some p' ∧ p'.state = .stopped ∧ p'.rejected = true) ∧
    (Trappable s → ∀ i ∈ [Instr.pgret, .plend o], Runs i s fun t =>
      t.me.trapcause.extractLsb' 0 16 = 3#8 ++ Cause.pleat ∧ t.me.mode = .handler ∧ t.me.pc = entryPc s.me.traphnd ∧
      t.me.trappc = s.me.pc ∧ t.me.s = s.me.s ∧ t.teams = s.teams)

/-- R209, R211, R212, R216: a window starts with as many positions as the width, the team and the iterations left allow, or one while a swap is
requested; it ends when every position has published or been killed: rank 0's carries are those of the last accepted
position, the iterations left fall by the accepted count, and stores of rejected positions are lost; behind the last iteration every
member goes on after the PLEND of the last accepted position.  An epoch that would reach 2^32 traps with EPOCH instead (R322). -/
def Sys2Proof.Claims.PleatEnds : Prop :=
  ∀ (s : State) (tm : Team) (r : Region) (w0 : Who), s.teamAt tm.id = some tm → tm.region = some r → tm.whoOf 0 = some w0 →
    (s.mgmt.pkghlt = false → s.windowReady tm r = true → r.guessing = none → Runs (.pleatWindowStart tm.id) s fun t =>
      ∃ r', (t.teamAt tm.id).bind (·.region) = some r' ∧ r'.begun = true ∧
        r'.pos.length = (if tm.placedWho.any fun w => (s.ctxOf w).pend then 1 else min (min r.width tm.members.length) r.left.toNat) ∧
        (r'.pos.length ≤ 1 → r'.guessing = none ∧ (t.ctxOf w0).pc = r.head) ∧
        (2 ≤ r'.pos.length → (t.ctxOf w0).pc = entryPc r.guess ∧ ∃ g, r'.guessing = some g ∧ g.j = 1) ∧
        (∀ p ∈ r'.pos, p.input = tm.carries ∧ p.buf = [])) ∧
    (s.windowReady tm r = false → Runs (.pleatWindowStart tm.id) s fun t => t = s) ∧
    (s.windowEnded tm r = false → Runs (.pleatWindowCommit tm.id) s fun t => t = s) ∧
    (∀ w, s.mgmt.pkghlt = false → s.windowEnded tm r = true → s.epochFull tm = some w → Runs (.pleatWindowCommit tm.id) s fun t =>
      t = s.deliver w { cause := Cause.mmx, sub := 3, val := 0 }) ∧
    (s.mgmt.pkghlt = false → s.windowEnded tm r = true → s.epochFull tm = none → (∀ p ∈ r.pos, p.checks = [] ∧ ∀ c ∈ p.buf, c.1 < 2 ^ 48 + 2 ^ 30) → (∀ c, (s.core c).l1 = []) → s.swPages = [] → Memory.wf s = true →
      let n := accepted r.pos
      Runs (.pleatWindowCommit tm.id) s fun t =>
        (∃ tm', t.teamAt tm.id = some tm' ∧ (∀ p, r.pos[n - 1]? = some p → tm'.carries = p.output) ∧
          (n < r.left.toNat → ∃ r', tm'.region = some r' ∧ r'.left.toNat = r.left.toNat - n ∧ r'.pos = []) ∧
          (r.left.toNat ≤ n → tm'.region = none)) ∧
        (r.left.toNat ≤ n → ∀ p, r.pos[n - 1]? = some p → ∀ k w, tm.whoOf k = some w →
          (t.ctxOf w).pc = p.after ∧ (t.ctxOf w).blocked = none) ∧
        (∀ z, z < 2 ^ 48 + 2 ^ 30 → (∀ p ∈ r.pos.take n, ∀ c ∈ p.buf, c.1 ≠ z) → t.rawRead z 1 = s.rawRead z 1) ∧
        (∀ p, r.pos = [p] → ∀ z v, z < 2 ^ 48 + 2 ^ 30 → p.buf.find? (fun c => c.1 == z) = some (z, v) → t.rawRead z 1 = [v]))

/-- Positions buffer their stores, publish in order, and a window ends with the accepted ones.  The model's choices: a position's scalar
store to scratch is performed at once (log 19), members go on after the PLEND of the last accepted position (log 39), and a position of 1 or
more with a faulted command of its own stops at PLEND, with the EPOCH trap at the commit (log 57). -/
def Obligations.PleatWindows : Prop :=
  PleatBuffers ∧ PleatIterations ∧ PleatEnds

/-! ## Launches -/

/-- R323, R328 to R330: a record of a ring with less than 64 bytes stays; a record of an unknown type, and a KERNEL record that is malformed, leaves an entry
in the completion ring and the ring goes on at its next lap; a KERNEL record that passes its checks becomes a pending launch,
and the ring goes on behind it.  That an unknown type is found before STRADDLE and LEN, and is reported with SEQ 0, is the model's choice (log 35). -/
def Obligations.LaunchRecords : Prop :=
  ∀ (s : State) (slot : Fin 16), s.mgmt.pkghlt = false → 
    let c := s.slots[slot]
    let size := ringSize c.lrsize
    let off := c.lrci.toNat % size
    let avail := c.lrpi.toNat - c.lrci.toNat
    (avail < 64 → Runs (.launchRingRecord slot) s fun t => t = s) ∧
    (64 ≤ avail → size ≠ 0 → c.heldEntries = [] → s.liveLaunches slot < 256 →
      ∀ s1 head, s.slotRead slot (c.lrbase.toNat + off) 64 = (s1, some head) →
        let typ := fieldAt head 0 1
        let len := 64 * fieldAt head 2 2
        let rejected := fun (seq err : Nat) (t : State) =>
          t.slots[slot].lrci = c.lrci + BitVec.ofNat 64 (size - off) ∧ t.launches = s.launches ∧ t.cores = s.cores ∧
          (ringSize c.crsize ≠ 0 → t.slots[slot].heldEntries =
            [entryBytes seq 0 err slot.val off s.gtc.toNat (size - off)])
        (2 < typ → Runs (.launchRingRecord slot) s (rejected 0 2)) ∧
        (typ ≤ 2 → len = 0 ∨ size < off + len → Runs (.launchRingRecord slot) s (rejected (recSeq head) 3)) ∧
        (typ = 0 → 0 < len → off + len ≤ size → len ≤ avail → Runs (.launchRingRecord slot) s fun t =>
          t.slots[slot] = { c with lrci := c.lrci + BitVec.ofNat 64 len } ∧ t.launches = s.launches ∧ t.cores = s.cores) ∧
        (typ = 1 → 0 < len → off + len ≤ size → len ≤ avail →
          ∀ s2 bs s3 res, s1.slotRead slot (c.lrbase.toNat + off) len = (s2, some bs) → s2.readKernel slot true off bs = (s3, res) →
            (res = none → Runs (.launchRingRecord slot) s (rejected (recSeq head) 1)) ∧
            ∀ l, res = some l → Runs (.launchRingRecord slot) s fun t =>
              t.launches = s.launches ++ [l] ∧ t.nextId = s.nextId + 1 ∧ t.cores = s.cores ∧
              t.slots[slot] = { c with lrci := c.lrci + BitVec.ofNat 64 len, lastSeq := some l.seq, seqs := (l.seq, none) :: c.seqs }))

/-- R329, R330, R348: with the package not halted, a pending launch runs once every dependence is satisfied; one with a failed dependence completes with error
4; a launch all of whose teams are gone completes with the largest status, and error 5 when a member was ended, once no store of it is outstanding; an entry is
written to the completion ring when there is room, and CRPI moves on by 32. -/
def Sys2Proof.Claims.PendingAndDone : Prop :=
  ∀ (s : State) (l : Launch), s.mgmt.pkghlt = false → s.launchAt l.id = some l → l.credit = none → l.cmpla = none → l.ring = true →
    let states := l.deps.map s.slots[l.slot].judge
    let completed := fun (status err : Nat) (t : State) =>
      (∃ l', t.launchAt l.id = some l' ∧ l'.phase = .done) ∧
      (ringSize s.slots[l.slot].crsize ≠ 0 → t.slots[l.slot].heldEntries = s.slots[l.slot].heldEntries ++
        [entryBytes l.seq.toNat status err l.slot.val l.offset.toNat s.gtc.toNat 0]) ∧ t.mem = s.mem ∧ t.cores = s.cores
    (l.phase = .pending → (∀ d ∈ states, d = .satisfied) → l.req = 0 → Runs (.launchReady l.id) s fun t =>
      t = ({ s with nextId := s.nextId + 1 } : State).modLaunch l.id fun l =>
        { l with phase := .running, readyAt := s.nextId, readyGtc := s.gtc.toNat }) ∧
    (l.phase = .pending → DepState.fails ∈ states → Runs (.launchReady l.id) s (completed 0 4)) ∧
    (l.phase = .pending → DepState.fails ∉ states → DepState.waits ∈ states → Runs (.launchReady l.id) s fun t => t = s) ∧
    (l.phase = .running → l.cut = l.total → s.storesOut l.id = false → (∀ t ∈ s.teams, t.launch = l.id → s.teamGone t = true) →
      Runs (.launchCompletion l.id) s (completed l.status (if l.memberErr then 5 else 0))) ∧
    (∀ (slot : Fin 16) e rest s1 p, s.slots[slot].heldEntries = e :: rest → e.length = 32 →
      let size := ringSize s.slots[slot].crsize
      let va := s.slots[slot].crbase.toNat + s.slots[slot].crpi.toNat % size
      size ≠ 0 → s.slots[slot].crpi.toNat - s.slots[slot].crci.toNat + 32 ≤ size → 2 ^ 48 ≤ va → va % 65536 + 32 ≤ 65536 →
      s.xlate slot va .write = (s1, .ok p) → Memory.wf s = true → HeldPages s → Runs (.completionEntryWrite slot) s fun t =>
        cellsRead t.mem p 32 = e ∧ (∀ z, z < p ∨ p + 32 ≤ z → cellGet t.mem z = cellGet s.mem z) ∧
        t.slots[slot] = { s.slots[slot] with heldEntries := rest, crpi := s.slots[slot].crpi + 32 } ∧ t.cores = s.cores)

/-- R103, R217, R330: LAUNCH, with or without a barrier to credit, passes its record on and completes; an accepted record is a running
launch that credits the issuer, a malformed one leaves an entry with error 1 and RING 255 and brings the barrier its arrival; with eight outstanding LAUNCH blocks, a
barrier that the team does not own traps with PRIV, and a misaligned record with ALIGN.  That LAUNCH blocks also while its slot holds
256 launches is the model's choice (log 58). -/
def Sys2Proof.Claims.DeviceLaunches : Prop :=
  ∀ (s : State) (a : SReg) (credit : Bool) (b : BitVec 6), InBounds s [a] → Plain s s.who → credit = true ∨ b = 0 →
    let i := Instr.launch a credit b
    let v := s.me.rs a
    let s0 := s.setCtx s.who (passed s s.me 8)
    let slot := s.me.slot
    let owned := credit = true → s.me.barown.getLsbD b.toNat = true
    (owned → v.toNat % 64 = 0 → s.me.launches < 8 → s.liveLaunches slot < 256 → Unposted s → ∀ s1 bs s2 res,
      s0.slotRead slot v.toNat 128 = (s1, some bs) → s1.readKernel slot false (v.toNat % 2 ^ 32) bs = (s2, res) →
      (∀ l, res = some l → (∀ k ∈ s.launches, k.id ≠ l.id) → Runs i s fun t =>
        t.me = { passed s s.me 8 with launches := s.me.launches + 1 } ∧
        (∃ l', t.launchAt l.id = some l' ∧ l'.phase = .running ∧
          l'.credit = some { team := s.me.team.getD s.nextId, rank := s.me.rank, bar := if credit then some b else none }) ∧
        t.mem = s.mem) ∧
      (res = none → Runs i s fun t =>
        t.me = passed s s.me 8 ∧ t.launches = s.launches ∧
        (ringSize s.slots[slot].crsize ≠ 0 → t.slots[slot].heldEntries = s.slots[slot].heldEntries ++
          [entryBytes (recSeq bs) 0 1 255 (v.toNat % 2 ^ 32) s.gtc.toNat 0]) ∧ t.mem = s.mem ∧
        (∀ tm k, credit = true → s.teamAt (s.me.team.getD s.nextId) = some tm → tm.phase ≠ .swapped → tm.groupCore s.me.rank = some k →
          (t.core k).barAt b = ((s.core k).barAt b).arrive))) ∧
    (owned → v.toNat % 64 = 0 → 8 ≤ s.me.launches ∨ 256 ≤ s.liveLaunches slot → Runs i s fun t => t = waits s i) ∧
    (owned → v.toNat % 64 ≠ 0 → Trappable s → Runs i s (TrapsWith s Cause.align 0 v)) ∧
    (¬ owned → Trappable s → Runs i s (TrapsWith s Cause.priv 0 i.head))

/-- Launches start after their dependences, complete with a status, and come from devices too. -/
def Obligations.LaunchProgress : Prop :=
  PendingAndDone ∧ DeviceLaunches

/-! ## The walker: placement, quanta and swaps -/

/-- R50, R331, R335, R336: the team that comes first and fits is placed: each of its contexts starts ACTIVE at the kernel's entry with
the preload of the launch, and the launch has one team more cut and goes on from the team's die; with no team that fits nothing
happens.  A core whose template set fails twice is withdrawn instead (R341; which ones do is a free value). -/
def Sys2Proof.Claims.PlacedTeams : Prop :=
  ∀ s : State, s.mgmt.pkghlt = false →
    (s.choosePlace s.served [] = none → Runs .teamPlacement s fun t => t = s) ∧
    ∀ w die ps, s.choosePlace s.served [] = some (w, die, ps) → s.partsFree w.launch ps = true →
      (∀ s0 c cs, s.spoiledSets w.launch ps = (s0, c :: cs) → Runs .teamPlacement s fun t =>
        t.teams = s.teams ∧ t.launches = s.launches ∧ ∀ d ∈ c :: cs, (t.core d).withdrawn = true) ∧
      (∀ s0, s.spoiledSets w.launch ps = (s0, []) → w.team = none → Runs .teamPlacement s fun t =>
        (∃ tm ∈ t.teams, tm.id = s.nextId ∧ tm.launch = w.launch.id ∧ tm.phase = .placed ∧ tm.die = die) ∧
        t.nextId = s.nextId + 1 ∧ (∃ l, t.launchAt w.launch.id = some l ∧ l.lastDie = die) ∧ t.lastSlot = w.launch.slot ∧
        ∀ p ∈ ps, ∀ m ∈ p.ctxs.zip p.ranks,
          let x := t.ctxOf { core := p.core, ctx := m.1 }
          x.run = .active ∧ x.mode = .user ∧ x.pc = entryPc w.launch.desc.entry ∧ x.team = some s.nextId ∧ x.slot = w.launch.slot ∧
          x.bankown = w.launch.desc.bankreq ∧ x.barown = w.launch.desc.barreq ∧ x.s[7] = BitVec.ofNat 64 x.rank ∧
          x.s[8] = BitVec.ofNat 64 w.launch.desc.team ∧ x.s[9] = w.launch.args ∧ x.fpc = 8 ∧ x.queues = Vector.replicate 5 []) ∧
      (∀ s0 tm m s1 bs, s.spoiledSets w.launch ps = (s0, []) → w.team = some tm → tm.seam = some m → s.teamAt tm.id = some tm →
        s0.slotRead w.launch.slot m.addr m.size = (s1, some bs) → Runs .teamPlacement s fun t =>
          ∃ tm', t.teamAt tm.id = some tm' ∧ tm'.phase = .placed ∧ tm'.die = die ∧ tm'.seam = none ∧ tm'.held = [])

/-- R30, R324, R342: at the end of a quantum a placed team that a waiting team would replace, and whose record has room, has the request set
for every member, with a budget of 4,096; otherwise a new quantum starts, with the length that QUANT then gives. -/
def Sys2Proof.Claims.QuantumExpiries : Prop :=
  ∀ (s : State) (tm : Team) (l : Launch), s.teamAt tm.id = some tm → s.launchAt tm.launch = some l → tm.phase = .placed → tm.seam = none →
    s.mgmt.pkghlt = false →
    (s.gtc.toNat < tm.quantumFrom + tm.quantum → Runs (.quantumExpiry tm.id) s fun t => t = s) ∧
    (tm.quantumFrom + tm.quantum ≤ s.gtc.toNat →
      (s.rival tm = false ∨ s.findRoom l.slot tm.seamBound = none → Runs (.quantumExpiry tm.id) s fun t =>
        let q := s.slots[l.slot].scfg.toNat / 2 ^ 32
        t = s.modTeam tm.id fun u => { u with quantumFrom := s.gtc.toNat, quantum := (if q = 0 then 2000 else q) * 1000 }) ∧
      (∀ a, s.rival tm = true → s.findRoom l.slot tm.seamBound = some a → Runs (.quantumExpiry tm.id) s fun t =>
        (∀ r w, tm.whoOf r = some w → t.ctxOf w = { s.ctxOf w with pend := true, budget := 4096, past := none }) ∧
        ∃ tm', t.teamAt tm.id = some tm' ∧ tm'.seam = some { addr := a, size := tm.seamBound, ctxs := [] }))

/-- R322, R343, R395, R396: with every member at the gather the quiesce begins, but with a network receive or counter test that cannot
end the swap is abandoned, and an epoch that would reach 2^32 traps; once the cut is reached the copies are stopped; then the record is
written, which begins with its magic number, and the team waits as a swapped one; 65,536 cycles after the gather the swap is
abandoned and the requests are cleared. -/
def Sys2Proof.Claims.TeamSwaps : Prop :=
  ∀ (s : State) (tm : Team), s.teamAt tm.id = some tm → s.mgmt.pkghlt = false →
    (s.gatherComplete tm = true → s.epochFull tm = none → (∀ m ∈ tm.ranksAt, (s.ctxOf m.2).netStuck = false) →
      Runs (.swapQuiesce tm.id) s fun t =>
        (∃ tm', t.teamAt tm.id = some tm' ∧ tm'.phase = .quiescing ∧ tm'.gatherAt = s.cycle) ∧ t.mem = s.mem) ∧
    (s.gatherComplete tm = true → s.epochFull tm = none → (∃ m ∈ tm.ranksAt, (s.ctxOf m.2).netStuck = true) →
      Runs (.swapQuiesce tm.id) s fun t =>
        (∃ tm', t.teamAt tm.id = some tm' ∧ tm'.phase = .placed ∧ tm'.seam = none) ∧ ∀ m ∈ tm.ranksAt, (t.ctxOf m.2).pend = false) ∧
    (∀ w, s.gatherComplete tm = true → s.epochFull tm = some w → Runs (.swapQuiesce tm.id) s fun t =>
      t = s.deliver w { cause := Cause.mmx, sub := 3, val := 0 }) ∧
    (tm.phase = .quiescing → s.cycle ≤ tm.gatherAt + 65536 → s.cutReached tm = true → Runs (.swapQuiesce tm.id) s fun t =>
      (∃ tm', t.teamAt tm.id = some tm' ∧ tm'.phase = .stopped) ∧ t.mem = s.mem ∧
      ∀ m ∈ tm.ranksAt, ∀ c ∈ (t.ctxOf m.2).queues[0], c.phase = .queued) ∧
    (tm.phase = .quiescing ∨ tm.phase = .stopped → tm.gatherAt + 65536 < s.cycle → Runs (.swapAbandon tm.id) s fun t =>
      (∃ tm', t.teamAt tm.id = some tm' ∧ tm'.phase = .placed ∧ tm'.seam = none) ∧
      ∀ m ∈ tm.ranksAt, (t.ctxOf m.2).pend = false) ∧
    (∀ l m s1 p, s.launchAt tm.launch = some l → tm.seam = some m → tm.phase = .stopped → tm.region = none →
      s.cycle ≤ tm.gatherAt + 65536 → s.teamQuiet tm = true → (∀ k ∈ tm.ranksAt, (s.ctxOf k.2).run ≠ .halted) →
      s.spans l.slot .write (pageParts m.addr (s.seamBytes tm l).length) = (s1, .ok [(p, (s.seamBytes tm l).length)]) →
      (∀ c, (s.core c).l1 = []) → Memory.wf s = true → HeldPages s → p + (s.seamBytes tm l).length ≤ 2 ^ 48 →
      Runs (.seamRecordWrite tm.id) s fun t =>
        cellsRead t.mem p 4 = [0x42#8, 0x4D#8, 0x45#8, 0x53#8] ∧
        (∃ tm', t.teamAt tm.id = some tm' ∧ tm'.phase = .swapped) ∧ ∀ k ∈ tm.ranksAt, (t.ctxOf k.2).run = .free)

/-- Teams are placed, asked to swap at a quantum's end, and swapped to their record. -/
def Obligations.TeamPlacements : Prop :=
  PlacedTeams ∧ QuantumExpiries ∧ TeamSwaps

/-- The waits that a hang reports, each with its kind and operand (R392). -/
inductive Sys2Proof.Claims.hangsAs : Blocked → Nat × Nat → Prop
  | bwait (b : BitVec 6) (p : Bool) : hangsAs (.wait (.bwait b p)) (1, b.toNat)
  | gbar (g : Byte) : hangsAs (.wait (.gbar g)) (2, g.toNat)
  | tkpop (f : Fifo) : hangsAs (.wait (.tkpop f)) (3, f.code.toNat)
  | tkpush (f : Fifo) : hangsAs (.wait (.tkpush f)) (4, f.code.toNat)
  | qwait (q : Queue) (n : BitVec 6) : hangsAs (.wait (.qwait q n)) (5, q.code.toNat)
  | emit (q : Queue) (ws : List IWord) : hangsAs (.wait (.emit q ws)) (6, q.code.toNat)
  | emitr (q : Queue) (a : SReg) (c : Byte) : hangsAs (.wait (.emitr q a c)) (6, q.code.toNat)
  | llease : hangsAs .lineLease (7, 0)
  | launch (a : SReg) (credit : Bool) (b : BitVec 6) : hangsAs (.wait (.launch a credit b)) (8, 0)
  | replay : hangsAs .drain (9, 0)
  | pld (r : Nat) : hangsAs (.remote r) (9, 0)
  | pleat (a b : SReg) (m : BitVec 4) : hangsAs (.wait (.pleat a b m)) (10, 0)

/-- R392 to R394: a context blocked for HANGT cycles traps with HANG, the kind and operand of its wait, whichever it is, and a record
of it, and so does one that issues without progress, at its next instruction; a member whose
budget has run out traps with SAFETO, and one that goes on for 4,096 instructions is ended. -/
def Obligations.HangsAndBudgets : Prop :=
  ∀ (s : State) (w : Who), s.mgmt.pkghlt = false → Plain s w →
    let x := s.ctxOf w
    let hung := fun (kind : Nat × Nat) (t : State) =>
      (t.ctxOf w).trapcause = Cause.hang.setWidth 64 ∧ (t.ctxOf w).trapval = BitVec.ofNat 64 (kind.1 + 256 * kind.2) ∧
      (t.ctxOf w).trappc = x.pc ∧ (t.ctxOf w).pc = entryPc x.traphnd ∧ (t.ctxOf w).mode = .handler ∧ (t.ctxOf w).run = .active ∧
      (t.ctxOf w).blocked = none ∧ t.mgmt.hangs.length = s.mgmt.hangs.length + 1 ∧ t.mem = s.mem
    (x.mode = .user → x.traphnd ≠ 0 → x.hangt ≠ 0 → x.hangt.toNat ≤ s.progressOf x →
      (s.frozen x = false → x.run = .waiting ∨ x.run = .active → ∀ b, x.blocked = some b → ∀ kind, hangsAs b kind →
        Runs (.hangDetection w) s (hung kind)) ∧
      (x.run = .active → x.blocked = none → x.step = .none → x.overdue = false → x.safetoDue = false →
        (s.core w.core).dbg.hreq.getLsbD w.ctx.val = false → (s.core w.core).dbg.matches x.pc = false →
        ∃ t, s.boundary w = .done t ∧ hung (0, 0) t)) ∧
    (x.hangt = 0 ∨ s.progressOf x < x.hangt.toNat → Runs (.hangDetection w) s fun t => t = s) ∧
    (x.run = .active → x.blocked = none → x.pend = true → x.budget = 0 → x.past = none → x.mode = .user → x.traphnd ≠ 0 →
      Runs (.safetoBudgetExpiry w) s fun t =>
        (t.ctxOf w).trapcause = Cause.safeto.setWidth 64 ∧ (t.ctxOf w).trapval = 4096#64 ∧ (t.ctxOf w).trappc = x.pc ∧
        (t.ctxOf w).pc = entryPc x.traphnd ∧ (t.ctxOf w).past = some 0 ∧ t.mem = s.mem) ∧
    (∀ n, x.run = .active → x.blocked = none → x.pend = true → x.past = some n → 4096 ≤ n → (∀ k : Fin 5, x.queues[k] = []) →
      Runs (.preemptEndMember w) s fun t => (t.ctxOf w).run = .free ∧ (t.ctxOf w).team = none)

/-! ## Engine commands -/

/-- A command stands first in its queue, unstarted, and neither the package nor the context is halted; the context runs no stopped or
killed Pleat position, whose commands report no fault (R39, R214, R399, R401).  No fault of the queue is unreported (R256, R383). -/
structure Sys2Proof.Claims.Heads (s : State) (w : Who) (q : Queue) (c : Cmd) (rest : List Cmd) : Prop where
  queue : (s.ctxOf w).queues[q.num] = c :: rest
  queued : c.phase = .queued ∧ c.checked = false ∧ c.cores = [] ∧ ∀ d ∈ rest, d.phase = .queued
  package : s.mgmt.pkghlt = false
  running : (s.ctxOf w).run ≠ .halted ∧ (s.ctxOf w).ended = false ∧ s.positionDead w = false
  copies : s.copiesStopped (s.ctxOf w) = false
  unfaulted : ∀ f ∈ (s.ctxOf w).faults, f.queue ≠ q

/-- The tokens that the command pops are there (R41). -/
structure Sys2Proof.Claims.Ready (s : State) (w : Who) (q : Queue) (c : Cmd) (rest : List Cmd) : Prop where
  heads : Heads s w q c rest
  tokens : ∀ f ∈ c.pops q, (s.ctxOf w).tok[f.num] ≠ []

/-- No other queue of the engine has a command to start, so that the rotation takes this one (R222, R253). -/
def Sys2Proof.Claims.Alone (s : State) (w : Who) (q : Queue) : Prop :=
  ∀ e ∈ engineQueues q.engine, e ≠ (w.ctx, q) → ∀ d ∈ ((s.core w.core).ctx[e.1]).queues[e.2.num], d.phase ≠ .queued

/-- The command may start: it is ready, and it is its engine's only one. -/
structure Sys2Proof.Claims.MayStart (s : State) (w : Who) (q : Queue) (c : Cmd) (rest : List Cmd) : Prop where
  ready : Ready s w q c rest
  alone : Alone s w q

/-- Nothing else holds the command: no bank role change (R33), no codebook load (R184), no matrix command that still has steps,
waits in the shadow slot or is an MSYNC that has not completed (R262, R268), and no remote store, nor a row to be tried again, that
a sealing command would wait for (R180), and no line lease (R176). -/
structure Sys2Proof.Claims.Unheld (s : State) (w : Who) : Prop where
  roles : (s.core w.core).roleChanges = []
  loads : s.loads = []
  matrix : ∀ y ∈ (s.core w.core).ctx.toList, ∀ d ∈ y.queues[1], d.phase ≠ .running ∧ (d.phase = .done → d.isSync .mxq = false)
  shadow : (s.core w.core).shadow = none
  lines : s.lineq = []
  stores : s.reqs = [] ∧ ∀ k : Fin 5, ∀ c ∈ (s.ctxOf w).queues[k], c.waits = []

/-- The events by which engines take commands: their queues, their operation codes, and the last code of the engine. -/
def Sys2Proof.Claims.starts (w : Who) (q : CopyQueue) : List (Instr × Queue × Nat × Nat) :=
  ([(.mma w, .mxq, 1, 12), (.mmat w, .mxq, 2, 12), (.mmab w, .mxq, 3, 12), (.mzero w, .mxq, 4, 12), (.mldc w, .mxq, 5, 12),
    (.mstc w, .mxq, 6, 12), (.mstcq w, .mxq, 7, 12), (.mbias w, .mxq, 8, 12), (.mswz w, .mxq, 9, 12), (.mgath w, .mxq, 10, 12),
    (.msync w, .mxq, 11, 12), (.mnop w, .mxq, 12, 12)] : List (Instr × Queue × Nat × Nat)) ++
  ([(.cpy w q, q.queue, 1, 13), (.cpym w q, q.queue, 2, 13), (.cget w q, q.queue, 3, 13), (.cwr w q, q.queue, 4, 13),
    (.cfill w q, q.queue, 5, 13), (.cgath w q, q.queue, 6, 13), (.cscat w q, q.queue, 7, 13), (.cpref w q, q.queue, 8, 13),
    (.cred w q, q.queue, 9, 13), (.cflag w q, q.queue, 10, 13), (.catom w q, q.queue, 11, 13), (.csum w q, q.queue, 12, 13),
    (.csync w q, q.queue, 13, 13)] : List (Instr × Queue × Nat × Nat)) ++
  ([(.nsend w, .nxq, 1, 7), (.nrecv w, .nxq, 2, 7), (.nwrite w, .nxq, 3, 7), (.ncnt w, .nxq, 4, 7), (.xconv w, .nxq, 5, 7),
    (.xrslot w, .nxq, 6, 7), (.xrcont w, .nxq, 7, 7)] : List (Instr × Queue × Nat × Nat))

/-- Operation code of a command (R224, R258, R272, R285). -/
def Sys2Proof.Claims.opOf (c : Cmd) : Nat := (tF c.bits 0).toNat % 256

/-- A command leaves its queue as faulted: the fault waits to be reported, with its cause, subcode and value; no token has
been popped, no flag raised, and memory is as before (R256, R383). -/
structure Sys2Proof.Claims.Refused (s : State) (w : Who) (q : Queue) (c : Cmd) (rest : List Cmd) (cause sub : Byte) (val : Word)
    (t : State) : Prop where
  queue : (t.ctxOf w).queues = (s.ctxOf w).queues.set q.num rest
  fault : (t.ctxOf w).faults =
    { queue := q, order := c.order, f1 := tF c.bits 1, cause := cause, sub := sub, val := val } :: (s.ctxOf w).faults
  context : (t.ctxOf w).tok = (s.ctxOf w).tok ∧ (t.ctxOf w).fps = (s.ctxOf w).fps ∧ (t.ctxOf w).s = (s.ctxOf w).s ∧
    (t.ctxOf w).pc = (s.ctxOf w).pc ∧ (t.ctxOf w).run = (s.ctxOf w).run
  memory : ∀ p, t.rawRead p 1 = s.rawRead p 1

/-- What TRAPVAL of an engine fault holds: its detail, its queue and the command's serial number (R382). -/
def Sys2Proof.Claims.engVal (q : Queue) (c : Cmd) (detail : Nat) : Word :=
  BitVec.ofNat 64 (detail + q.code.toNat * 2 ^ 52 + c.ser % 512 * 2 ^ 55)

/-- R39, R41, R250, R256, R382, R383: an engine takes the commands of a queue in order, one operation per event.  With no command unstarted,
behind an unreported fault, without its tokens, or with the package or the context halted, nothing happens; a command whose
code is not assigned faults with BADOP, and one whose barrier the team does not own with BADBAR. -/
def Sys2Proof.Claims.CommandFaults : Prop :=
  ∀ (s : State) (w : Who) (cq : CopyQueue), ∀ e ∈ (Instr.vectorCommand w, Queue.vxq, 0, 0) :: starts w cq,
    let q := e.2.1
    ((∀ d ∈ (s.ctxOf w).queues[q.num], d.phase = .done) → (∀ y ∈ (s.core w.core).ctx.toList, ∀ d ∈ y.queues[1], d.phase = .done) →
      Runs e.1 s fun t => t = s) ∧
    (∀ c, (s.ctxOf w).queues[q.num] = [c] → c.phase = .queued →
      ((∃ f ∈ (s.ctxOf w).faults, f.queue = q) ∨ (q ≠ .mxq ∧ ∃ f ∈ c.pops q, (s.ctxOf w).tok[f.num] = []) ∨
        s.mgmt.pkghlt = true ∨ (s.ctxOf w).run = .halted ∨
        (e.2.2.2 ≠ 0 ∧ opOf c ≠ e.2.2.1 ∧ 0 < opOf c ∧ opOf c ≤ e.2.2.2)) → Runs e.1 s fun t => t = s) ∧
    (∀ c rest, MayStart s w q c rest → Unheld s w →
      (opOf c = 0 ∨ e.2.2.2 ≠ 0 ∧ e.2.2.2 < opOf c → Runs e.1 s (Refused s w q c rest Cause.engine 1 (engVal q c 0))) ∧
      (e.2.2.2 ≠ 0 → opOf c = e.2.2.1 → (s.ctxOf w).barown.getLsbD ((tF c.bits 1).toNat / 16 % 64) = false →
        Runs e.1 s (Refused s w q c rest Cause.engine 2 (engVal q c 1))))

/-- Place of a queue in its engine's rotation, which begins after the queue last served. -/
def Sys2Proof.Claims.turn (s : State) (w : Who) (q : Queue) : Nat :=
  let l := engineQueues q.engine
  (l.idxOf (w.ctx, q) + l.length - 1 - (s.core w.core).served[q.engine.num]) % l.length

/-- R222, R253: an engine serves its core's queues in rotation: while a queue whose turn comes before has a command that may be
taken, the command of a later one stays where it is. -/
def Sys2Proof.Claims.Rotation : Prop :=
  ∀ (s : State) (w v : Who) (cq : CopyQueue) (q : Queue) (c d : Cmd) (rest later : List Cmd),
    ∀ e ∈ (Instr.vectorCommand v, Queue.vxq, 0, 0) :: starts v cq,
      let r := e.2.1
      w.core = v.core → q.engine = r.engine → Ready s w q c rest → Ready s v r d later → Unheld s w → Unheld s v →
      (s.core w.core).served[q.engine.num] < (engineQueues q.engine).length → turn s w q < turn s v r → Runs e.1 s fun t => t = s

/-- R262: a matrix command without its tokens has its start checks made in the shadow slot, and goes back to the head of its queue with
them kept; it is then taken when its tokens are there. -/
def Sys2Proof.Claims.ShadowChecks : Prop :=
  ∀ (s : State) (w : Who) (cq : CopyQueue) (c : Cmd) (rest : List Cmd), ∀ e ∈ starts w cq, e.2.1 = .mxq → opOf c = e.2.2.1 →
    Heads s w .mxq c rest → Alone s w .mxq → Unheld s w → s.matChecks (s.ctxOf w) c = .ok () →
    (∃ f ∈ c.pops .mxq, (s.ctxOf w).tok[f.num] = []) →
    Runs e.1 s fun t =>
      t.ctxOf w = { s.ctxOf w with queues := (s.ctxOf w).queues.set 1 ({ c with checked := true } :: rest) } ∧
      (t.core w.core).shadow = none ∧ (∀ z, t.rawRead z 1 = s.rawRead z 1) ∧ Runs e.1 t fun u => u = t

/-- Commands start in order and in rotation, or fault at their start checks. -/
def Obligations.CommandStarts : Prop :=
  CommandFaults ∧ Rotation ∧ ShadowChecks

/-- A command has been taken: its tokens are gone, its clock has joined theirs, it runs, and the engine has served its queue (R41, R222,
R253, R318). -/
structure Sys2Proof.Claims.Taken (s : State) (w : Who) (q : Queue) (c : Cmd) (rest : List Cmd) (c1 : Cmd) (t : State) : Prop where
  command : c1 = { c with
    phase := .running
    checked := decide (q = .mxq)
    clock := (c.pops q).foldl (fun v f => match (s.ctxOf w).tok[f.num] with
      | k :: _ => joined v k
      | [] => v) c.clock }
  tokens : ∀ f : Fifo, (t.ctxOf w).tok[f.num] = if f ∈ c.pops q then (s.ctxOf w).tok[f.num].tail else (s.ctxOf w).tok[f.num]
  frame : t = (s.setCtx w { s.ctxOf w with tok := (t.ctxOf w).tok, queues := (s.ctxOf w).queues.set q.num (c1 :: rest) }).modCore
    w.core fun k => { k with served := (s.core w.core).served.set q.engine.num ((engineQueues q.engine).idxOf (w.ctx, q)) }

/-- The start checks of an operation, and what it does once they have passed, as the engine's own section gives it. -/
def Sys2Proof.Claims.engine (s : State) (w : Who) (q : Queue) (c : Cmd) : Except Trap Unit × (State → Cmd → Started) :=
  match q with
  | .vxq => (vecChecks (s.ctxOf w) c, fun s c => s.vecBody w 0 c)
  | .mxq => (s.matChecks (s.ctxOf w) c, fun s c => s.matBody w 0 c)
  | .nxq => (s.netChecks (s.ctxOf w) c, fun s c => s.netBody w c)
  | _ => (s.copyChecks q (s.ctxOf w) c, fun s c => s.copyBody w c)

/-- R221, R253, R256, R259, R276, R286: a command whose checks pass is taken and does its work: a vector command its iterations, a matrix
command its steps, a copy or network command what it does at its start.  Afterwards it is done, with its bytes and flags;
or it runs on; or it has faulted, with the flags of the work before the fault. -/
def Obligations.CommandsRun : Prop :=
  ∀ (s : State) (w : Who) (cq : CopyQueue), ∀ e ∈ (Instr.vectorCommand w, Queue.vxq, 0, 0) :: starts w cq,
    let q := e.2.1
    ∀ c rest, MayStart s w q c rest → Unheld s w → (e.2.2.2 ≠ 0 → opOf c = e.2.2.1) → (engine s w q c).1 = .ok () →
      ∀ c1 s1, Taken s w q c rest c1 s1 →
        match (engine s w q c).2 s1 c1 with
        | .done s2 n fl => Runs e.1 s fun t =>
          t = s2.modCmd w q 0 fun d => { d with phase := .done, bytes := n, flags := d.flags ||| fl }
        | .running s2 f => Runs e.1 s fun t => t = s2.modCmd w q 0 f
        | .fault s2 tr fl => Runs e.1 s fun t => t = s2.failCmd w q 0 c1 tr fl

/-- The events that carry commands on from outside their queues: joins, multicast fetches, what switches answer, and Ethernet. -/
def Sys2Proof.Claims.carries (team : Nat) (g : BitVec 8) (core : CoreId) (req : Nat) (v : Word) (bs : List Byte) (nan : Bool)
    (p : TagPacket) (x : WritePacket) (key : BitVec 32) (n : NetCmd) (ks : List Nat) : List Instr :=
  [.credJoinComplete team g, .multicastFetchServe core, .multicastJoinTimeout core, .slotGrant req v, .slotResult req bs nan,
    .slotTimeout req v, .slotExpired req, .slotUnknown req, .taggedMessageArrival g p, .nwriteArrival g key v x, .ethernetAck n ks nan,
    .retransmitTimeout n req]

/-- R10, R24, R27 to R33, R221, R253, R276, R394: engines touch no register of a context: whatever command an event takes, carries on,
answers or completes, the scalar registers, handles, PC, build registers, control words and trap words of every context are as before;
FPS loses no flag; the request for pre-emption stays but for a member that has ended, PLEATST while no Pleat region is under way, and
BANKROLE but for banks that return to CACHE because a team has left the core (R35); and DIRTYLIM, the slots' registers and the
templates of every plane are as before. -/
def Obligations.EnginesKeepRegisters : Prop :=
  ∀ (s t : State) (w v : Who) (cq : CopyQueue) (q : Queue) (a : RowAnswer) (team : Nat) (g : BitVec 8) (core : CoreId) (req : Nat)
      (word : Word) (bs : List Byte) (nan : Bool) (p : TagPacket) (pw : WritePacket) (key : BitVec 32) (n : NetCmd) (ks : List Nat),
    ∀ i ∈ [Instr.vectorCommand w, .copyRowLanding w cq a, .engineCommandCompletion w q] ++ (starts w cq).map (·.1) ++
        carries team g core req word bs nan p pw key n ks,
      exec i s = .next t →
        let x := s.ctxOf v
        let y := t.ctxOf v
        (y.s = x.s ∧ y.h = x.h ∧ y.pc = x.pc ∧ y.mode = x.mode ∧ y.allot = x.allot ∧ y.fpc = x.fpc ∧ y.build = x.build ∧ y.order = x.order) ∧
        (x.fps &&& ~~~y.fps = 0) ∧
        (y.groups = x.groups ∧ y.bankown = x.bankown ∧ y.barown = x.barown ∧ y.trapcause = x.trapcause ∧ y.trappc = x.trappc ∧
          y.trapval = x.trapval ∧ y.traphnd = x.traphnd) ∧
        (y.teamid = x.teamid ∧ y.slot = x.slot ∧ y.leasemax = x.leasemax ∧ y.bkoff = x.bkoff ∧ y.bklim = x.bklim ∧ y.hangt = x.hangt) ∧
        (x.ended = false → y.pend = x.pend ∧ y.budget = x.budget) ∧
        ((∀ tm ∈ s.teams, tm.region = none) → y.pleatst = x.pleatst) ∧
        (∀ c, (t.core c).dirtylim = (s.core c).dirtylim ∧ ∀ b, b < 32 →
          let role := fun (v : Word) => v.toNat / 4 ^ b % 4
          role (t.core c).bankrole = role (s.core c).bankrole ∨ role (t.core c).bankrole = 0) ∧
        (∀ c, (t.core c).planes = (s.core c).planes) ∧ t.slots = s.slots

/-- R223, R254, R286, R318: the head of a queue completes when its work is done and its tokens find room: its flags are ORed into FPS,
its tokens pushed with its clock, and its barrier gets one arrival, or its bytes; a network command with CEN adds one to its
counter before.  A command that still runs stays; so does one whose push finds a full FIFO, but its flags and its other push are
given at once (R41). -/
def Obligations.CommandCompletion : Prop :=
  ∀ (s : State) (w : Who) (q : Queue) (c : Cmd) (rest : List Cmd), (s.ctxOf w).queues[q.num] = c :: rest →
    (s.ctxOf w).ended = false → c.cores = [] → s.positionDead w = false →
    let f1 := (tF c.bits 1).toNat
    let f0 := (tF c.bits 0).toNat
    let copied := (q = .ldq ∨ q = .stq) ∧ opOf c ∈ [1, 2, 3, 4, 5, 6, 7, 9]
    let b : BitVec 6 := BitVec.ofNat 6 (f1 / 16)
    let v := (s.core w.core).barAt b
    let counter := q = .nxq ∧ f0 / 1024 % 2 = 1
    let owes := fun f => f ∈ c.pushes q ∧ f ∉ c.pushed
    let room := fun f : Fifo => (s.ctxOf w).tok[f.num].length < 16
    let finished := c.phase = .done ∨ c.phase = .running ∧ q = .nxq ∧ opOf c = 5 ∧ c.conv = []
    (c.phase = .queued ∨ c.phase = .running ∧ ¬ (q = .nxq ∧ opOf c = 5) → Runs (.engineCommandCompletion w q) s fun t => t = s) ∧
    (finished → (∃ f, owes f ∧ ¬ room f) → Runs (.engineCommandCompletion w q) s fun t =>
        (∀ f : Fifo, (t.ctxOf w).tok[f.num] = (s.ctxOf w).tok[f.num] ++ if owes f ∧ room f then [c.clock] else []) ∧
        t = s.setCtx w { s.ctxOf w with
          queues := (s.ctxOf w).queues.set q.num ({ c with
            phase := .done, flags := 0
            pushed := c.pushed ++ (c.pushes q).filter fun f => !c.pushed.contains f && decide (room f) } :: rest)
          fps := (s.ctxOf w).fps ||| c.flags.setWidth 64
          tok := (t.ctxOf w).tok }) ∧
    (finished → (∀ f, owes f → room f) → Runs (.engineCommandCompletion w q) s fun t =>
        (∀ f : Fifo, (t.ctxOf w).tok[f.num] = (s.ctxOf w).tok[f.num] ++ if owes f then [c.clock] else []) ∧
        t.ctxOf w = { s.ctxOf w with
          queues := (s.ctxOf w).queues.set q.num rest
          fps := (s.ctxOf w).fps ||| c.flags.setWidth 64
          tok := (t.ctxOf w).tok } ∧
        (f1 / 1024 % 2 = 0 → (t.core w.core).bar = (s.core w.core).bar) ∧
        (f1 / 1024 % 2 = 1 → (∀ k, k ≠ b → (t.core w.core).barAt k = (s.core w.core).barAt k) ∧
          (t.core w.core).barAt b =
            if f0 / 256 % 2 = 1 then { afterUpdate (if v.expa.toNat < v.arra.toNat + 1 then { v with err := true } else { v with arra := v.arra + 1 })
              with clock := joined v.clock c.clock }
            else if copied then v
            else { afterUpdate { v with arrb := v.arrb + BitVec.ofNat 32 c.bytes } with clock := joined v.clock c.clock }) ∧
        (¬ counter → ∀ p, t.rawRead p 1 = s.rawRead p 1) ∧
        (counter → Plain s w → ∀ p, s.counterPlace w c.bits = .ok p → Memory.wf s = true →
          leNat (t.rawRead p 8) = (leNat (s.rawRead p 8) + 1) % 2 ^ 64 ∧ ∀ z, z < p ∨ p + 8 ≤ z → t.rawRead z 1 = s.rawRead z 1))

/-! ## The matrix engine -/

/-- A tile of 64 rows of 64 cells. -/
abbrev Sys2Proof.Claims.isTile (c : List (List Nat)) : Prop := c.length = 64 ∧ ∀ r ∈ c, r.length = 64

/-- Cell (i, j). -/
def Sys2Proof.Claims.cellAt (c : List (List Nat)) (i j : Nat) : Nat := (c.getD i []).getD j 0

/-- R264 to R268: what one step makes of its tile, cell by cell: MZERO zeroes it; MMAB adds the one bits of two rows of bits put
together by AND or XOR; MMA on integers adds the sum of products, modulo 2^32; MSWZ transposes it; MBIAS adds one bias to
every cell of a column, or of a row; MSTC leaves it. -/
def Sys2Proof.Claims.MatrixCells : Prop :=
  ∀ (t : TemplateBits) (cb : Nat → Nat → Nat) (a b : List (Nat × List Byte)) (c : List (List Nat)) (d : List (List Byte)) (i j : Nat),
    isTile c → i < 64 → j < 64 →
    let op := (tF t 0).toNat % 256
    let out := stepOut t cb a b c d
    let gives := fun (v : Nat) => ∃ r, out.c = some r ∧ cellAt r i j = v
    let row := fun (l : List (Nat × List Byte)) (k : Nat) => leNat (l.getD k (0, [])).2
    let units := fun (l : List (Nat × List Byte)) (fmt k : Nat) => ((l.map fun x => (Blk.of x.1 (portWidth fmt) x.2 cb).units).getD k [])
    (op = 4 → gives 0) ∧
    (op = 3 → gives ((cellAt c i j + ((List.range 32).map fun k =>
      if (if (tF t 0).toNat / 1024 % 2 = 1 then (row a i).testBit k && (row b j).testBit k
          else (row a i).testBit k != (row b j).testBit k) then 1 else 0).sum) % 2 ^ 32)) ∧
    (op = 1 → (tF t 0).toNat / 512 % 2 = 1 → (tF t 3).toNat % 256 ≠ 0x81 →
      gives (((cellAt c i j : Int) + (((units a ((tF t 3).toNat % 256) i).zip (units b ((tF t 3).toNat / 256) j)).map
        fun (p : Int × Int) => p.1 * p.2).sum) % 2 ^ 32).toNat) ∧
    (op = 9 → (tF t 4).toNat / 4096 % 4 = 0 → gives (cellAt c j i)) ∧
    (op = 8 → (tF t 3).toNat % 256 = 0xA1 →
      let bias := elemsOf (a.flatMap (·.2)) 32 64
      gives (f32Add (Env.of (tF t 2)) (cellAt c i j) (bias.getD (if (tF t 0).toNat / 2048 % 2 = 1 then i else j) 0)).1) ∧
    (op = 6 ∨ op = 7 → out.c = none)

/-- R259, R260, R268: MZERO zeroes the tile of every step in the issuing core's operand buffers, counts 16,384 bytes a step, and changes no
other byte; MSYNC and MNOP change nothing. -/
def Sys2Proof.Claims.MatrixCommands : Prop :=
  ∀ (s : State) (w : Who) (c : Cmd) (rest : List Cmd), MayStart s w .mxq c rest → Unheld s w → s.matChecks (s.ctxOf w) c = .ok () → Plain s w →
    let counts := (List.range 6).map fun l => (tF c.bits (24 + 5 * l)).toNat
    let finished := fun (n : Nat) (t : State) =>
      ∃ c1, (t.ctxOf w).queues[1] = c1 :: rest ∧ c1.phase = .done ∧ c1.bytes = n ∧ c1.flags = c.flags ∧ c1.bits = c.bits
    (opOf c = 4 → ∀ places : Nat → List Nat,
      (∀ k, k < counts.prod → s.matPlaces w opbufPort true (cAcc c.bits k) = .ok (places k)) →
      (∀ k, k < counts.prod → ∀ a ∈ cAcc c.bits k, s.touched (s.ctxOf w) a.1.toNat a.2 = []) → Memory.wf s = true →
      Runs (.mzero w) s fun t => finished (16384 * counts.prod) t ∧
        ∀ z, z < 2 ^ 48 + 2 ^ 30 → t.rawRead z 1 =
          if ∃ k, k < counts.prod ∧ ∃ p ∈ places k, p ≤ z ∧ z < p + 256 then [0#8] else s.rawRead z 1) ∧
    (opOf c = 11 → Runs (.msync w) s fun t => finished 0 t ∧ ∀ z, t.rawRead z 1 = s.rawRead z 1) ∧
    (opOf c = 12 → Runs (.mnop w) s fun t => finished 0 t ∧ ∀ z, t.rawRead z 1 = s.rawRead z 1)

/-- R263: a multicast fetch is served when every member of its group in the source's cluster has joined, and 4,096 cycles after its first
request at the latest; later requests of its serial number are ordinary reads. -/
def Sys2Proof.Claims.MulticastFetches : Prop :=
  ∀ (s : State) (core : CoreId) (m : Mcast), (s.core core).mcast = [m] → m.late = false →
    ((∀ r ∈ s.mcastMembers core m, r ∈ m.joined) → Runs (.multicastFetchServe core) s fun t =>
      (t.core core).mcast = [] ∧ ∀ p, t.rawRead p 1 = s.rawRead p 1) ∧
    ((∃ r ∈ s.mcastMembers core m, r ∉ m.joined) → Runs (.multicastFetchServe core) s fun t => t = s) ∧
    (s.cycle < m.since + 4096 → Runs (.multicastJoinTimeout core) s fun t => t = s) ∧
    (m.since + 4096 ≤ s.cycle → Runs (.multicastJoinTimeout core) s fun t =>
      (t.core core).mcast = [{ m with joined := [], late := true }] ∧ ∀ p, t.rawRead p 1 = s.rawRead p 1)

/-! ## The vector engine -/

/-- R236, R241: the element operations on 32-bit patterns: the floating-point ones are those of the scalar instructions, the others are
exact; a comparison gives all ones or zero. -/
def Sys2Proof.Claims.VectorLanes : Prop :=
  ∀ (e : Env) (m a b c : Nat), a < 2 ^ 32 → b < 2 ^ 32 → c < 2 ^ 32 →
    let lane := fun code => vLane e code m a b c
    let x := fun (v : Nat) => (BitVec.ofNat 32 v).toInt
    let yes := fun (r : Bool × Flags) => ((if r.1 then 2 ^ 32 - 1 else 0 : Nat), r.2)
    lane 0x01 = f32Add e a b ∧ lane 0x02 = f32Sub e a b ∧ lane 0x03 = f32Mul e a b ∧ lane 0x04 = f32Fma e a b c ∧
    lane 0x06 = f32Min e a b ∧ lane 0x07 = f32Max e a b ∧ lane 0x0D = f32Div e a b ∧
    lane 0x1A = (if a = 0 then c else b, 0) ∧ lane 0x1B = yes (f32Cmp e .eq a b) ∧ lane 0x1C = yes (f32Cmp e .lt a b) ∧
    lane 0x1D = yes (f32Cmp e .le a b) ∧
    lane 0x1F = ((a + b) % 2 ^ 32, 0) ∧ lane 0x20 = (((a : Int) - b) % 2 ^ 32 |>.toNat, 0) ∧ lane 0x21 = (a * b % 2 ^ 32, 0) ∧
    lane 0x22 = (if x b ≤ x a then a else b, 0) ∧ lane 0x23 = (if x a ≤ x b then a else b, 0) ∧
    lane 0x25 = (a &&& b, 0) ∧ lane 0x26 = (a ||| b, 0) ∧ lane 0x27 = (a ^^^ b, 0) ∧
    lane 0x28 = (a * 2 ^ (b % 32) % 2 ^ 32, 0) ∧ lane 0x29 = (a / 2 ^ (b % 32), 0) ∧ lane 0x2F = (a, 0)

/-- Matrix steps cell by cell, and vector element operations lane by lane. -/
def Obligations.CellsAndLanes : Prop :=
  MatrixCells ∧ VectorLanes

/-- R226, R227, R231: a vector command writes through its output ports alone: a byte that no output of any iteration covers is as before, and
so is device memory. -/
def Sys2Proof.Claims.VectorWrites : Prop :=
  ∀ (s : State) (w : Who) (c : Cmd) (rest : List Cmd), MayStart s w .vxq c rest → Unheld s w → vecChecks (s.ctxOf w) c = .ok () → Plain s w →
    let n := fun k => (tF c.bits (12 + k)).toNat
    ∀ z, (∀ k, k < n 0 * n 1 * n 2 → ∀ o ∈ activeOuts c.bits,
        ∀ a ∈ portAccesses c.bits (4 + o) { i1 := k % n 0, i2 := k / n 0 % n 1, i3 := k / n 0 / n 1, serial := k },
        ∀ p, s.portPlace w anyPort true a.1 a.2 = .ok p → z < p ∨ p + a.2 ≤ z) →
      z < 2 ^ 48 + 2 ^ 30 → Memory.wf s = true → Runs (.vectorCommand w) s fun t => t.rawRead z 1 = s.rawRead z 1 ∧ t.mem = s.mem

/-- What matrix and vector commands write, and when a multicast fetch is served. -/
def Obligations.EngineWrites : Prop :=
  MatrixCommands ∧ VectorWrites ∧ MulticastFetches

/-! ## The copy engine -/

/-- The command of a copy queue that an event names, the `nth` of those that run, waits for no conversion and for no row of its replay queue,
and has a row to move; no store is hidden from a command, and no line is leased (R176, R253, R276, R304). -/
structure Sys2Proof.Claims.Landing (s : State) (w : Who) (q : CopyQueue) (c : Cmd) (pre rest : List Cmd) (nth : Nat) : Prop where
  queue : (s.ctxOf w).queues[q.queue.num] = pre ++ c :: rest ∧ (pre.filter Cmd.lands).length = nth
  running : c.phase = .running ∧ c.conv = [] ∧ c.waits = [] ∧ (s.ctxOf w).ended = false
  seen : s.hides = [] ∧ s.lineq = []
  row : c.row < (tF c.bits 12).toNat * (tF c.bits 13).toNat * (tF c.bits 14).toNat
  plain : Plain s w
  simple : Memory.wf s = true ∧ HeldPages s ∧ s.positionDead w = false

/-- Row `k` has landed; after the last one the command is done, or, for a flagged write, its flag add follows; the other commands of the
queue are as before (R276, R278). -/
def Sys2Proof.Claims.rowDone (s : State) (w : Who) (q : CopyQueue) (c : Cmd) (pre rest : List Cmd) (k : Nat) (flagged : Bool) (t : State) : Prop :=
  let row := max c.row (k + 1)
  let waits := c.waits.filter fun e => decide (e.row ≠ k)
  let last := row = (tF c.bits 12).toNat * (tF c.bits 13).toNat * (tF c.bits 14).toNat ∧ waits = [] ∧ flagged = false
  (t.ctxOf w).queues = (s.ctxOf w).queues.set q.queue.num
    (pre ++ { c with row := row, waits := waits, phase := if last then .done else .running } :: rest)

/-- Nothing is in the way of an engine access to a part: no detected object, and no poisoned granule. -/
abbrev Sys2Proof.Claims.FreePart (s : State) (w : Who) (p : Span) : Prop :=
  s.touched (s.ctxOf w) p.va p.len = [] ∧ ∀ k, k < p.len → s.poisoned (p.place + k) 1 = false

/-- A barrier credit of `n` bytes on a core, when the command credits rows (R276). -/
def Sys2Proof.Claims.credited (s : State) (c : Cmd) (core : CoreId) (n : Nat) (t : State) : Prop :=
  let b : BitVec 6 := BitVec.ofNat 6 ((tF c.bits 1).toNat / 16)
  let v := (s.core core).barAt b
  let on := (tF c.bits 1).toNat / 1024 % 2 = 1 ∧ (tF c.bits 0).toNat / 256 % 2 = 0
  (t.core core).barAt b = if on then { afterUpdate { v with arrb := v.arrb + BitVec.ofNat 32 n } with clock := joined v.clock c.clock } else v

/-- R273, R275, R276, R279, R282: a row between two address sides.  CPY, CGATH and CSCAT write the bytes that their source holds before
the row, CFILL its pattern of eight bytes, and CPYM the bytes to every core that it writes; a negative index gives a row of
zeros, or no row.  Every other byte is as before, the row is counted, and the barrier gets the row's bytes. -/
def Sys2Proof.Claims.RowsMoved : Prop :=
  ∀ (s : State) (w : Who) (q : CopyQueue) (c : Cmd) (pre rest : List Cmd) (a : RowAnswer), Claims.Landing s w q c pre rest a.nth →
    let t0 := c.bits
    let sides := (tF t0 0).toNat / 512 % 4
    let len := (tF t0 15).toNat
    let saddr : Int := cSaddr t0 + srcOff c c.row
    let daddr : Int := cDaddr t0 + dstOff c c.row
    let negative := (((c.idx[c.row % (tF t0 12).toNat]?).getD 0).toInt < 0)
    let writes := fun (p : Span) (byte : Nat → Byte) (t : State) =>
      rowDone s w q c pre rest c.row false t ∧ credited s c w.core len t ∧
      ∀ z, z < 2 ^ 48 + 2 ^ 30 → t.rawRead z 1 = if p.place ≤ z ∧ z < p.place + len then [byte (z - p.place)] else s.rawRead z 1
    sides = 0 → len ≠ 0 →
    (opOf c = 5 → ∀ s1 p, s.sideAt w daddr len .write = (s1, .ok [p]) → p.len = len → FreePart s1 w p →
      Runs (.copyRowLanding w q a) s (writes p fun k => BitVec.ofNat 8 ((cAux t0).toNat / 256 ^ (k % 8)))) ∧
    (opOf c = 1 ∨ opOf c = 6 ∧ ¬ negative ∨ opOf c = 7 ∧ ¬ negative → ∀ s1 s2 s3 p d,
      s.sideAt w saddr len .read = (s1, .ok [p]) → s1.sideAt w daddr len .write = (s2, .ok [d]) →
      s2.sideAt w saddr len .read = (s3, .ok [p]) → p.len = len → d.len = len → FreePart s3 w p → FreePart s3 w d →
      Runs (.copyRowLanding w q a) s (writes d fun k => ((s.rawRead p.place len)[k]?).getD 0)) ∧
    (opOf c = 6 → negative → ∀ s1 d, s.sideAt w daddr len .write = (s1, .ok [d]) → d.len = len → FreePart s1 w d →
      Runs (.copyRowLanding w q a) s (writes d fun _ => 0)) ∧
    (opOf c = 7 → negative → Runs (.copyRowLanding w q a) s fun t => rowDone s w q c pre rest c.row false t ∧ ∀ z, t.rawRead z 1 = s.rawRead z 1) ∧
    (opOf c = 2 → ∀ s1 p places, s.sideAt w saddr len .read = (s1, .ok [p]) → p.len = len → FreePart s1 w p →
      s1.castPlaces w daddr len c.cores = .ok places → s1.touched (s.ctxOf w) (addr64 daddr) len = [] → c.cores.Nodup →
      Runs (.copyRowLanding w q a) s fun t => rowDone s w q c pre rest c.row false t ∧
        (∀ e ∈ places, credited s c e.1 len t ∧ ∀ k, k < len → t.rawRead (e.2 + k) 1 = [((s.rawRead p.place len)[k]?).getD 0]) ∧
        ∀ z, z < 2 ^ 48 + 2 ^ 30 → (∀ e ∈ places, z < e.2 ∨ e.2 + len ≤ z) → t.rawRead z 1 = s.rawRead z 1)

/-- R276 to R279, R186, R255, R382: a row lands, waits, is tried again, or ends its command: after BKLIM answers of
receiver-not-ready with POOLRNR, and with the fault of the row otherwise.  Before its k-th retry it waits BKOFF × 2^min(k−1, 16) ns
in one of the 16 entries of the context's replay queue, and meanwhile rows that share no page and no written byte with it go on; one that does
waits behind it.  The flag add of a flagged write follows its last row, and it ends the command. -/
def Sys2Proof.Claims.RowOutcomes : Prop :=
  ∀ (s : State) (w : Who) (q : CopyQueue) (c : Cmd) (rest : List Cmd) (a : RowAnswer),
    (s.ctxOf w).queues[q.queue.num] = c :: rest → c.phase = .running → c.conv = [] → (s.ctxOf w).ended = false → c.cores = [] → Plain s w →
    a.nth = 0 → opOf c ∈ [1, 2, 3, 4, 5, 6, 7] →
    let o := if cUsesObj c.bits then s.objOf (s.ctxOf w) (cObj c.bits) else none
    let rows := (tF c.bits 12).toNat * (tF c.bits 13).toNat * (tF c.bits 14).toNat
    let bklim := (tF c.bits 62).toNat % 256
    let bkoff := (tF c.bits 60).toNat + 65536 * (tF c.bits 61).toNat
    let flagged := cFlagged c.bits
    let event := Instr.copyRowLanding w q a
    let queue := fun (s1 : State) (d : Cmd) (t : State) => (t.ctxOf w).queues = (s1.ctxOf w).queues.set q.queue.num (d :: rest)
    (∀ k n, (c.waits = [] ∧ k = c.row ∧ c.row < rows ∧ n = 0 ∨
        ∃ e, c.waits = [e] ∧ e.attempts ≠ 0 ∧
          (e.due ≤ s.gtc.toNat ∧ k = e.row ∧ k < rows ∧ n = e.attempts ∨
            s.gtc.toNat < e.due ∧ c.row < rows ∧ rowsClash c o e.row c.row = false ∧ k = c.row ∧ e.row ≠ k ∧ n = 0)) →
      match s.landRow w q.queue c o k a.reply with
      | .ok s1 _ => Runs event s fun t => rowDone s1 w q c [] rest k flagged t ∧ ∀ z, t.rawRead z 1 = s1.rawRead z 1
      | .wait s1 => Runs event s fun t => t = s1
      | .rnr s1 =>
        let e : RowWait := { row := k, attempts := n + 1, due := s1.gtc.toNat + bkoff * 2 ^ min n 16, writes := s.rowWrites c o k }
        (n = 0 → n < bklim → s1.replayCount w < 16 → Runs event s (queue s1 { c with row := max c.row (k + 1), waits := c.waits ++ [e] })) ∧
        (n ≠ 0 → n < bklim → Runs event s (queue s1 { c with waits := [e] })) ∧
        (n = 0 → n < bklim → 16 ≤ s1.replayCount w → Runs event s fun t => t = s1) ∧
        (bklim ≤ n → s1.positionDead w = false → Runs event s fun t => (t.ctxOf w).queues[q.queue.num] = rest ∧
          ∃ f, (t.ctxOf w).faults = f :: (s1.ctxOf w).faults ∧ f.queue = q.queue ∧ f.cause = Cause.poolrnr)
      | .fault s1 z => s1.positionDead w = false → Runs event s fun t => (t.ctxOf w).queues[q.queue.num] = rest ∧
          ∃ f, (t.ctxOf w).faults = f :: (s1.ctxOf w).faults ∧ f.queue = q.queue ∧ f.cause = z.cause ∧ f.sub = z.sub) ∧
    (∀ e, c.waits = [e] → e.attempts ≠ 0 → s.gtc.toNat < e.due → c.row < rows → rowsClash c o e.row c.row = true → Runs event s fun t =>
      queue s { c with row := c.row + 1, waits := [e, { row := c.row, attempts := 0, due := 0, writes := s.rowWrites c o c.row }] } t ∧
      ∀ z, t.rawRead z 1 = s.rawRead z 1) ∧
    (flagged = true → c.row = rows → c.waits = [] → ∀ s1 u, s.flagAdd w q.queue c rows 1 a.reply = .ok s1 u → Runs event s fun t =>
      t = s1.modCmd w q.queue 0 fun d => { d with phase := .done, bytes := 0, flags := d.flags ||| 0 })

/-- Copy rows move bytes and count; rows land, wait, retry or end their command.  That a receiver-not-ready answer that finds all 16 entries
of the replay queue taken leaves the state as it is, is the model's choice (log 30). -/
def Obligations.CopyRows : Prop :=
  RowsMoved ∧ RowOutcomes

/-- R190, R280, R283: CFLAG adds its operand once the commands before it in its queue are done; CATOM sends its request where another package
homes the object, and leaves the old value at DADDR unless NORET is set; CSUM writes the CRC-32C of its source rows; CSYNC is done when it heads its queue and, with SYSR, when nothing
that its context queued before it is unacknowledged; CPREF and commands without rows are done at once. -/
def Sys2Proof.Claims.CopyStarts : Prop :=
  ∀ (s : State) (w : Who) (q : CopyQueue) (c : Cmd) (rest : List Cmd) (a : RowAnswer),
    (s.ctxOf w).queues[q.queue.num] = c :: rest → (s.ctxOf w).ended = false → a.nth = 0 → s.lineq = [] → s.hides = [] →
    let done := fun (s : State) (n : Nat) =>
      s.modCmd w q.queue 0 fun d => { d with phase := .done, bytes := n, flags := d.flags ||| 0 }
    let untried := ∀ k : Fin 5, ∀ d ∈ (s.ctxOf w).queues[k], d.waits = []
    (opOf c = 10 → c.phase = .running → c.conv = [] → c.waits = [] → ∀ s1 u, s.flagAdd w q.queue c 0 (cAux c.bits) a.reply = .ok s1 u →
      Runs (.copyRowLanding w q a) s fun t => t = done s1 0) ∧
    (opOf c = 11 → c.phase = .running → c.conv = [] → s.reqs = [] → untried →
      (∀ k ∈ [Queue.ldq, .stq], ∀ d ∈ (s.ctxOf w).queues[k.num], d.order < c.order → d.remoteWrite = false) →
      ∀ o, s.objOf (s.ctxOf w) (cObj c.bits) = some o →
      let r := s.elemRef o (cOff c.bits)
      let n := if o.fmt.toNat = 0xA2 then 4 else 8
      let cmpv : Word := BitVec.ofNat 64 (tN c.bits 12 4)
      let after := fun (s1 : State) (old : Word) => if (tF c.bits 3).toNat / 4096 % 2 = 1 then done s1 0
        else match s1.portPlace w anyPort true (cDaddr c.bits) 8 with
          | .ok p =>
            match s1.portDetect w c (cDaddr c.bits) 8 true false with
            | .ok s2 => done (s2.portWrite w p (leBytes 8 old.toNat)) 8
            | .error z => s1.failCmd w q.queue 0 c z 0
          | .error e => s1.failCmd w q.queue 0 c (badAddr e) 0
      r.scratch = false →
      (∀ s1 old new, s.servesRef r = true → s.serveAtomic w.core (s.ctxOf w).slot s.ownNode r (cAop c.bits) n (cAux c.bits) cmpv = (s1, .data old new) →
        Runs (.copyRowLanding w q a) s fun t => t = after s1 old) ∧
      (s.servesRef r = false → s.noRoute r = false → r.key = .dev o.node o.base →
        let p := s.cmdReq w q.queue c 0 (cObj c.bits) (cOff c.bits) r (.rowAtom (cAop c.bits) (n == 8) (cAux c.bits) cmpv)
        (a.reply = .none → Runs (.copyRowLanding w q a) s fun t => t = s.addReq p) ∧
        ∀ bs, p.sent = true → a.reply = .ok bs [] → bs.length = n →
          Runs (.copyRowLanding w q a) s fun t => t = after ((s.addReq p).dropReq p.id) (BitVec.ofNat 64 (leNat bs)))) ∧
    (MayStart s w q.queue c rest → Unheld s w → s.copyChecks q.queue (s.ctxOf w) c = .ok () → Plain s w →
      (opOf c = 12 → cDaddr c.bits % 4 = 0 → ∀ c1 s0 s1 s2 bs p, Taken s w q.queue c rest c1 s0 →
        s0.sumRows w c1 (cRows c.bits) 0 = .ok (s1, bs) → s1.sideAt w (cDaddr c.bits) 4 .write = (s2, .ok [p]) → p.len = 4 →
        FreePart s2 w p → Memory.wf s = true → HeldPages s → Runs (.csum w q) s fun t =>
          (∃ c2, (t.ctxOf w).queues[q.queue.num] = c2 :: rest ∧ c2.phase = .done ∧ c2.bytes = 4) ∧
          t.rawRead p.place 4 = leBytes 4 (crc32c bs).toNat ∧ ∀ z, z < 2 ^ 48 + 2 ^ 30 → z < p.place ∨ p.place + 4 ≤ z → t.rawRead z 1 = s.rawRead z 1) ∧
      (opOf c = 13 → Runs (.csync w q) s fun t => ∃ c1, (t.ctxOf w).queues[q.queue.num] = c1 :: rest ∧ c1.phase = .running ∧ c1.bits = c.bits) ∧
      (opOf c = 8 → Runs (.cpref w q) s fun t =>
        (∃ c1, (t.ctxOf w).queues[q.queue.num] = c1 :: rest ∧ c1.phase = .done ∧ c1.bytes = 0) ∧ ∀ z, t.rawRead z 1 = s.rawRead z 1)) ∧
    (opOf c = 13 → c.phase = .running →
      let earlier := fun (k : Queue) => ∃ d ∈ (s.ctxOf w).queues[k.num], d.order < c.order ∧ opOf d ∈ [4, 7, 10, 11] ∧ d.phase ≠ .done
      ((tF c.bits 3).toNat / 2048 % 2 = 0 ∨ (s.reqs = [] ∧ untried ∧ ¬ earlier .ldq ∧ ¬ earlier .stq) →
        Runs (.csync w q) s fun t => t = done s 0) ∧
      ((tF c.bits 3).toNat / 2048 % 2 = 1 → earlier .ldq → (∀ d ∈ rest, d.phase = .running) → Runs (.csync w q) s fun t => t = s))

/-- R281: a CRED joins the others of its group.  Until every member of the group that has not left has joined, nothing happens; commands that
disagree in a field all fault with BADFLD, naming it; and the command of a group of one writes the reduction of its one
contribution, row by row, and is done. -/
def Sys2Proof.Claims.CredJoins : Prop :=
  ∀ (s : State) (team : Nat) (tm : Team) (g : BitVec 8), s.teamAt team = some tm → s.lineq = [] →
    let m := ((s.launchAt tm.launch).bind fun l => (l.groups.find? fun e => e.1 == g).map (·.2)).getD 0
    (s.joinedCreds team g = [] → Runs (.credJoinComplete team g) s fun t => t = s) ∧
    ((∃ r, r < 64 ∧ m.getLsbD r = true ∧ (∀ j ∈ s.joinedCreds team g, j.rank ≠ r) ∧ tm.hasLeft r = false ∧ tm.credFaults = []) →
      Runs (.credJoinComplete team g) s fun t => t = s) ∧
    (∀ j, s.joinedCreds team g = [j] → (∀ r, r < 64 → (m.getLsbD r = true ↔ r = j.rank)) → tm.credFaults = [] →
      (s.ctxOf j.who).queues[j.q.queue.num] = [j.cmd] → (tF j.cmd.bits 0).toNat / 8192 % 2 = 0 →
      (cRows j.cmd.bits = 0 → Runs (.credJoinComplete team g) s fun t =>
        t = s.modCmd j.who j.q.queue 0 fun d => { d with phase := .done, bytes := 0, flags := d.flags ||| 0 }) ∧
      (cRows j.cmd.bits = 1 → Plain s j.who → s.positionDead j.who = false → s.hides = [] → Memory.wf s = true → HeldPages s → ∀ s1 s2 p d,
        s.sideAt j.who (cSaddr j.cmd.bits + srcOff j.cmd 0) (cLen j.cmd.bits) .read = (s1, .ok [p]) → p.len = cLen j.cmd.bits →
        s1.sideAt j.who (cDaddr j.cmd.bits + dstOff j.cmd 0) (cLen j.cmd.bits) .write = (s2, .ok [d]) → d.len = cLen j.cmd.bits →
        FreePart s2 j.who p → FreePart s2 j.who d → s1.touched (s.ctxOf j.who) p.va p.len = [] →
        let res := reduceBytes (cFmt j.cmd.bits) (cRop j.cmd.bits) [s.rawRead p.place p.len]
        res.length = cLen j.cmd.bits → Runs (.credJoinComplete team g) s fun t =>
          t.rawRead d.place d.len = res ∧ (∀ z, z < 2 ^ 48 + 2 ^ 30 → z < d.place ∨ d.place + d.len ≤ z → t.rawRead z 1 = s.rawRead z 1) ∧
          ∃ c1, (t.ctxOf j.who).queues[j.q.queue.num] = [c1] ∧ c1.phase = .done)) ∧
    (∀ j k, s.joinedCreds team g = [j, k] → j.who ≠ k.who → j.cmd.link = k.cmd.link →
      (∀ r, r < 64 → (m.getLsbD r = true ↔ r = j.rank ∨ r = k.rank)) → tm.credFaults = [] →
      (s.ctxOf j.who).queues[j.q.queue.num] = [j.cmd] → (s.ctxOf k.who).queues[k.q.queue.num] = [k.cmd] →
      (s.ctxOf j.who).ended = false → (s.ctxOf k.who).ended = false → s.positionDead j.who = false → s.positionDead k.who = false → j.cmd.cores = [] → k.cmd.cores = [] →
      ∀ f, credDiffers j.cmd.bits k.cmd.bits = some f → Runs (.credJoinComplete team g) s fun t =>
        (∀ x ∈ [j, k], (t.ctxOf x.who).queues[x.q.queue.num] = [] ∧ ∃ y, (t.ctxOf x.who).faults = y :: (s.ctxOf x.who).faults ∧
          y.cause = Cause.engine ∧ y.sub = 4 ∧ y.val = engVal x.q.queue x.cmd f) ∧ ∀ z, t.rawRead z 1 = s.rawRead z 1)

/-- R86, R281: elements are reduced in a tree.  Integers give the sum modulo 2^32, the largest and the smallest; floating-point MAX and MIN of a
NaN give the canonical NaN. -/
def Sys2Proof.Claims.CredReductions : Prop :=
  ∀ (v : Nat) (vs : List Nat), vs.length < 64 → (∀ x ∈ v :: vs, x < 2 ^ 32) →
    reduceElems 0xA2 0 (v :: vs) = (v :: vs).sum % 2 ^ 32 ∧
    (let r := reduceElems 0xA2 1 (v :: vs)
     r ∈ v :: vs ∧ ∀ x ∈ v :: vs, (BitVec.ofNat 32 x).toInt ≤ (BitVec.ofNat 32 r).toInt) ∧
    (let r := reduceElems 0xA2 2 (v :: vs)
     r ∈ v :: vs ∧ ∀ x ∈ v :: vs, (BitVec.ofNat 32 r).toInt ≤ (BitVec.ofNat 32 x).toInt) ∧
    (∀ op, op = 1 ∨ op = 2 → (∃ x ∈ v :: vs, isNan32 x) → reduceElems 0xA1 op (v :: vs) = 0x7FC00000)

/-- CFLAG, CATOM, CSUM, CSYNC and CPREF, and how CRED groups join and reduce.  That the members' CREDs are compared once all have joined, and
that DETAIL names the lowest field that differs, are the model's choices (log 26). -/
def Obligations.CopyCommands : Prop :=
  CopyStarts ∧ CredJoins ∧ CredReductions

/-! ## The network engine -/

/-- The bytes of a list of parts. -/
def Sys2Proof.Claims.bytesOf (s : State) (ps : List Span) : List Byte := ps.flatMap fun p => s.rawRead p.place p.len

/-- R286 to R288, R290, R419, R430: what a network command does at its start, once its endpoint, peer and addresses are good.  NSEND and NWRITE
send their bytes in packets of at most 4,096; NRECV is posted when no held message fits, and takes a held one that does;
NCNT is done when its counter has reached its threshold, and waits while it has not; XCONV without a state to change is
done; XRSLOT and XRCONT ask the switch of their plane, and fault with ROUTE when its station is not live; an XRCONT that faults for
that, or for an address, writes its status words before. -/
def Sys2Proof.Claims.NetworkStarts : Prop :=
  ∀ (s : State) (w : Who) (c c1 : Cmd) (rest : List Cmd) (s0 : State), MayStart s w .nxq c rest → Unheld s w →
    s.netChecks (s.ctxOf w) c = .ok () → Plain s w → s.hides = [] → Memory.wf s = true → HeldPages s → Taken s w .nxq c rest c1 s0 →
    let t0 := c.bits
    let len := nLen t0
    let head := fun (t : State) (d : Cmd) => (t.ctxOf w).queues[4] = d :: rest
    let finished := fun (n : Nat) (t : State) => head t { c1 with phase := .done, bytes := n, flags := c1.flags ||| 0 }
    let same := fun (t : State) => ∀ z, t.rawRead z 1 = s.rawRead z 1
    let good := s.netEnds (s.ctxOf w) t0 = .ok () ∧ s0.netAddrs w t0 = .ok ()
    (∀ (i : Instr) (op : Nat), (i, op) ∈ [(Instr.nsend w, 1), (.nwrite w, 3)] → opOf c = op → good → ∀ (ps : List Span) (parts : Nat → List Span),
      s0.netSide w (nLaddr t0) len .read = (s0, .ok ps) → (∀ p ∈ ps, FreePart s0 w p) →
      (∀ k f ms, k < max 1 ((len + 4095) / 4096) →
        let u := { s0 with fresh := f, outbox := ms }
        u.netSide w (nLaddr t0 + 4096 * k) (min 4096 (len - 4096 * k)) .read = (u, .ok (parts k))) → Runs i s fun t =>
        let n := max 1 ((len + 4095) / 4096)
        head t { c1 with dues := (List.range n).map fun k => (k, s.gtc.toNat + s.ether.rto.toNat % 2 ^ 32) } ∧ same t ∧
        ∃ entropy : Nat → Nat, (∀ k, entropy k < s.ether.spray) ∧ t.outbox = s.outbox ++ (List.range n).map fun k =>
          Msg.packet w c.order (nPeer t0) (entropy k) (if op = 3 then some (BitVec.ofNat 32 (nParam t0)) else none) (BitVec.ofNat 64 (nRaddr t0))
            (4096 * k) (bytesOf s (parts k))) ∧
    (opOf c = 2 → good → ∀ e : Endpoint, s.ether.eps[nEp t0]? = some e →
      ((∀ m ∈ e.held, ((m.tag.toNat ^^^ nRaddr t0) &&& nPeer t0) ≠ 0) → Runs (.nrecv w) s fun t =>
        head t { c1 with link := s.nextId } ∧ t.nextId = s.nextId + 1 ∧ same t ∧ t.ether = s.ether) ∧
      (∀ (m : HeldMsg) (data : List Byte) (s1 s2 : State) (p d : Span), e.held = [m] → ((m.tag.toNat ^^^ nRaddr t0) &&& nPeer t0) = 0 → m.parts = [(0, data)] → m.total = data.length →
        0 < data.length → data.length ≤ len → s0.netSide w (nLaddr t0) data.length .write = (s1, .ok [p]) → p.len = data.length →
        (s1.putParts w [p] data).statSide w t0 16 = (s2, .ok [d]) → d.len = 16 → FreePart s1 w p → p.place + p.len ≤ d.place ∨ d.place + 16 ≤ p.place →
        Runs (.nrecv w) s fun t => finished data.length t ∧ t.rawRead p.place p.len = data ∧
          t.rawRead d.place 16 = leBytes 8 data.length ++ leBytes 8 m.tag.toNat ∧
          (t.ether.eps[nEp t0]?).map (·.held) = some [])) ∧
    (opOf c = 4 → good → ∀ p : Nat, s.counterPlace w t0 = .ok p →
      let v := leNat (s.rawRead p 8)
      let dec := (tF t0 0).toNat / 512 % 2 = 1
      (v < nParam t0 → Runs (.ncnt w) s fun t => head t c1 ∧ same t) ∧
      (nParam t0 ≤ v → Runs (.ncnt w) s fun t => finished 0 t ∧
        t.rawRead p 8 = (if dec then leBytes 8 (v - nParam t0) else s.rawRead p 8) ∧
        ∀ z, z < 2 ^ 48 + 2 ^ 30 → z < p ∨ p + 8 ≤ z → t.rawRead z 1 = s.rawRead z 1)) ∧
    (opOf c = 5 → good → ∀ o : Obj, s.objOf (s.ctxOf w) (nObj t0) = some o → (∀ a : Fin 4, (nAxm t0).getLsbD a.val = true → o.axisSize a ≠ 0) →
      convAxes t0 o = [] → Runs (.xconv w) s fun t => finished 0 t ∧ same t) ∧
    (opOf c = 6 → good →
      (∀ st : Fin 64, st.val = nEp t0 → s.stations[st].live = true → Runs (.xrslot w) s fun t =>
        head t { c1 with link := s.nextId } ∧ same t ∧ 
        t.outbox = s.outbox ++ [Msg.alloc s.nextId st
          { nidx := (tF t0 36).toNat, rop := (tF t0 3).toNat / 16 % 4, fmt := (tF t0 3).toNat / 256, len := len
            tmo := if tF t0 37 = 0 then 20 else (tF t0 37).toNat, dest := none }] ∧
        ∃ r : Req, t.reqs = s.reqs ++ [r] ∧ r.id = s.nextId ∧ r.who = w ∧ r.kind = .slotAlloc ∧ r.station = some st ∧ r.due = none ∧
          r.sent = decide (s.stations[st].state = .up)) ∧
      ((∀ st : Fin 64, st.val = nEp t0 → s.stations[st].live = false) → Runs (.xrslot w) s fun t =>
        (t.ctxOf w).queues[4] = rest ∧ ∃ f : EngFault, (t.ctxOf w).faults = f :: (s.ctxOf w).faults ∧ f.cause = Cause.route)) ∧
    (opOf c = 7 → good → ∀ (ps : List Span) (st : Fin 64), s0.netSide w (nLaddr t0) len .read = (s0, .ok ps) → (∀ p ∈ ps, FreePart s0 w p) →
      st.val = nParam t0 % 64 → s.stations[st].live = true → Runs (.xrcont w) s fun t =>
        head t { c1 with link := s.nextId } ∧ same t ∧
        t.outbox = s.outbox ++ [Msg.contrib (BitVec.ofNat 64 (nParam t0)) (nNidx t0) (bytesOf s ps)] ∧
        ∃ r : Req, t.reqs = s.reqs ++ [r] ∧ r.id = s.nextId ∧ r.who = w ∧ r.kind = .slotContrib ∧ r.station = some st ∧ r.due = none) ∧
    (opOf c = 7 → good → (∀ st : Fin 64, st.val = nParam t0 % 64 → s.stations[st].live = false) → ∀ s1 d,
      s0.statSide w t0 16 = (s1, .ok [d]) → d.len = 16 → FreePart s1 w d → Runs (.xrcont w) s fun t =>
        (t.ctxOf w).queues[4] = rest ∧ t.rawRead d.place 8 = leBytes 8 0 ∧
        ∃ f : EngFault, (t.ctxOf w).faults = f :: (s.ctxOf w).faults ∧ f.cause = Cause.route) ∧
    (opOf c = 7 → s.netEnds (s.ctxOf w) t0 = .ok () → ∀ e s1 d, s0.netAddrs w t0 = .error e →
      s0.statSide w t0 16 = (s1, .ok [d]) → d.len = 16 → FreePart s1 w d → Runs (.xrcont w) s fun t =>
        (t.ctxOf w).queues[4] = rest ∧ t.rawRead d.place 8 = leBytes 8 0 ∧
        ∃ f : EngFault, (t.ctxOf w).faults = f :: (s.ctxOf w).faults ∧ f.cause = e.cause ∧ f.sub = e.sub) ∧
    (∀ (i : Instr) (op : Nat), (i, op) ∈ [(Instr.nsend w, 1), (.nrecv w, 2), (.nwrite w, 3)] → opOf c = op →
      (nEp t0 < 16 ∨ (s.ether.eps[nEp t0]?.map fun e => e.cfg.getLsbD 0) ≠ some true) → Runs i s fun t =>
        (t.ctxOf w).queues[4] = rest ∧ same t ∧ ∃ f : EngFault, (t.ctxOf w).faults = f :: (s.ctxOf w).faults ∧
          f.cause = Cause.engine ∧ f.sub = 7 ∧ f.val = engVal .nxq c 14)

/-- R290, R420: the switch's answers.  A grant puts the slot's name into STAT; a result goes to RADDR with its status words; TIMEOUT and
EXPIRED write their status word and end the command with PLACETO, UNKNOWN with BADSLOT; an answer to no request in flight
changes nothing. -/
def Sys2Proof.Claims.SlotAnswers : Prop :=
  ∀ (s : State) (w : Who) (c : Cmd) (rest : List Cmd) (r : Req) (v : Word) (data : List Byte) (nan : Bool),
    (s.ctxOf w).queues[4] = c :: rest → c.phase = .running → c.link = r.id → c.cores = [] → (s.ctxOf w).ended = false →
    s.reqAt r.id = some r → r.due = none → r.sent = true → r.who = w → s.askAt r.id = none → s.lineq = [] → Plain s w → s.positionDead w = false → Memory.wf s = true → HeldPages s →
    let finished := fun (n : Nat) (t : State) =>
      (t.ctxOf w).queues[4] = { c with phase := .done, bytes := n, flags := c.flags ||| 0 } :: rest ∧ ∀ q ∈ t.reqs, q.id ≠ r.id
    let failed := fun (cause sub : Byte) (t : State) =>
      (t.ctxOf w).queues[4] = rest ∧ (∀ q ∈ t.reqs, q.id ≠ r.id) ∧
      ∃ f, (t.ctxOf w).faults = f :: (s.ctxOf w).faults ∧ f.queue = .nxq ∧ f.cause = cause ∧ f.sub = sub
    (r.kind = .slotAlloc → opOf c = 6 →
      (∀ s1 d, s.statSide w c.bits 8 = (s1, .ok [d]) → d.len = 8 → Runs (.slotGrant r.id v) s fun t =>
        finished 8 t ∧ t.rawRead d.place 8 = leBytes 8 v.toNat ∧ ∀ z, z < 2 ^ 48 + 2 ^ 30 → z < d.place ∨ d.place + 8 ≤ z → t.rawRead z 1 = s.rawRead z 1) ∧
      Runs (.slotUnknown r.id) s (failed Cause.engine 8) ∧
      Runs (.slotResult r.id data nan) s (fun t => t = s) ∧ Runs (.slotTimeout r.id v) s (fun t => t = s)) ∧
    (r.kind = .slotContrib → opOf c = 7 →
      (∀ s1 s2 p d, data.length = nLen c.bits → s.netSide w (nRaddr c.bits) data.length .write = (s1, .ok [p]) → p.len = data.length →
        (s1.putParts w [p] data).statSide w c.bits 16 = (s2, .ok [d]) → d.len = 16 → FreePart s1 w p → p.place + p.len ≤ d.place ∨ d.place + 16 ≤ p.place →
        Runs (.slotResult r.id data nan) s fun t => finished data.length t ∧ t.rawRead p.place p.len = data ∧
          t.rawRead d.place 16 = leBytes 8 (if nan then 5 else 1) ++ leBytes 8 0) ∧
      (∀ s1 d, s.statSide w c.bits 16 = (s1, .ok [d]) → d.len = 16 →
        (Runs (.slotTimeout r.id v) s fun t => failed Cause.placeto 0 t ∧ t.rawRead d.place 16 = leBytes 8 2 ++ leBytes 8 v.toNat) ∧
        (Runs (.slotExpired r.id) s fun t => failed Cause.placeto 0 t ∧ t.rawRead d.place 8 = leBytes 8 8) ∧
        (Runs (.slotUnknown r.id) s fun t => failed Cause.engine 8 t ∧ t.rawRead d.place 8 = leBytes 8 0)) ∧
      Runs (.slotGrant r.id v) s (fun t => t = s)) ∧
    (∀ n, s.reqAt n = none → s.askAt n = none → ∀ i ∈ [Instr.slotGrant n v, .slotResult n data nan, .slotTimeout n v, .slotExpired n], Runs i s fun t => t = s)

/-- What network commands do at their start, and the switch's answers to slots. -/
def Obligations.NetworkCommands : Prop :=
  NetworkStarts ∧ SlotAnswers

/-- R428, R430: acknowledgement and retransmission.  A command whose packets are all acknowledged is done with its bytes; a refused NWRITE
faults with BADEP; a packet that is unacknowledged when its timeout ends, or refused as receiver-not-ready, is sent again, with twice the
timeout, until RTRY is spent, and then the command ends with ROUTE. -/
def Sys2Proof.Claims.EthernetSends : Prop :=
  ∀ (s : State) (w : Who) (c : Cmd) (rest : List Cmd) (packets : List Nat) (k : Nat), (s.ctxOf w).queues[4] = c :: rest → c.phase = .running →
    opOf c = 1 ∨ opOf c = 3 → c.cores = [] → (s.ctxOf w).ended = false → s.positionDead w = false → s.hides = [] → s.lineq = [] →
    let cmd : NetCmd := { who := w, pos := 0 }
    let n := max 1 ((nLen c.bits + 4095) / 4096)
    let live := s.ether.ectl.getLsbD 0 = true ∧ s.ether.linkUp = true
    let tries := ((c.tries.find? fun e => e.1 == k).map (·.2)).getD 0
    let due := ((c.dues.find? fun e => e.1 == k).map (·.2)).getD 0
    let rtry := s.ether.rtry.toNat % 256
    (¬ live → Runs (.ethernetAck cmd packets false) s fun t => t = s) ∧
    (live → c.acked = [] → (∀ j, j < n → j ∈ packets) → Runs (.ethernetAck cmd packets false) s fun t =>
      (∃ d, (t.ctxOf w).queues[4] = d :: rest ∧ d.phase = .done ∧ d.bytes = nLen c.bits ∧ d.bits = c.bits) ∧ ∀ z, t.rawRead z 1 = s.rawRead z 1) ∧
    (live → opOf c = 3 → Runs (.ethernetAck cmd packets true) s (Refused s w .nxq c rest Cause.engine 7 (engVal .nxq c 14))) ∧
    (live → opOf c = 1 → k ∉ c.acked → Runs (.ethernetAck cmd [k] true) s fun t =>
      (∃ d, (t.ctxOf w).queues[4] = d :: rest ∧ d = { c with dues := d.dues } ∧
        d.dues.find? (fun e => e.1 == k) = some (k, s.gtc.toNat + s.ether.rto.toNat % 2 ^ 32)) ∧ t.outbox = s.outbox) ∧
    (s.gtc.toNat < due → Runs (.retransmitTimeout cmd k) s fun t => t = s) ∧
    (due ≤ s.gtc.toNat → k < n → k ∉ c.acked → tries < rtry → ∀ s1 ps, s.netSide w (nLaddr c.bits + 4096 * k) (min 4096 (nLen c.bits - 4096 * k)) .read = (s1, .ok ps) →
      Plain s w → Runs (.retransmitTimeout cmd k) s fun t =>
        (∃ m entropy, entropy < s.ether.spray ∧ t.outbox = s.outbox ++ [m] ∧ m = Msg.packet w c.order (nPeer c.bits) entropy
          (if opOf c = 3 then some (BitVec.ofNat 32 (nParam c.bits)) else none) (BitVec.ofNat 64 (nRaddr c.bits)) (4096 * k) (bytesOf s ps)) ∧
        t.ether.retransmitted = s.ether.retransmitted + 1 ∧
        ∃ d, (t.ctxOf w).queues[4] = d :: rest ∧ d.phase = .running ∧ ((d.tries.find? fun e => e.1 == k).map (·.2)) = some (tries + 1) ∧
          d.dues.find? (fun e => e.1 == k) = some (k, s.gtc.toNat + s.ether.rto.toNat % 2 ^ 32 * 2 ^ (tries + 1))) ∧
    (due ≤ s.gtc.toNat → k < n → k ∉ c.acked → rtry ≤ tries → Runs (.retransmitTimeout cmd k) s (Refused s w .nxq c rest Cause.route 0 (engVal .nxq c 2048))) ∧
    (k ∈ c.acked → Runs (.retransmitTimeout cmd k) s fun t => t = s)

/-- R428 to R431: what arrives at an endpoint.  A closed endpoint, and a launch endpoint of a tagged message, refuse; a tagged message that no
receive takes is held, 64 at most, and one that a posted receive takes goes to its buffer; each packet of an NWRITE with the right key inside
its window is written at its offset, in any order, and one that breaks a rule is refused; a packet of a message that has been taken
whole changes nothing; a launch endpoint moves LRPI behind what has arrived. -/
def Sys2Proof.Claims.EthernetArrivals : Prop :=
  ∀ (s : State) (ep : BitVec 8) (k : TagPacket) (key : BitVec 32) (raddr : Word) (data : List Byte) (x : WritePacket) (e : Endpoint),
    s.lineq = [] → s.ether.eps[ep.toNat]? = some e → s.ether.ectl.getLsbD 0 = true → s.ether.linkUp = true → Memory.wf s = true → HeldPages s →
    let opened := e.cfg.getLsbD 0 = true
    let refused := fun (n : Nat) (t : State) => t.outbox = s.outbox ++ [Msg.netReply ep n false] ∧ t = { s with outbox := t.outbox }
    let small := k.data.length ≤ 4096 ∧ k.off + k.data.length ≤ k.total
    (small → ep.toNat < 16 ∨ ¬ opened → Runs (.taggedMessageArrival ep k) s (refused k.msg)) ∧
    let again := fun (n : Nat) (t : State) => t.outbox = s.outbox ++ [Msg.netReply ep n true] ∧ t = { s with outbox := t.outbox }
    (small → 16 ≤ ep.toNat → opened → k.msg ∈ e.finished → Runs (.taggedMessageArrival ep k) s (again k.msg)) ∧
    (small → 16 ≤ ep.toNat → opened → k.msg ∉ e.finished → e.held = [] → s.postedOn ep.toNat = [] → k.data.length ≤ 1048576 → Runs (.taggedMessageArrival ep k) s fun t =>
      t.outbox = s.outbox ++ [Msg.netReply ep k.msg true] ∧ t.cores = s.cores ∧ t.mem = s.mem ∧
      (t.ether.eps[ep.toNat]?).map (·.held) = some [{ msg := k.msg, tag := k.tag, total := k.total, parts := [(k.off, k.data)] }]) ∧
    (small → 16 ≤ ep.toNat → opened → k.msg ∉ e.finished → e.held.length = 64 → (∀ m ∈ e.held, m.msg ≠ k.msg) → s.postedOn ep.toNat = [] →
      Runs (.taggedMessageArrival ep k) s (refused k.msg)) ∧
    (∀ p, small → 16 ≤ ep.toNat → opened → k.msg ∉ e.finished → e.held = [] → s.postedOn ep.toNat = [p] → p.cmd.msg = none →
      ((k.tag.toNat ^^^ nRaddr p.cmd.bits) &&& nPeer p.cmd.bits) = 0 → k.off = 0 → k.total = k.data.length → 0 < k.total → k.total ≤ nLen p.cmd.bits →
      Plain s p.who → s.positionDead p.who = false → ∀ s1 s2 b d,
      s.netSide p.who (nLaddr p.cmd.bits) k.total .write = (s1, .ok [b]) → b.len = k.total → FreePart s1 p.who b →
      (s1.putParts p.who [b] k.data).statSide p.who p.cmd.bits 16 = (s2, .ok [d]) → d.len = 16 → b.place + b.len ≤ d.place ∨ d.place + 16 ≤ b.place →
      Runs (.taggedMessageArrival ep k) s fun t =>
        t.rawRead b.place b.len = k.data ∧ t.rawRead d.place 16 = leBytes 8 k.total ++ leBytes 8 k.tag.toNat ∧
        t.outbox = s.outbox ++ [Msg.netReply ep k.msg true] ∧
        ∃ c, (t.ctxOf p.who).queues[4][p.pos]? = some c ∧ c.phase = .done ∧ c.bytes = k.total) ∧
    (x.data.length ≤ 4096 → x.off + x.data.length ≤ x.total →
      let n := x.data.length
      let fits := 16 ≤ ep.toNat ∧ opened ∧ e.cfg.getLsbD 5 = true ∧ key.toNat = e.key.toNat % 2 ^ 32 ∧ raddr.toNat + x.total ≤ e.wsize.toNat
      (¬ fits → Runs (.nwriteArrival ep key raddr x) s (refused x.msg)) ∧
      (fits → x.msg ∈ e.finished → Runs (.nwriteArrival ep key raddr x) s (again x.msg)) ∧
      (∀ s1 p, fits → x.msg ∉ e.finished → (∀ m ∈ e.writes, m.msg ≠ x.msg) → e.cnt = 0 →
        s.spans (s.ether.slotOf ep.toNat) .write (pageParts (e.wbase.toNat + raddr.toNat + x.off) n) = (s1, .ok [(p, n)]) →
        p + n ≤ 2 ^ 48 → Runs (.nwriteArrival ep key raddr x) s fun t =>
          cellsRead t.mem p n = x.data ∧ (∀ z, z < p ∨ p + n ≤ z → cellGet t.mem z = cellGet s.mem z) ∧
          (t.ether.eps[ep.toNat]?).map (·.finished) = some (if n = x.total then x.msg :: e.finished else e.finished) ∧
          t.outbox = s.outbox ++ [Msg.netReply ep x.msg true] ∧ t.cores = s.cores)) ∧
    (∀ (slot : Fin 16) s1 p, slot.val = ep.toNat →
      let r := s.slots[slot]
      let size := ringSize r.lrsize
      (¬ opened ∨ size = 0 ∨ raddr.toNat % 64 ≠ 0 ∨ data.length % 64 ≠ 0 ∨ raddr.toNat < r.lrci.toNat ∨ r.lrci.toNat + size < raddr.toNat + data.length →
        Runs (.launchEndpointWrite slot raddr data) s (refused 0)) ∧
      (opened → size ≠ 0 → raddr = r.lrpi → raddr.toNat % 64 = 0 → data.length % 64 = 0 → 0 < data.length → r.lrci.toNat ≤ raddr.toNat →
        raddr.toNat + data.length ≤ r.lrci.toNat + size → raddr.toNat % size + data.length ≤ size → e.placed = [] → raddr.toNat + data.length < 2 ^ 64 →
        s.spans slot .write (pageParts (r.lrbase.toNat + raddr.toNat % size) data.length) = (s1, .ok [(p, data.length)]) →
        p + data.length ≤ 2 ^ 48 → Runs (.launchEndpointWrite slot raddr data) s fun t =>
          t.slots = s.slots.set slot { r with lrpi := raddr + BitVec.ofNat 64 data.length } ∧
          cellsRead t.mem p data.length = data ∧ (∀ z, z < p ∨ p + data.length ≤ z → cellGet t.mem z = cellGet s.mem z) ∧
          t.outbox = s.outbox ++ [Msg.netReply ep 0 true] ∧ t.cores = s.cores)) ∧
    (∀ up, Runs (.ethernetLinkState up) s fun t => t = { s with ether := { s.ether with linkUp := up } })

/-- Acknowledged sends, retransmission, and what arrives at an endpoint. -/
def Obligations.EthernetTraffic : Prop :=
  EthernetSends ∧ EthernetArrivals

/-! ## Stations -/

/-- An event of a code is in the log, unless the log was full (R437). -/
def Sys2Proof.Claims.Logs (s : State) (code : EventCode) (t : State) : Prop :=
  s.mgmt.elog.length < 65536 → ∃ e ∈ t.mgmt.elog, e.code = code ∧ e.gtc = s.gtc

/-- Nothing of this package is under way on any station: no request, no relayed one, no page fetch, and no allocation of a conversion's
home. -/
def Sys2Proof.Claims.Calm (s : State) : Prop := s.reqs = [] ∧ s.relays = [] ∧ s.cache = [] ∧ s.prefetch = [] ∧ s.homes = []

/-- A station has become `x`; every other station, every core and memory are as before. -/
def Sys2Proof.Claims.station (s : State) (k : Fin 64) (x : Station) (t : State) : Prop :=
  t.stations = s.stations.set k x ∧ t.cores = s.cores ∧ t.mem = s.mem ∧ t.reqs = s.reqs

/-- The training of a station begins at a mode (R407, R409). -/
def Sys2Proof.Claims.trains (x : Station) (mode : Fin 3) : Station :=
  { x with state := .train, mode := mode, lane := x.direct, matched := false, nokeyLogged := false }

/-- A waiting transmit key has become the current one: its counter starts at 0, and KIDX is inverted (R410). -/
def Sys2Proof.Claims.switched (x : Station) : Station :=
  match x.txnext with
  | some key => { x with txkey := some key, txnext := none, txctr := 0, kidx := !x.kidx }
  | none => x

/-- R407, R409, R412: the bring-up of a station.  A test run that passes leads from TRAIN to IDCHECK, and the identity flit is sent; one that
runs out of time leads to the next slower mode, and after mode 2 to DOWN.  A peer that EXPPEER accepts brings the station UP
once it holds both keys; until then NOKEY is logged once.  Any other peer makes it DOWN, with PEERMISMATCH. -/
def Sys2Proof.Claims.StationBringUp : Prop :=
  ∀ (s : State) (k : Fin 64) (id : Identity), Calm s →
    let x := s.stations[k]
    let named := { x with pstn := id.stn, pmem := id.mem, pidx := id.idx, psw := id.isSwitch }
    let kind := x.exppeer.toNat / 2 ^ 17 % 4
    let index := id.idx.toNat = x.exppeer.toNat / 2 ^ 11 % 64
    let accepted := if kind = 0 then id.isSwitch = true ∧ index
      else if kind = 1 then id.isSwitch = false ∧ index ∧ id.stn.toNat = x.exppeer.toNat % 1024 ∧ id.mem = x.exppeer.getLsbD 10
      else True
    (x.state = .train → Runs (.trainTestRunPass k) s fun t =>
      station s k { x with state := .idcheck, matched := false } t ∧ 
      t.outbox = s.outbox ++ [Msg.identity k
        { stn := s.mgmt.stnid, mem := false, idx := BitVec.ofNat 6 k.val, isSwitch := false, digest := Config.identityDigest }]) ∧
    (x.state ≠ .train → Runs (.trainTestRunPass k) s fun t => t = s) ∧
    (x.state = .train → x.mode.val < 2 → Runs (.trainTestTimeout k) s (station s k { x with mode := x.mode + 1 })) ∧
    (x.state = .train → x.mode.val = 2 → Runs (.trainTestTimeout k) s
      (station s k { x with state := .down, wasUp := false, matched := false })) ∧
    (x.state ≠ .train → Runs (.trainTestTimeout k) s fun t => t = s) ∧
    (x.state = .idcheck → accepted → (x.txkey.isSome = true ∨ x.txnext.isSome = true) → x.rxkey.isSome = true →
      Runs (.identityFlit k id) s (station s k (switched { named with matched := true, state := .up, wasUp := true }))) ∧
    (x.state = .idcheck → accepted → x.rxkey = none ∨ x.txkey = none ∧ x.txnext = none → Runs (.identityFlit k id) s fun t =>
      station s k { named with matched := true, nokeyLogged := true } t ∧ (x.nokeyLogged = false → Logs s .nokey t)) ∧
    (x.state = .idcheck → ¬ accepted → Runs (.identityFlit k id) s fun t =>
      station s k { named with state := .down, wasUp := false, matched := false } t ∧ Logs s .peermismatch t) ∧
    (x.state ≠ .idcheck → Runs (.identityFlit k id) s fun t => t = s)

/-- R410, R411: keys.  LDTX lays KEYDATA ready as the next transmit key, which an UP or QUIESCING station takes at once, and which ends
KEYEXH; LDRX gives the receive key, or the next one, and flits may have passed by then on a station that receives.  The counter past
2^47 logs KEYLOW; exhaustion stops the station in KEYEXH, from QUIESCING too, and without a new key it is DOWN after KEYWAIT; sixteen
failed authentications make it DOWN.  That the next flit boundary of LDTX is at once, how many flits have passed at LDRX, that a receiver goes over to the
next key with them, and that QUIESCING carries traffic as UP does are the model's choices (logs 15, 41). -/
def Sys2Proof.Claims.StationKeys : Prop :=
  ∀ (s : State) (k : Fin 64), Calm s →
    let x := s.stations[k]
    let down := { x with state := .down, wasUp := false, matched := false }
    (x.state = .down ∨ x.state = .train ∨ x.state = .quiesced → Runs (.keyctlLdtx k) s (station s k { x with txnext := some x.keydata })) ∧
    (x.state = .up ∨ x.state = .quiescing → Runs (.keyctlLdtx k) s (station s k (switched { x with txnext := some x.keydata }))) ∧
    (x.state = .keyexh → Runs (.keyctlLdtx k) s (station s k (switched { x with txnext := some x.keydata, state := .up, wasUp := true }))) ∧
    (x.state = .idcheck → x.matched = true → x.rxkey.isSome = true →
      Runs (.keyctlLdtx k) s (station s k (switched { x with txnext := some x.keydata, state := .up, wasUp := true }))) ∧
    (x.state = .down ∨ x.state = .train ∨ x.state = .quiesced → Runs (.keyctlLdrx k) s (station s k
        (if x.rxkey = none then { x with rxkey := some x.keydata } else { x with rxnext := some x.keydata }))) ∧
    (x.state = .idcheck → x.matched = true → x.txkey.isSome = true ∨ x.txnext.isSome = true → x.rxkey = none →
      Runs (.keyctlLdrx k) s (station s k (switched { x with rxkey := some x.keydata, state := .up, wasUp := true }))) ∧
    (x.state = .up ∨ x.state = .quiescing ∨ x.state = .keyexh → x.rxkey.isSome = true → x.txnext = none → Runs (.keyctlLdrx k) s fun t => ∃ y,
      station s k { x with rxkey := y.rxkey, rxnext := some x.keydata, txctr := y.txctr, replayed := y.replayed } t ∧ t.stations[k] = y ∧
      (y.rxkey = x.rxkey ∨ x.rxnext.isSome = true ∧ y.rxkey = x.rxnext) ∧ (x.txctr.toNat ≤ 2 ^ 47 → y.txctr.toNat ≤ 2 ^ 47) ∧ (x.state = .keyexh → y.txctr = x.txctr)) ∧
    (x.state = .up ∨ x.state = .quiescing → x.txkey.isSome = true → x.txctr.toNat ≤ 2 ^ 47 → Runs (.keylow k) s fun t =>
      station s k { x with txctr := BitVec.ofNat 48 (2 ^ 47 + 1) } t ∧ Logs s .keylow t) ∧
    (x.state ≠ .up ∧ x.state ≠ .quiescing ∨ x.txkey = none ∨ 2 ^ 47 < x.txctr.toNat → Runs (.keylow k) s fun t => t = s) ∧
    (x.state = .up ∨ x.state = .quiescing → x.txnext = none → 2 ^ 47 < x.txctr.toNat → Runs (.keyExhaustion k) s fun t =>
      station s k { x with state := .keyexh, txctr := BitVec.ofNat 48 (2 ^ 48 - 1), since := s.gtc.toNat } t ∧ Logs s .keyexh t) ∧
    (x.state ≠ .up ∧ x.state ≠ .quiescing ∨ x.txnext ≠ none → Runs (.keyExhaustion k) s fun t => t = s) ∧
    (x.state = .keyexh → x.since + 1000 * (x.keywait.toNat % 2 ^ 32) ≤ s.gtc.toNat → Runs (.keywaitExpiry k) s (station s k down)) ∧
    (x.state ≠ .keyexh ∨ s.gtc.toNat < x.since + 1000 * (x.keywait.toNat % 2 ^ 32) → Runs (.keywaitExpiry k) s fun t => t = s) ∧
    (x.state = .up ∨ x.state = .quiescing ∨ x.state = .keyexh → Runs (.authfail k) s fun t => station s k down t ∧ Logs s .authfail t) ∧
    (x.state ≠ .up → x.state ≠ .quiescing → x.state ≠ .keyexh → Runs (.authfail k) s fun t => t = s)

/-- R407, R412, R413, R417: STCTL and what follows from it.  EN = 1 trains a DOWN station from BEST, and EN = 0 makes it DOWN; QUIESCE = 1
starts a quiesce in UP, which ends QUIESCED when its requests are answered, or by force after QTMO; QUIESCE = 0 trains a
QUIESCED station; UP retrains, and in the other states that EN = 1 allows trains from BEST.  An UP station retrains at its mode, and hands
its traffic to the other ring.  That EN = 1 trains a DOWN station, that QUIESCE = 1 acts in UP alone, and what UP does in the states that
R407 does not name are the model's choices (log 41). -/
def Sys2Proof.Claims.StationControl : Prop :=
  ∀ (s : State) (k : Fin 64), Calm s →
    let x := s.stations[k]
    let retrained := fun (mode : Fin 3) => { trains x mode with retrains := x.retrains + 1 }
    (x.state = .down → Runs (.stctlEn k true) s (station s k (trains { x with en := true } x.best))) ∧
    (x.state ≠ .down → Runs (.stctlEn k true) s (station s k { x with en := true })) ∧
    Runs (.stctlEn k false) s (station s k { x with en := false, state := .down, wasUp := false, matched := false }) ∧
    (x.state = .up → Runs (.stctlQuiesce k true) s
      (station s k { x with quiesce := true, state := .quiescing, wasUp := false, since := s.gtc.toNat })) ∧
    (x.state ≠ .up → Runs (.stctlQuiesce k true) s (station s k { x with quiesce := true })) ∧
    (x.state = .quiesced → x.en = true → Runs (.stctlQuiesce k false) s (station s k (trains { x with quiesce := false } x.best))) ∧
    (x.state ≠ .quiesced → Runs (.stctlQuiesce k false) s (station s k { x with quiesce := false })) ∧
    (x.en = true → x.state = .up → Runs (.stctlUp k) s (station s k (retrained x.best))) ∧
    (x.en = true → x.state = .down ∨ x.state = .train ∨ x.state = .idcheck → Runs (.stctlUp k) s (station s k (trains x x.best))) ∧
    (x.en = false ∨ x.state = .quiescing ∨ x.state = .quiesced ∨ x.state = .keyexh → Runs (.stctlUp k) s fun t => t = s) ∧
    (x.state = .quiescing → Runs (.qdone k) s (station s k { x with state := .quiesced, forced := false })) ∧
    (x.state ≠ .quiescing → Runs (.qdone k) s fun t => t = s) ∧
    (x.state = .quiescing → x.since + 1000 * (x.qtmo.toNat % 2 ^ 32) ≤ s.gtc.toNat →
      Runs (.quiesceTimeout k) s (station s k { x with state := .quiesced, forced := true })) ∧
    (x.state ≠ .quiescing ∨ s.gtc.toNat < x.since + 1000 * (x.qtmo.toNat % 2 ^ 32) → Runs (.quiesceTimeout k) s fun t => t = s) ∧
    (∀ i ∈ [Instr.linkRetrain k, .ringLockTimeout k], (x.state = .up → Runs i s (station s k (retrained x.mode))) ∧
      (x.state ≠ .up → Runs i s fun t => t = s)) ∧
    (x.state = .up → Runs (.ringHandover k) s (station s k { x with spareRing := !x.spareRing })) ∧
    (x.state ≠ .up → Runs (.ringHandover k) s fun t => t = s)

/-- R411, R412, R417: the requests that this package sent on a station end when the station is lost, and so they do with a quiesce that is
forced: none of them is left unanswered (what follows from their end may send others, with new numbers).  A quiesce is not over while one
is, nor while a page fetch, an allocation of a conversion's home or a relayed request is out on the station. -/
def Sys2Proof.Claims.StationLosses : Prop :=
  ∀ (s : State) (k : Fin 64), 
    let x := s.stations[k]
    let sent := fun (r : Req) => r.station = some k ∧ r.due = none ∧ r.fill = false ∧ (r.sent = true ∨ r.isSlot = true)
    let none' := fun (t : State) => ∀ r ∈ t.reqs, r.id < s.nextId → ∃ q ∈ s.reqs, q.id = r.id ∧ ¬ sent q
    let out := (∃ r ∈ s.reqs, sent r) ∨ (∃ c ∈ s.cache, ∃ f, c.fetch = some f ∧ f.sent = true ∧ f.station = some k) ∨
      (∃ h ∈ s.homes, ∃ a ∈ h.asks, a.plane = k ∧ a.name = none ∧ a.due = none) ∨ ∃ r ∈ s.relays, r.station = k
    (x.state = .up ∨ x.state = .quiescing ∨ x.state = .keyexh → Runs (.authfail k) s none') ∧
    Runs (.stctlEn k false) s none' ∧
    (x.state = .train → x.mode.val = 2 → Runs (.trainTestTimeout k) s none') ∧
    (x.state = .keyexh → x.since + 1000 * (x.keywait.toNat % 2 ^ 32) ≤ s.gtc.toNat → Runs (.keywaitExpiry k) s none') ∧
    (x.state = .quiescing → x.since + 1000 * (x.qtmo.toNat % 2 ^ 32) ≤ s.gtc.toNat → Runs (.quiesceTimeout k) s none') ∧
    (x.state = .quiescing → out → Runs (.qdone k) s fun t => t = s)

/-- Stations come up, hold keys, obey STCTL and fail what they lose.  The model's choices (log 41): LDTX acts at once in UP and QUIESCING; LDRX
fills the current key, then the next; QUIESCE = 1 acts in UP alone; EN = 1 in DOWN starts training; exhaustion acts in QUIESCING too; UP in a
state that R407 does not name is ignored. -/
def Obligations.Stations : Prop :=
  StationBringUp ∧ StationKeys ∧ StationControl ∧ StationLosses

/-! ## Debug -/

/-- R398 to R401: HREQ halts a context that waits at once, and one that runs at its next boundary; RESUME and STEP let a halted context
go on, and clear its HREQ; PKGHLT halts every context.  A halted context keeps its registers. -/
def Sys2Proof.Claims.DebugHalts : Prop :=
  ∀ (s : State) (w : Who), s.mgmt.pkghlt = false →
    let x := s.ctxOf w
    let mask : BitVec 4 := BitVec.twoPow 4 w.ctx.val
    let dbg := (s.core w.core).dbg
    let kept := fun (t : State) => (∀ v, (t.ctxOf v).s = (s.ctxOf v).s ∧ (t.ctxOf v).h = (s.ctxOf v).h ∧ (t.ctxOf v).pc = (s.ctxOf v).pc) ∧ t.mem = s.mem
    (x.run = .waiting → x.ended = false → s.frozen x = false → dbg.hreq = 0 → Runs (.dctlHreq w.core mask) s fun t =>
      (t.ctxOf w).run = .halted ∧ (t.core w.core).dbg.reason.toNat / 4 ^ w.ctx.val % 4 = 0 ∧ (t.core w.core).dbg.hreq = mask ∧ kept t) ∧
    (x.run = .active → dbg.hreq = 0 → Runs (.dctlHreq w.core mask) s fun t =>
      t = s.modCore w.core fun c => { c with dbg := { c.dbg with hreq := mask } }) ∧
    (x.run = .halted → x.blocked = none →
      (Runs (.dctlResume w.core mask) s fun t => (t.ctxOf w).run = .active ∧ (t.ctxOf w).step = .none ∧
        (t.core w.core).dbg.hreq = dbg.hreq &&& ~~~mask ∧ kept t) ∧
      (Runs (.dctlStep w.core mask) s fun t => (t.ctxOf w).run = .active ∧ (t.ctxOf w).step = .armed ∧
        (t.core w.core).dbg.hreq = dbg.hreq &&& ~~~mask ∧ kept t)) ∧
    (x.run ≠ .halted → (Runs (.dctlResume w.core mask) s fun t => t = s) ∧ (Runs (.dctlStep w.core mask) s fun t => t = s)) ∧
    (Runs (.pkghlt true) s fun t => t.mgmt.pkghlt = true ∧ kept t ∧
      ∀ v, (s.ctxOf v).run = .active ∨ (s.ctxOf v).run = .waiting → (s.ctxOf v).ended = false → (t.ctxOf v).run = .halted)

/-- R398, R400: DDATA reads and writes the item that DSEL selects, in a halted context alone; DERR is 0 after it, and else the code of what
was wrong: 1 not halted, 2 beyond the allotment, 3 a command that has started, 4 no such item, 6 a bad PC. -/
def Sys2Proof.Claims.DebugItems : Prop :=
  ∀ (s : State) (c : CoreId) (v : Word),
    let sel := (s.core c).dbg.dsel.toNat
    let w : Who := { core := c, ctx := ⟨sel % 4, by omega⟩ }
    let x := s.ctxOf w
    let kind := sel / 4 % 8
    let n := sel / 2 ^ 8 % 2 ^ 8
    let k := sel / 2 ^ 16 % 2 ^ 4
    let errs := fun (e : Nat) => ∀ a, (a = none ∨ a = some v) → Runs (.ddata c a) s fun t =>
      t = s.modCore c fun d => { d with dbg := { d.dbg with derr := BitVec.ofNat 64 e } }
    let gives := fun (r : Word) => Runs (.ddata c none) s fun t =>
      t = s.modCore c fun d => { d with dbg := { d.dbg with derr := 0, ddata := r } }
    let puts := fun (y : Ctx) => Runs (.ddata c (some v)) s fun t =>
      t = (s.setCtx w y).modCore c fun d => { d with dbg := { d.dbg with derr := 0, ddata := v } }
    (x.run ≠ .halted → errs 1) ∧
    (x.run = .halted →
      (kind = 0 → x.allot.toNat ≤ n → errs 2) ∧
      (kind = 0 → n < x.allot.toNat → n < 64 → gives (x.rs (BitVec.ofNat 6 n)) ∧
        puts (if n = 0 then x else { x with s := x.s.set (n % 64) v (Nat.mod_lt n (by decide)) })) ∧
      (kind = 1 → n < 32 → k < 4 → gives (BitVec.ofNat 64 ((x.rh (BitVec.ofNat 5 n) &&& ~~~(BitVec.twoPow 256 93)).toNat / 2 ^ (64 * k) % 2 ^ 64))) ∧
      (kind = 1 → 32 ≤ n ∨ 4 ≤ k → errs 4) ∧
      (kind = 2 → gives x.pc ∧ (v.toNat % 4 = 0 → v.toNat < 2 ^ 52 → puts { x with pc := v }) ∧
        (v.toNat % 4 ≠ 0 ∨ 2 ^ 52 ≤ v.toNat → Runs (.ddata c (some v)) s fun t =>
          t = s.modCore c fun d => { d with dbg := { d.dbg with derr := 6 } })) ∧
      (kind = 3 → n = 0x1B → gives x.traphnd ∧ puts { x with traphnd := BitVec.ofNat 64 (v.toNat / 4 * 4) }) ∧
      (kind = 4 → ∀ (q : Fin 5) (d : Cmd), sel / 2 ^ 20 % 8 = q.val → x.queues[q][sel / 2 ^ 23 % 32]? = some d →
        gives (BitVec.ofNat 64 (d.bits.toNat / 2 ^ (64 * k) % 2 ^ 64)) ∧
        (d.phase ≠ .queued → Runs (.ddata c (some v)) s fun t =>
          t = s.modCore c fun d => { d with dbg := { d.dbg with derr := 3 } })) ∧
      (5 ≤ kind → errs 4))

/-- Halts, resumes and steps keep registers; DDATA reads and writes halted contexts.  The model's choices (log 43): a context that waits halts at
once, and DERR is 4 for an unknown kind and for a handle number of 32 or more. -/
def Obligations.Debugging : Prop :=
  DebugHalts ∧ DebugItems

/-! ## Management -/

/-- R323, R389, R390, R442, R443, R5: writes of the management processor.  A slot's registers keep the bits that exist, and a bad ring size
is 0; TROOT and PWRCTL are stored as their rules say; read-only registers, and offsets that no block names (log 52), ignore
a write; TINV, PCSIZE, ELOGACK and PKGHLT act as their events do. -/
def Sys2Proof.Claims.RegisterWrites : Prop :=
  ∀ (s : State) (v : Word) (k : Fin 16),
    let writes := fun (off : Nat) (p : State → Prop) => Runs (.mgmtRegisterWrite (BitVec.ofNat 32 off) v) s p
    let slot := fun (x : Slot) (t : State) => t = { s with slots := s.slots.set k x }
    let n := v.toNat
    let x := s.slots[k]
    let at' := 0x100000 + 0x100 * k.val
    let m := s.mgmt
    writes at' (slot { x with lrbase := BitVec.ofNat 64 (n / 4096 * 4096) }) ∧
    writes (at' + 0x08) (slot { x with lrsize := if 12 ≤ n % 32 ∧ n % 32 ≤ 24 then BitVec.ofNat 64 (n % 32) else 0 }) ∧
    writes (at' + 0x10) (slot { x with lrpi := v }) ∧ writes (at' + 0x18) (fun t => t = s) ∧
    writes (at' + 0x20) (slot { x with crbase := BitVec.ofNat 64 (n / 4096 * 4096) }) ∧
    writes (at' + 0x38) (slot { x with crci := v }) ∧
    writes (at' + 0x48) (slot { x with seambase := BitVec.ofNat 64 (n / 65536 * 65536) }) ∧
    writes (0x120000 + 8 * k.val) (slot { x with troot := BitVec.ofNat 64 (n / 65536 % 2 ^ 32 * 65536 + n % 2) }) ∧
    writes 0x170000 (fun t => t = { s with mgmt := { m with pwrctl := BitVec.ofNat 64 (min 10000 (n % 2 ^ 16) +
      2 ^ 16 * min 2000 (n / 2 ^ 16 % 2 ^ 16) + 2 ^ 32 * (n / 2 ^ 32 % 2 ^ 8) + 2 ^ 40 * min 110 (n / 2 ^ 40 % 2 ^ 8)) } }) ∧
    (∀ off ∈ [0x170008, 0x170020, 0x170028, 0x170030, 0x170038, 0x170040, 0x100058, 0x170001, 0x180000, 0], writes off fun t => t = s) ∧
    (∀ e ∈ [(0x120100, Instr.tinv v), (0x110100, .pcsizeWrite v), (0x170048, .elogack v), (0x200058, .pkghlt (v.getLsbD 0))],
      exec (.mgmtRegisterWrite (BitVec.ofNat 32 e.1) v) s = exec e.2 s) ∧
    (Runs (.elogack v) s fun t => t = { s with mgmt := { m with eloghead := min n m.elogtail } }) ∧
    let held := fun id => ∃ h, s.holdOf (.pool id) = some h ∧ 0 < h.count ∧ s.gtc.toNat < h.stop.toNat
    let size := min 512 (n % 1024 / 16 * 16)
    ((∃ h ∈ s.holds, ∃ id, h.key = .pool id ∧ held id) → Runs (.pcsizeWrite v) s fun t => t = s) ∧
    ((∀ h ∈ s.holds, ∀ id, h.key = .pool id → ¬ held id) → Runs (.pcsizeWrite v) s fun t =>
      t = { s with mgmt := { m with pcsize := BitVec.ofNat 64 size }, cache := s.cache.take (16384 * size), reqs := t.reqs } ∧
      t.reqs.map (·.id) = s.reqs.map (·.id) ∧ (s.cache.length ≤ 16384 * size → t.reqs = s.reqs))

/-- R390: an invalidation drops the translations that it covers from every TLB; with sixteen pending it is lost, and TINVOVF says so.  Each
one that completes is counted. -/
def Sys2Proof.Claims.Invalidations : Prop :=
  ∀ (s : State) (v : Word),
    let n := v.toNat
    let page := n / 2 ^ 16 % 2 ^ 36
    let hit := fun (h : Held) => h.slot.val = n % 16 ∧
      (n / 16 % 4 = 3 ∨ h.page / 2 ^ [0, 5, 14].getD (n / 16 % 4) 0 = page / 2 ^ [0, 5, 14].getD (n / 16 % 4) 0)
    (s.mgmt.tinvPending.length < 16 → Runs (.tinv v) s fun t =>
      (∀ h, h ∈ t.tlb ↔ h ∈ s.tlb ∧ ¬ hit h) ∧ t.mgmt.tinvPending.length = s.mgmt.tinvPending.length + 1 ∧
      t = { s with tlb := t.tlb, mgmt := { s.mgmt with tinvPending := t.mgmt.tinvPending } }) ∧
    (16 ≤ s.mgmt.tinvPending.length → Runs (.tinv v) s fun t => t = { s with mgmt := { s.mgmt with tinvOvf := true } }) ∧
    (∀ p rest, s.mgmt.tinvPending = p :: rest → Runs .tlbInvalidationComplete s fun t =>
      t = { s with mgmt := { s.mgmt with tinvPending := rest, tinvDone := s.mgmt.tinvDone + 1 } }) ∧
    (s.mgmt.tinvPending = [] → Runs .tlbInvalidationComplete s fun t => t = s)

/-- R434, R435, R440, R441: the side-band port answers an authentic datagram with a new number, access by access, and drops any other; a
quote holds the digest of the image, STNID, the GTC and a signature over them with the nonce.  A write of an update changes 8 bytes of
the inactive bank, which is verified there.  GTCERR grows by 100 ns for each ms that synchronisation has been lost.  The status 1 of an offset that
no block names, and how a datagram addresses the inactive bank, are the model's choices (logs 51, 48). -/
def Sys2Proof.Claims.SideBand : Prop :=
  ∀ (s : State) (seq v : Word) (l : List SideAccess) (tag : BitVec 128) (nonce : BitVec 256),
    let m := s.mgmt
    let good := Config.sidebandTag m.sideKey seq l = tag ∧ m.sideSeq.toNat < seq.toNat ∧ l.length ≤ 64
    let id : Word := BitVec.ofNat 64 m.stnid.toNat
    let idle := fun (m : Mgmt) => if m.bank = true then m.bank0 else m.bank1
    let digest := Config.imageDigest (if m.bank = true then m.bank1 else m.bank0)
    let answers := fun (r : List (Word × BitVec 2)) (t : State) => t = { s with
      mgmt := { m with sideSeq := seq }
      outbox := s.outbox ++ [Msg.sideReply seq r] }
    (¬ good → Runs (.sidebandDatagram seq l tag) s fun t => t = s) ∧
    (good → l = [] → Runs (.sidebandDatagram seq l tag) s (answers [])) ∧
    (good → l = [{ off := 0x170000, write := none }, { off := 0x180000, write := none }] →
      Runs (.sidebandDatagram seq l tag) s (answers [(m.pwrctl, 0), (0, 1)])) ∧
    (good → l = [{ off := 0x130048, write := some v }] → Runs (.sidebandDatagram seq l tag) s fun t =>
      t.stations = s.stations.set 0 { s.stations[0] with keywait := BitVec.ofNat 64 (v.toNat % 2 ^ 32) } ∧
      t.outbox = s.outbox ++ [Msg.sideReply seq [(0, 0)]] ∧ t.mgmt = { m with sideSeq := seq } ∧ t.cores = s.cores ∧ t.mem = s.mem) ∧
    (good → BankForm s → ∀ a : BitVec 32, a.toNat % 8 = 0 →
      (l = [{ off := a, write := none, bank := true }] →
        Runs (.sidebandDatagram seq l tag) s (answers [(BitVec.ofNat 64 (leNat (cellsRead (idle m) a.toNat 8)), 0)])) ∧
      (l = [{ off := a, write := some v, bank := true }] → Runs (.sidebandDatagram seq l tag) s fun t =>
        t.outbox = s.outbox ++ [Msg.sideReply seq [(0, 0)]] ∧ t.cores = s.cores ∧ t.mem = s.mem ∧ t.mgmt.bank = m.bank ∧
        t.mgmt.rollctr = m.rollctr ∧ (if m.bank = true then t.mgmt.bank1 = m.bank1 else t.mgmt.bank0 = m.bank0) ∧
        cellsRead (idle t.mgmt) a.toNat 8 = leBytes 8 v.toNat ∧
        (∀ z, z < a.toNat ∨ a.toNat + 8 ≤ z → cellGet (idle t.mgmt) z = cellGet (idle m) z) ∧
        (t.mgmt.updated = true ↔ Config.imageVerifies (idle t.mgmt) = true ∧ m.rollctr.toNat ≤ leNat (cellsRead (idle t.mgmt) 0 8)))) ∧
    (good → l = [{ off := 0x170010, write := none }] →
      (m.lostAt = none → m.sync = false → Runs (.sidebandDatagram seq l tag) s (answers [(0, 0)])) ∧
      (∀ k, m.lostAt = some k → m.sync = false → Runs (.sidebandDatagram seq l tag) s (answers
        [(BitVec.ofNat 64 (min (2 ^ 32 - 1) ((Config.gtcOffset k).toNat + (s.gtc.toNat - k) / 1000000 * 100)), 0)]))) ∧
    (Runs (.attestationRequest nonce) s fun t => t = { s with
      mgmt := { m with sideKey := Config.sessionKey nonce }
      outbox := s.outbox ++ [Msg.quote digest id s.gtc (Config.quoteSignature nonce digest id s.gtc)] })

/-- Management register writes, invalidations and the side-band port.  The model's choices: that a write to an unnamed offset is ignored
(log 52), its side-band status (log 51), and the addressing of the inactive bank (log 48). -/
def Obligations.ManagementWrites : Prop :=
  RegisterWrites ∧ Invalidations ∧ SideBand

/-- R433, R434, R357, R438: power and the clock step, with the limits that PWRCTL gives from the next evaluation on, the thermal trip, the
GTC's synchronisation, and memory errors, a device's CORRECTED once per millisecond and with the die where the device sits.  That the
count of calm evaluations begins again after a step up, and that a surge acts at exactly 110 percent, are the model's choices (log 46), as are
that scrubbing does nothing but poison (log 47) and the numbers of the memory devices (log 20). -/
def Sys2Proof.Claims.PowerAndTime : Prop :=
  ∀ (s : State) (r : PowerReading) (n : Nat) (dev : BitVec 16) (c : Word),
    let m := s.mgmt
    let p := m.pwrctl.toNat
    let lim := m.limits.toNat
    let limit := 10 * (lim / 2 ^ 16 % 2 ^ 16)
    let trip := 8 * (lim / 2 ^ 40 % 2 ^ 8)
    let plim := p % 2 ^ 16
    let ilim := 10 * (p / 2 ^ 16 % 2 ^ 16)
    let tlim := 8 * (p / 2 ^ 32 % 2 ^ 8)
    let above := plim < r.power ∨ ilim < r.current ∨ tlim < r.hottest
    let under := 100 * r.power < 95 * plim ∧ 100 * r.current < 95 * ilim ∧ 100 * r.hottest < 95 * tlim
    let stepped := fun (k : Nat) (t : State) => t.mgmt.k = k ∧ t.mgmt.calm = 0 ∧ t.cores = s.cores ∧ t.mem = s.mem ∧
      (k = m.k → t.mgmt.kchanges = m.kchanges) ∧ (k ≠ m.k → t.mgmt.kchanges = m.kchanges + 1 ∧ Logs s .throttle t)
    let latched := fun (t : State) => t.mgmt.limits = m.pwrctl ∧ t.mgmt.evalAt = s.gtc.toNat
    (s.gtc.toNat < m.evalAt + 10000 → Runs (.powerEvaluation r) s fun t => t = s) ∧
    (m.evalAt + 10000 ≤ s.gtc.toNat →
      (above → Runs (.powerEvaluation r) s fun t => stepped (max 8 (m.k - 1)) t ∧ latched t) ∧
      (¬ above → under → m.calm + 1 < 100 → Runs (.powerEvaluation r) s fun t =>
        t = { s with mgmt := { m with calm := m.calm + 1, limits := m.pwrctl, evalAt := s.gtc.toNat } }) ∧
      (¬ above → under → 100 ≤ m.calm + 1 → Runs (.powerEvaluation r) s fun t => stepped (min 16 (m.k + 1)) t ∧ latched t) ∧
      (¬ above → ¬ under → Runs (.powerEvaluation r) s fun t =>
        t = { s with mgmt := { m with calm := 0, limits := m.pwrctl, evalAt := s.gtc.toNat } })) ∧
    (11 * limit ≤ 10 * n → Runs (.currentSurge n) s (stepped 8)) ∧ (10 * n < 11 * limit → Runs (.currentSurge n) s fun t => t = s) ∧
    (trip ≤ n → Runs (.thermalTrip n) s fun t =>
      t.mgmt.railsOn = false ∧ t.mgmt.pkghlt = true ∧ Logs s .thermtrip t ∧ t.mem = s.mem ∧
      ∀ w, (s.ctxOf w).run = .active → (s.ctxOf w).ended = false → (t.ctxOf w).run = .halted) ∧
    (n < trip → Runs (.thermalTrip n) s fun t => t = s) ∧
    (m.sync = true → Runs .gtclost s fun t => t.mgmt.sync = false ∧ t.mgmt.lostAt = some s.gtc.toNat ∧ Logs s .gtclost t ∧ t.cores = s.cores) ∧
    (m.sync = false → Runs .gtclost s fun t => t = s) ∧
    (Runs .gtcSyncReturn s fun t => t = { s with mgmt := { m with sync := true, lostAt := none } }) ∧
    (dev.toNat < 272 → c ≠ 0 → (∀ q ∈ m.corrected, q.1 = dev.toNat → q.2 + 1000000 ≤ s.gtc.toNat) → Runs (.corrected dev c) s fun t =>
      (s.mgmt.elog.length < 65536 → ∃ e ∈ t.mgmt.elog, e.code = .corrected ∧ e.gtc = s.gtc ∧
        e.src = s.unitSrc + BitVec.ofNat 32 (256 * (if dev.toNat < 16 then dev.toNat / 2 else (dev.toNat - 16) / 32))) ∧
      (dev.toNat, s.gtc.toNat) ∈ t.mgmt.corrected ∧ t.cores = s.cores ∧ t.mem = s.mem) ∧
    (272 ≤ dev.toNat ∨ c = 0 ∨ (∃ q ∈ m.corrected, q.1 = dev.toNat ∧ s.gtc.toNat < q.2 + 1000000) → Runs (.corrected dev c) s fun t => t = s) ∧
    (∀ bad, 32 * n < 2 ^ 48 → n ∉ s.poison → (∀ d ∈ s.dirty, d.1 ≠ n / 4) → bad = true ∨ n ∈ s.worn → Runs (.patrolScrub n bad) s fun t =>
      t = { s with poison := n :: s.poison, worn := s.worn.filter fun g => decide (g ≠ n) }) ∧
    (n ∉ s.worn → Runs (.patrolScrub n false) s fun t => t = s)

/-- R439, R440: boot.  The bank tried first is the active one, and the other after an update that has verified or a boot that failed before step 8;
an image runs when it verifies and its version is at least the rollback counter, which step 8 raises to its version.  Firmware sets
STNID and writes translation tables in step 6; the Ethernet port comes up in step 7.  A step that fails is shown with FAIL, and the boot
stops there; a boot that has come to a step goes on from it.  With no image that runs BOOTFAIL is logged, in step 1.  Every context is
free and nothing of the compute dies lasts.  The model's choices: that memory then reads zero (log 3), that the GTC counts on from 0 in
step 5 (log 6), and how the steps and firmware's writes come as facts of one event (log 48). -/
def Sys2Proof.Claims.BootBanks : Prop :=
  ∀ (s : State) (f : BootFacts),
    let m := s.mgmt
    let image := fun (b : Bool) => if b then m.bank1 else m.bank0
    let first := if m.updated = true ∨ m.bankBack = true then !m.bank else m.bank
    let version := fun (b : Bool) => (BitVec.ofNat 64 (leNat (cellsRead (image b) 0 8)) : Word)
    let runs := fun (b : Bool) => Config.imageVerifies (image b) = true ∧ m.rollctr.toNat ≤ (version b).toNat
    let fresh := fun (t : State) => t.cores = Vector.replicate 512 Core.reset ∧ t.launches = [] ∧ t.teams = [] ∧ t.slots = Vector.replicate 16 Slot.reset ∧
      t.gtc = 0 ∧ t.reqs = [] ∧ t.mgmt.bank0 = m.bank0 ∧ t.mgmt.bank1 = m.bank1
    (f.goesOn = false → ∀ b, (runs first ∧ b = first ∨ ¬ runs first ∧ runs (!first) ∧ b = !first) →
      (∀ id p bs, f.failAt = none → 8 ≤ f.upTo → f.regs = [(6, 0x134000, id)] → f.tables = [(6, p, bs)] → Runs (.powerOnBoot f) s fun t =>
        fresh t ∧ t.mgmt.bootStep = 8 ∧ t.mgmt.bootFail = false ∧ t.mgmt.bank = b ∧
        t.mgmt.bankBack = false ∧ t.mgmt.fwver = version b ∧ t.mgmt.rollctr = version b ∧ t.mgmt.sync = true ∧
        t.mgmt.stnid = id.setWidth 10 ∧ t.mem = cellsWrite [] p bs ∧ t.ether.linkUp = true ∧
        (m.updated = true → b = first → ∃ e ∈ t.mgmt.elog, e.code = .fwupdate)) ∧
      (f.failAt = none → 2 ≤ f.upTo → f.upTo < 8 → f.regs = [] → f.tables = [] → Runs (.powerOnBoot f) s fun t =>
        fresh t ∧ t.mgmt.bootStep.toNat = f.upTo ∧ t.mgmt.bootFail = false ∧ t.mgmt.bank = b ∧ t.mgmt.rollctr = m.rollctr) ∧
      (∀ k : Fin 8, f.failAt = some k → 2 ≤ k.val → k.val ≤ f.upTo → f.regs = [] → f.tables = [] → Runs (.powerOnBoot f) s fun t =>
        fresh t ∧ t.mgmt.bootStep.toNat = k.val ∧ t.mem = [] ∧
        t.mgmt.bootFail = true ∧ t.mgmt.bank = b ∧ t.mgmt.bankBack = true ∧ t.mgmt.rollctr = m.rollctr ∧
        ∃ e ∈ t.mgmt.elog, e.code = .bootfail ∧ e.data = [BitVec.ofNat 64 k.val])) ∧
    (f.goesOn = false → ¬ runs first → ¬ runs (!first) → Runs (.powerOnBoot f) s fun t =>
      fresh t ∧ t.mem = [] ∧ t.mgmt.bootStep = 1 ∧ t.mgmt.rollctr = m.rollctr ∧ ∃ e ∈ t.mgmt.elog, e.code = .bootfail) ∧
    (f.goesOn = true →
      (m.bootStep.toNat < 2 ∨ m.bootStep = 8 ∨ m.bootFail = true → Runs (.powerOnBoot f) s fun t => t = s) ∧
      (m.bootStep = 4 → m.bootFail = false → f.upTo = 5 → f.failAt = none → Runs (.powerOnBoot f) s fun t =>
        t = { s with mgmt := { m with bootStep := 5, sync := true } }))

/-! ## The whole machine -/

/-- R12, R24, R29, R33, R166, R324, R361, R406, R434: what reset leaves.  The run state FREE and user mode are the model's choices (log 6); the
other values are the spec's. -/
def Sys2Proof.Claims.ResetValues : Prop :=
  (∀ w, let x := State.reset.ctxOf w
    x.run = .free ∧ x.mode = .user ∧ x.fpc = 8 ∧ x.fps = 0 ∧ x.leasemax = 0x400 ∧ x.bkoff = 0xC8 ∧ x.bklim = 0x0C ∧ x.hangt = 0x100000 ∧
      (∀ h, x.rh h = 0xFFFF0000)) ∧
  (∀ c, (State.reset.core c).bankrole = 0 ∧ (State.reset.core c).dirtylim = 0x800 ∧ (State.reset.core c).scratch = []) ∧
  (∀ k : Fin 16, State.reset.slots[k].scfg = 0x000007D008000000 ∧ State.reset.slots[k].mslot = 0x0000000400000101 ∧ State.reset.slots[k].troot = 0) ∧
  (∀ k : Fin 64, State.reset.stations[k].state = .down ∧ State.reset.stations[k].en = false ∧ State.reset.stations[k].keywait = 10000 ∧
    State.reset.stations[k].exppeer.toNat = 2048 * k.val) ∧
  State.reset.mgmt.pcsize = 128 ∧ State.reset.mgmt.lguard = 2000 ∧ State.reset.mgmt.lterm = 5000 ∧ State.reset.mgmt.k = 16 ∧
  State.reset.mgmt.pwrctl = 0x695F07D02710 ∧ State.reset.mgmt.sync = false ∧ State.reset.mgmt.cvtmo = 20 ∧ State.reset.mgmt.pkghlt = false

/-- The forms that every step keeps: memories canonical, the firmware banks too, translations of whole pages, copied lines whole, and no
queued access that holds a lease. -/
def Sys2Proof.Claims.Form (s : State) : Prop := Memory.wf s = true ∧ HeldPages s ∧ HeldLines s ∧ QueueForm s ∧ BankForm s

/-- Reset has these forms. -/
def Sys2Proof.Claims.ResetForm : Prop := Form State.reset

/-- What reset leaves, and the forms that it has.  The run state FREE and user mode are the model's choice (log 6). -/
def Obligations.ResetState : Prop :=
  ResetValues ∧ ResetForm

/-- Every step keeps the canonical form of device memory and of every scratch. -/
def Obligations.StepKeepsMemoryForm : Prop :=
  ∀ s t : State, Memory.wf s = true → step s = .next t → Memory.wf t = true

/-- R33, R176, R303, R360, R387, R440: every step keeps translations of whole pages below 2^48, copied lines of 128 bytes, the form of the
line queue, and the canonical form of the firmware banks. -/
def Obligations.StepKeepsHeldForms : Prop :=
  ∀ s t : State, HeldPages s → HeldLines s → QueueForm s → BankForm s → step s = .next t →
    HeldPages t ∧ HeldLines t ∧ QueueForm t ∧ BankForm t

/-- R433, R439: with the rails of the compute dies off, or before they have left reset in boot step 4, only time passes for them; what the
management die does by itself is done in either case, once a verified image runs; while none runs, the side-band port alone is
served, with the attestation that gives it its key, and boot. -/
def Sys2Proof.Claims.DiesWithoutPower : Prop :=
  ∀ (s : State) (u : Turn) (rest : List Turn), s.agenda = u :: rest →
    let now := { s with cycle := s.cycle + u.cycles, gtc := s.gtc + BitVec.ofNat 64 u.ns, agenda := rest }
    let held := s.mgmt.bootStep.toNat < 4 ∨ s.mgmt.bootStep = 4 ∧ s.mgmt.bootFail = true
    (∀ c, u.move = .issue c → s.mgmt.railsOn = false ∨ held → step s = .next now) ∧
    (∀ w, u.move = .event (.mma w) → s.mgmt.railsOn = false ∨ held → step s = .next now) ∧
    (∀ w, u.move = .event (.mma w) → s.mgmt.railsOn = true → ¬ held → step s = exec (.mma w) now) ∧
    (∀ f, u.move = .event (.powerOnBoot f) → step s = exec (.powerOnBoot f) now) ∧
    (∀ q l g, u.move = .event (.sidebandDatagram q l g) → step s = exec (.sidebandDatagram q l g) now) ∧
    (∀ v, u.move = .event (.elogack v) → 2 ≤ s.mgmt.bootStep.toNat → step s = exec (.elogack v) now) ∧
    (∀ i, u.move = .event i → s.mgmt.bootStep.toNat < 2 → (∀ f, i ≠ .powerOnBoot f) → (∀ q l g, i ≠ .sidebandDatagram q l g) →
      (∀ n, i ≠ .attestationRequest n) → step s = .next now)

/-- Power, clock, thermal, memory errors and boot.  The model's choices: cleared memory (log 3), the GTC from 0 (log 6), how the rails being
off is shown (log 16), calm count and surge threshold (log 46), scrubbing (log 47), the boot events and bank choice (log 48). -/
def Obligations.PowerAndBoot : Prop :=
  PowerAndTime ∧ BootBanks ∧ DiesWithoutPower

/-- R97 to R99, R119, R337, R399: a step runs the instruction that its words decode to.  A context that is the only one of its core to
issue, with nothing of a halt, a hang, a role change or a pre-emption in its way, and whose words are fetched and decode to `i`, runs
exec of `i` on the state after the fetch, and afterwards halts if it is being stepped; it is last in its core's order for the cycle
after the instruction's last word; words that decode to nothing trap with
ILLEGAL, and the trap's value is the first word. -/
def Obligations.StepRunsDecoded : Prop :=
  ∀ (s : State) (w : Who) (u : Turn) (rest : List Turn) (s2 : State) (ws : List IWord), s.agenda = u :: rest → u.move = .issue w.core →
    s.mgmt.railsOn = true → 4 ≤ s.mgmt.bootStep.toNat → (s.mgmt.bootStep = 4 → s.mgmt.bootFail = false) → s.mgmt.pkghlt = false →
    let now := { s with cycle := s.cycle + u.cycles, gtc := s.gtc + BitVec.ofNat 64 u.ns, agenda := rest }
    let x := s.ctxOf w
    x.run = .active → x.blocked = none → (∀ k : Fin 4, k ≠ w.ctx → (s.core w.core).ctx[k].run ≠ .active ∨ (s.core w.core).ctx[k].blocked ≠ none) →
    x.pend = false → x.past = none → x.hangt = 0 → x.step = .none → (s.core w.core).dbg.hreq = 0 →
    (∀ b ∈ (s.core w.core).dbg.dbpa.toList, b.getLsbD 0 = false) → (s.core w.core).dbg.roles = [] →
    let counted := fun (n : Nat) => s2.modCore w.core fun c => { c with
      lastIssuer := w.ctx
      ctx := c.ctx.set w.ctx { c.ctx[w.ctx] with wait := 0, since := s2.cycle + n } }
    ({ now with who := w } : State).fetch w = .ok (s2, ws) →
    (∀ i, decodeWords ws = .ok i → step s = (match exec i (counted ws.length) with
      | .next t => .next (t.afterIssue w)
      | r => r)) ∧
    (∀ e, decodeWords ws = .error e → Trappable s2 →
      ∃ t, step s = .next t ∧ TrapsWith (counted 1) Cause.illegal 0 ((ws.headD 0).setWidth 64) t)

/-- R97 to R119: the encodings.  Decoding the bytes of a well-formed instruction gives it back, with the bytes that follow; and what a
list of words decodes to has these words as its encoding, so that no two encodings mean one instruction. -/
def Sys2Proof.Claims.BytesRoundTrip : Prop :=
  ∀ (i : Instr) (rest : List Byte), i.wellFormed = true → encode i ≠ [] →
    decode ((encode i).flatMap bytesOfWord ++ rest) = .ok (i, rest)

/-- R97, R98, R119: words that decode are the encoding of a well-formed instruction. -/
def Sys2Proof.Claims.EncodeDecode : Prop :=
  ∀ (ws : List IWord) (i : Instr), decodeWords ws = .ok i → encode i = ws ∧ i.wellFormed = true

/-- Decoding an encoded well-formed instruction gives it back, and decoded words are its encoding. -/
def Obligations.DecodeEncode : Prop :=
  BytesRoundTrip ∧ EncodeDecode

/-- The integer group's function codes; the three bit counts have no Sb, and their rb is zero (R109, R110). -/
def Sys2Proof.Claims.integerCode (d a b : SReg) : Nat → Option Instr
  | 0 => some (.add d a b)
  | 1 => some (.sub d a b)
  | 2 => some (.mul d a b)
  | 3 => some (.mulh d a b)
  | 4 => some (.mulhu d a b)
  | 5 => some (.div d a b)
  | 6 => some (.divu d a b)
  | 7 => some (.rem d a b)
  | 8 => some (.remu d a b)
  | 9 => some (.and d a b)
  | 10 => some (.or d a b)
  | 11 => some (.xor d a b)
  | 12 => some (.andn d a b)
  | 13 => some (.shl d a b)
  | 14 => some (.shr d a b)
  | 15 => some (.sra d a b)
  | 16 => some (.rol d a b)
  | 17 => some (.min d a b)
  | 18 => some (.max d a b)
  | 19 => some (.minu d a b)
  | 20 => some (.maxu d a b)
  | 21 => if b = 0 then some (.clz d a) else none
  | 22 => if b = 0 then some (.ctz d a) else none
  | 23 => if b = 0 then some (.popc d a) else none
  | _ => none

/-- The compare group's function codes (R110). -/
def Sys2Proof.Claims.compareCode (d a b : SReg) : Nat → Option Instr
  | 0 => some (.ceq d a b)
  | 1 => some (.cne d a b)
  | 2 => some (.clt d a b)
  | 3 => some (.cle d a b)
  | 4 => some (.cltu d a b)
  | 5 => some (.cleu d a b)
  | _ => none

/-- The float group's function codes; FSQRT has no Sb (R109, R110). -/
def Sys2Proof.Claims.floatCode (d a b : SReg) : Nat → Option Instr
  | 0 => some (.fadd d a b)
  | 1 => some (.fsub d a b)
  | 2 => some (.fmul d a b)
  | 3 => some (.fdiv d a b)
  | 4 => if b = 0 then some (.fsqrt d a) else none
  | 5 => some (.fmin d a b)
  | 6 => some (.fmax d a b)
  | _ => none

/-- R110: the function codes of majors 0x01, 0x02 and 0x04, with every register in every position; a code that is not listed decodes
to nothing. -/
def Obligations.FunctionCodes : Prop :=
  ∀ (d a b : SReg) (k : Nat), k < 64 →
    let w := fun major => major * 2 ^ 24 + d.toNat * 2 ^ 18 + a.toNat * 2 ^ 12 + b.toNat * 2 ^ 6 + k
    decodeTableWord 32 (w 1) = integerCode d a b k ∧
    decodeTableWord 32 (w 2) = compareCode d a b k ∧
    decodeTableWord 32 (w 4) = floatCode d a b k

/-- R97 to R119: words written out from the encodings of the spec. -/
def Obligations.DecodeWords : Prop :=
  decodeWords [0x010420C0#32] = .ok (.add 1 2 3) ∧ decodeWords [0x0804200C#32] = .ok (.addi 1 2 12) ∧
  decodeWords [0x03042103#32] = .ok (.sel 1 2 4 3) ∧
  decodeWords [0x0F040000#32, 0x12345678#32] = .ok (.li 1 0x12345678) ∧ decodeWords [0x11FFFFFF#32] = .ok (.br 0xFFFFFF) ∧
  decodeWords [0x13000000#32] = .ok .ret ∧ decodeWords [0x20088000#32] = .ok (.hmov 1 2) ∧
  decodeWords [0x2A042008#32] = .ok (.ldd 1 2 8) ∧ decodeWords [0x5F000000#32] = .ok .rtt ∧ decodeWords [0x65000000#32] = .ok .nop ∧
  decodeWords [0x60000000#32, 0x00000003#32] = .ok (.safept 3) ∧
  (∃ e, decodeWords [0x00000000#32] = .error e) ∧ (∃ e, decodeWords [0x13000001#32] = .error e)
end

