-- ==== Sys2Proof/Laws/Cells.lean ====
section
/-! SUPPORT. Memory as a list of cells: the canonical form is kept by every write, a read gives what was written, and
a write leaves every other byte alone. -/

namespace Sys2Proof.Laws

open Sys2Proof.Machine

/-! ## The canonical form -/

/-- One cell at a time: it is not what an unlisted byte reads as, and every later address is higher. -/
theorem cellsWf_cons (k : Nat) (v : Byte) (t : List Host.Cell) :
    cellsWf ((k, v) :: t) = true ↔ v ≠ unlisted ∧ (∀ c ∈ t, k < c.1) ∧ cellsWf t = true := by
  induction t generalizing k v with
  | nil => simp [cellsWf]
  | cons c t ih =>
    obtain ⟨k', v'⟩ := c
    simp only [cellsWf, Bool.and_eq_true, bne_iff_ne, decide_eq_true_eq, List.mem_cons, forall_eq_or_imp]
    constructor
    · rintro ⟨⟨h1, h2⟩, h3⟩
      exact ⟨h1, ⟨h2, fun c hc => Nat.lt_trans h2 (((ih k' v').mp h3).2.1 c hc)⟩, h3⟩
    · rintro ⟨h1, ⟨h2, -⟩, h3⟩
      exact ⟨⟨h1, h2⟩, h3⟩

theorem cellPut_mem {m : List Host.Cell} {a : Nat} {v : Byte} {c : Host.Cell} (h : c ∈ cellPut m a v) :
    c.1 = a ∨ c ∈ m := by
  induction m with
  | nil => unfold cellPut at h; split at h <;> simp_all
  | cons d t ih =>
    obtain ⟨k, w⟩ := d
    unfold cellPut at h
    split at h
    · split at h
      · exact .inr h
      · rcases List.mem_cons.mp h with h | h
        · exact .inl (by simp [h])
        · exact .inr h
    · split at h
      · split at h
        · exact .inr (List.mem_cons_of_mem _ h)
        · next e _ =>
          rcases List.mem_cons.mp h with h | h
          · exact .inl (by simp at e; simp [h, e])
          · exact .inr (List.mem_cons_of_mem _ h)
      · rcases List.mem_cons.mp h with h | h
        · exact .inr (by simp [h])
        · exact (ih h).imp_right (List.mem_cons_of_mem _)

/-- Writing one byte keeps the canonical form. -/
theorem cellPut_wf (m : List Host.Cell) (a : Nat) (v : Byte) (h : cellsWf m = true) : cellsWf (cellPut m a v) = true := by
  induction m with
  | nil => unfold cellPut; split <;> simp_all [cellsWf]
  | cons d t ih =>
    obtain ⟨k, w⟩ := d
    obtain ⟨hw, hk, ht⟩ := (cellsWf_cons k w t).mp h
    unfold cellPut
    split
    · next hlt =>
      split
      · exact h
      · next hv =>
        refine (cellsWf_cons _ _ _).mpr ⟨by simpa using hv, ?_, h⟩
        intro c hc
        rcases List.mem_cons.mp hc with rfl | hc
        · exact hlt
        · exact Nat.lt_trans hlt (hk c hc)
    · split
      · split
        · exact ht
        · next hv => exact (cellsWf_cons _ _ _).mpr ⟨by simpa using hv, hk, ht⟩
      · next h1 h2 =>
        refine (cellsWf_cons _ _ _).mpr ⟨hw, ?_, ih ht⟩
        intro c hc
        rcases cellPut_mem hc with e | hc
        · have : a ≠ k := by simpa using h2
          omega
        · exact hk c hc

/-- Writing a byte string keeps the canonical form. -/
theorem cellsWrite_wf (bs : List Byte) (m : List Host.Cell) (a : Nat) (h : cellsWf m = true) :
    cellsWf (cellsWrite m a bs) = true := by
  induction bs generalizing m a with
  | nil => exact h
  | cons b bs ih => exact ih _ _ (cellPut_wf m a b h)

/-- Dropping cells keeps the canonical form. -/
theorem filter_wf (p : Host.Cell → Bool) (m : List Host.Cell) (h : cellsWf m = true) : cellsWf (m.filter p) = true := by
  induction m with
  | nil => rfl
  | cons d t ih =>
    obtain ⟨k, w⟩ := d
    obtain ⟨hw, hk, ht⟩ := (cellsWf_cons k w t).mp h
    rw [List.filter_cons]
    split
    · exact (cellsWf_cons _ _ _).mpr ⟨hw, fun c hc => hk c (List.mem_filter.mp hc).1, ih ht⟩
    · exact ih ht

theorem cellsDrop_wf (m : List Host.Cell) (lo hi : Nat) (h : cellsWf m = true) : cellsWf (cellsDrop m lo hi) = true :=
  filter_wf _ m h

/-! ## Reads -/

/-- An address below every listed one reads as nothing written. -/
theorem cellGet_below (m : List Host.Cell) (a : Nat) (h : ∀ c ∈ m, a < c.1) : cellGet m a = unlisted := by
  cases m with
  | nil => rfl
  | cons d t =>
    obtain ⟨k, w⟩ := d
    have : a < k := h (k, w) (by simp)
    simp [cellGet, this, Nat.ne_of_lt this]

/-- A read after a write of the same byte gives the byte written. -/
theorem cellGet_put_same (m : List Host.Cell) (a : Nat) (v : Byte) (h : cellsWf m = true) :
    cellGet (cellPut m a v) a = v := by
  induction m with
  | nil => unfold cellPut; split <;> simp_all [cellGet]
  | cons d t ih =>
    obtain ⟨k, w⟩ := d
    obtain ⟨-, hk, ht⟩ := (cellsWf_cons k w t).mp h
    unfold cellPut
    split
    · next hlt =>
      split
      · next hv => simp_all [cellGet, Nat.ne_of_lt hlt]
      · simp [cellGet]
    · split
      · next e =>
        have e : a = k := by simpa using e
        split
        · next hv =>
          have hv : v = unlisted := by simpa using hv
          rw [cellGet_below t a (by rw [e]; exact hk), hv]
        · simp [cellGet, e]
      · next h1 h2 =>
        have : ¬ a = k := by simpa using h2
        simp [cellGet, this, h1, ih ht]

/-- A write of one byte leaves every other byte alone. -/
theorem cellGet_put_other (m : List Host.Cell) {a b : Nat} (v : Byte) (h : cellsWf m = true) (hab : b ≠ a) :
    cellGet (cellPut m a v) b = cellGet m b := by
  induction m with
  | nil =>
    unfold cellPut
    split
    · rfl
    · simp [cellGet, hab]
  | cons d t ih =>
    obtain ⟨k, w⟩ := d
    obtain ⟨-, hk, ht⟩ := (cellsWf_cons k w t).mp h
    unfold cellPut
    split
    · next hlt =>
      split
      · rfl
      · by_cases hb : b < a
        · have : b < k := Nat.lt_trans hb hlt
          simp [cellGet, hab, hb, this, Nat.ne_of_lt this]
        · simp [cellGet, hab, hb]
    · split
      · next e =>
        have e : a = k := by simpa using e
        subst e
        split
        · by_cases hb : b < a
          · rw [cellGet_below t b fun c hc => Nat.lt_trans hb (hk c hc)]
            simp [cellGet, hab, hb]
          · simp [cellGet, hab, hb]
        · simp [cellGet, hab]
      · by_cases hb : b = k
        · simp [cellGet, hb]
        · by_cases hl : b < k
          · simp [cellGet, hb, hl]
          · simp [cellGet, hb, hl, ih ht]

/-- A write of a byte string leaves every byte outside it alone. -/
theorem cellGet_write_other (bs : List Byte) (m : List Host.Cell) (a b : Nat) (h : cellsWf m = true)
    (hb : b < a ∨ a + bs.length ≤ b) : cellGet (cellsWrite m a bs) b = cellGet m b := by
  induction bs generalizing m a with
  | nil => rfl
  | cons v vs ih =>
    have : b ≠ a := by simp at hb; omega
    rw [cellsWrite, ih _ _ (cellPut_wf m a v h) (by simp at hb; omega), cellGet_put_other m v h this]

/-- A byte of a written string reads as it was written. -/
theorem cellGet_write_inside (bs : List Byte) (m : List Host.Cell) (a k : Nat) (h : cellsWf m = true)
    (hk : k < bs.length) : cellGet (cellsWrite m a bs) (a + k) = bs[k] := by
  induction bs generalizing m a k with
  | nil => simp at hk
  | cons v vs ih =>
    cases k with
    | zero => rw [cellsWrite, cellGet_write_other vs _ _ _ (cellPut_wf m a v h) (by omega)]; exact cellGet_put_same m a v h
    | succ k =>
      have := ih (cellPut m a v) (a + 1) k (cellPut_wf m a v h) (by simpa using hk)
      rw [cellsWrite, show a + (k + 1) = a + 1 + k by omega, this]; rfl

/-- Reading back a written string gives it. -/
theorem cellsRead_write (bs : List Byte) (m : List Host.Cell) (a : Nat) (h : cellsWf m = true) :
    cellsRead (cellsWrite m a bs) a bs.length = bs := by
  apply List.ext_getElem
  · simp [cellsRead]
  · intro k h1 h2
    simp [cellsRead, cellGet_write_inside bs m a k h h2]

/-! ## Byte order (R4) -/

theorem leNat_lt (bs : List Byte) : leNat bs < 256 ^ bs.length := by
  induction bs with
  | nil => simp [leNat]
  | cons b bs ih =>
    have := b.isLt
    simp only [leNat, List.length_cons, Nat.pow_succ]
    omega

@[simp] theorem leBytes_length (n v : Nat) : (leBytes n v).length = n := by simp [leBytes]

theorem leBytes_succ (n v : Nat) : leBytes (n + 1) v = BitVec.ofNat 8 v :: leBytes n (v / 256) := by
  apply List.ext_getElem
  · simp [leBytes]
  · intro k h1 h2
    cases k with
    | zero => simp [leBytes]
    | succ k => simp [leBytes, Nat.pow_succ, Nat.div_div_eq_div_mul, Nat.mul_comm]

/-- The number of the little-endian bytes of a number is its low bytes. -/
theorem leNat_leBytes (n v : Nat) : leNat (leBytes n v) = v % 256 ^ n := by
  induction n generalizing v with
  | zero => simp [leBytes, leNat, Nat.mod_one]
  | succ n ih =>
    rw [leBytes_succ, leNat, ih, Nat.pow_succ, Nat.mul_comm (256 ^ n), Nat.mod_mul]
    simp

end Sys2Proof.Laws
end

