-- ==== Sys2Proof/Laws/Dispatch.lean ====
section
/-! SUPPORT. Each arm of exec as an equation, so that a proof about one instruction need not unfold the dispatch. -/

namespace Sys2Proof.Laws

open Sys2Proof.Machine

@[simp] theorem exec_add d a b (s : State) : exec (.add d a b) s = execAdd d a b s := rfl
@[simp] theorem exec_sub d a b (s : State) : exec (.sub d a b) s = execSub d a b s := rfl
@[simp] theorem exec_mul d a b (s : State) : exec (.mul d a b) s = execMul d a b s := rfl
@[simp] theorem exec_mulh d a b (s : State) : exec (.mulh d a b) s = execMulh d a b s := rfl
@[simp] theorem exec_mulhu d a b (s : State) : exec (.mulhu d a b) s = execMulhu d a b s := rfl
@[simp] theorem exec_div d a b (s : State) : exec (.div d a b) s = execDiv d a b s := rfl
@[simp] theorem exec_divu d a b (s : State) : exec (.divu d a b) s = execDivu d a b s := rfl
@[simp] theorem exec_rem d a b (s : State) : exec (.rem d a b) s = execRem d a b s := rfl
@[simp] theorem exec_remu d a b (s : State) : exec (.remu d a b) s = execRemu d a b s := rfl
@[simp] theorem exec_and d a b (s : State) : exec (.and d a b) s = execAnd d a b s := rfl
@[simp] theorem exec_or d a b (s : State) : exec (.or d a b) s = execOr d a b s := rfl
@[simp] theorem exec_xor d a b (s : State) : exec (.xor d a b) s = execXor d a b s := rfl
@[simp] theorem exec_andn d a b (s : State) : exec (.andn d a b) s = execAndn d a b s := rfl
@[simp] theorem exec_shl d a b (s : State) : exec (.shl d a b) s = execShl d a b s := rfl
@[simp] theorem exec_shr d a b (s : State) : exec (.shr d a b) s = execShr d a b s := rfl
@[simp] theorem exec_sra d a b (s : State) : exec (.sra d a b) s = execSra d a b s := rfl
@[simp] theorem exec_rol d a b (s : State) : exec (.rol d a b) s = execRol d a b s := rfl
@[simp] theorem exec_min d a b (s : State) : exec (.min d a b) s = execMin d a b s := rfl
@[simp] theorem exec_max d a b (s : State) : exec (.max d a b) s = execMax d a b s := rfl
@[simp] theorem exec_minu d a b (s : State) : exec (.minu d a b) s = execMinu d a b s := rfl
@[simp] theorem exec_maxu d a b (s : State) : exec (.maxu d a b) s = execMaxu d a b s := rfl
@[simp] theorem exec_clz d a (s : State) : exec (.clz d a) s = execClz d a s := rfl
@[simp] theorem exec_ctz d a (s : State) : exec (.ctz d a) s = execCtz d a s := rfl
@[simp] theorem exec_popc d a (s : State) : exec (.popc d a) s = execPopc d a s := rfl
@[simp] theorem exec_ceq d a b (s : State) : exec (.ceq d a b) s = execCeq d a b s := rfl
@[simp] theorem exec_cne d a b (s : State) : exec (.cne d a b) s = execCne d a b s := rfl
@[simp] theorem exec_clt d a b (s : State) : exec (.clt d a b) s = execClt d a b s := rfl
@[simp] theorem exec_cle d a b (s : State) : exec (.cle d a b) s = execCle d a b s := rfl
@[simp] theorem exec_cltu d a b (s : State) : exec (.cltu d a b) s = execCltu d a b s := rfl
@[simp] theorem exec_cleu d a b (s : State) : exec (.cleu d a b) s = execCleu d a b s := rfl
@[simp] theorem exec_sel d c a b (s : State) : exec (.sel d c a b) s = execSel d c a b s := rfl
@[simp] theorem exec_fadd d a b (s : State) : exec (.fadd d a b) s = execFadd d a b s := rfl
@[simp] theorem exec_fsub d a b (s : State) : exec (.fsub d a b) s = execFsub d a b s := rfl
@[simp] theorem exec_fmul d a b (s : State) : exec (.fmul d a b) s = execFmul d a b s := rfl
@[simp] theorem exec_fdiv d a b (s : State) : exec (.fdiv d a b) s = execFdiv d a b s := rfl
@[simp] theorem exec_fsqrt d a (s : State) : exec (.fsqrt d a) s = execFsqrt d a s := rfl
@[simp] theorem exec_fmin d a b (s : State) : exec (.fmin d a b) s = execFmin d a b s := rfl
@[simp] theorem exec_fmax d a b (s : State) : exec (.fmax d a b) s = execFmax d a b s := rfl
@[simp] theorem exec_ffma d a b c (s : State) : exec (.ffma d a b c) s = execFfma d a b c s := rfl
@[simp] theorem exec_fcmp k d a b (s : State) : exec (.fcmp k d a b) s = execFcmp k d a b s := rfl
@[simp] theorem exec_fcvt t u d a (s : State) : exec (.fcvt t u d a) s = execFcvt t u d a s := rfl
@[simp] theorem exec_addi d a j (s : State) : exec (.addi d a j) s = execAddi d a j s := rfl
@[simp] theorem exec_andi d a j (s : State) : exec (.andi d a j) s = execAndi d a j s := rfl
@[simp] theorem exec_ori d a j (s : State) : exec (.ori d a j) s = execOri d a j s := rfl
@[simp] theorem exec_xori d a j (s : State) : exec (.xori d a j) s = execXori d a j s := rfl
@[simp] theorem exec_shli d a n (s : State) : exec (.shli d a n) s = execShli d a n s := rfl
@[simp] theorem exec_shri d a n (s : State) : exec (.shri d a n) s = execShri d a n s := rfl
@[simp] theorem exec_srai d a n (s : State) : exec (.srai d a n) s = execSrai d a n s := rfl
@[simp] theorem exec_li d imm (s : State) : exec (.li d imm) s = execLi d imm s := rfl
@[simp] theorem exec_liw d imm (s : State) : exec (.liw d imm) s = execLiw d imm s := rfl
@[simp] theorem exec_br o (s : State) : exec (.br o) s = execBr o s := rfl
@[simp] theorem exec_call o (s : State) : exec (.call o) s = execCall o s := rfl
@[simp] theorem exec_ret (s : State) : exec .ret s = execRet s := rfl
@[simp] theorem exec_jmpr d a (s : State) : exec (.jmpr d a) s = execJmpr d a s := rfl
@[simp] theorem exec_bz a o (s : State) : exec (.bz a o) s = execBz a o s := rfl
@[simp] theorem exec_bnz a o (s : State) : exec (.bnz a o) s = execBnz a o s := rfl
@[simp] theorem exec_beq a b o (s : State) : exec (.beq a b o) s = execBeq a b o s := rfl
@[simp] theorem exec_bne a b o (s : State) : exec (.bne a b o) s = execBne a b o s := rfl
@[simp] theorem exec_blt a b o (s : State) : exec (.blt a b o) s = execBlt a b o s := rfl
@[simp] theorem exec_bge a b o (s : State) : exec (.bge a b o) s = execBge a b o s := rfl
@[simp] theorem exec_loop a o (s : State) : exec (.loop a o) s = execLoop a o s := rfl
@[simp] theorem exec_hld h a o (s : State) : exec (.hld h a o) s = execHld h a o s := rfl
@[simp] theorem exec_hst g a o (s : State) : exec (.hst g a o) s = execHst g a o s := rfl
@[simp] theorem exec_hset f h a (s : State) : exec (.hset f h a) s = execHset f h a s := rfl
@[simp] theorem exec_hget f g d (s : State) : exec (.hget f g d) s = execHget f g d s := rfl
@[simp] theorem exec_hmov h g (s : State) : exec (.hmov h g) s = execHmov h g s := rfl
@[simp] theorem exec_hslice h g a k (s : State) : exec (.hslice h g a k) s = execHslice h g a k s := rfl
@[simp] theorem exec_hobj h n (s : State) : exec (.hobj h n) s = execHobj h n s := rfl
@[simp] theorem exec_hadv h a k (s : State) : exec (.hadv h a k) s = execHadv h a k s := rfl
@[simp] theorem exec_grank d g (s : State) : exec (.grank d g) s = execGrank d g s := rfl
@[simp] theorem exec_gsize d g (s : State) : exec (.gsize d g) s = execGsize d g s := rfl
@[simp] theorem exec_rega n (s : State) : exec (.rega n) s = execRega n s := rfl
@[simp] theorem exec_ldb d a j (s : State) : exec (.ldb d a j) s = execLdb d a j s := rfl
@[simp] theorem exec_ldh d a j (s : State) : exec (.ldh d a j) s = execLdh d a j s := rfl
@[simp] theorem exec_ldw d a j (s : State) : exec (.ldw d a j) s = execLdw d a j s := rfl
@[simp] theorem exec_ldd d a j (s : State) : exec (.ldd d a j) s = execLdd d a j s := rfl
@[simp] theorem exec_stb v a j (s : State) : exec (.stb v a j) s = execStb v a j s := rfl
@[simp] theorem exec_sth v a j (s : State) : exec (.sth v a j) s = execSth v a j s := rfl
@[simp] theorem exec_stw v a j (s : State) : exec (.stw v a j) s = execStw v a j s := rfl
@[simp] theorem exec_std v a j (s : State) : exec (.std v a j) s = execStd v a j s := rfl
@[simp] theorem exec_ldx u d a b (s : State) : exec (.ldx u d a b) s = execLdx u d a b s := rfl
@[simp] theorem exec_stx u v a b (s : State) : exec (.stx u v a b) s = execStx u v a b s := rfl
@[simp] theorem exec_aadd w o u d a b (s : State) : exec (.aadd w o u d a b) s = execAadd w o u d a b s := rfl
@[simp] theorem exec_amin w o u d a b (s : State) : exec (.amin w o u d a b) s = execAmin w o u d a b s := rfl
@[simp] theorem exec_amax w o u d a b (s : State) : exec (.amax w o u d a b) s = execAmax w o u d a b s := rfl
@[simp] theorem exec_aand w o u d a b (s : State) : exec (.aand w o u d a b) s = execAand w o u d a b s := rfl
@[simp] theorem exec_aor w o u d a b (s : State) : exec (.aor w o u d a b) s = execAor w o u d a b s := rfl
@[simp] theorem exec_axor w o u d a b (s : State) : exec (.axor w o u d a b) s = execAxor w o u d a b s := rfl
@[simp] theorem exec_aswap w o u d a b (s : State) : exec (.aswap w o u d a b) s = execAswap w o u d a b s := rfl
@[simp] theorem exec_acas w o u d a b (s : State) : exec (.acas w o u d a b) s = execAcas w o u d a b s := rfl
@[simp] theorem exec_fence k u (s : State) : exec (.fence k u) s = execFence k u s := rfl
@[simp] theorem exec_lda u z d a (s : State) : exec (.lda u z d a) s = execLda u z d a s := rfl
@[simp] theorem exec_stl u z a v (s : State) : exec (.stl u z a v) s = execStl u z a v s := rfl
@[simp] theorem exec_flushd inv a b (s : State) : exec (.flushd inv a b) s = execFlushd inv a b s := rfl
@[simp] theorem exec_llease a (s : State) : exec (.llease a) s = execLlease a s := rfl
@[simp] theorem exec_llrel a (s : State) : exec (.llrel a) s = execLlrel a s := rfl
@[simp] theorem exec_place h m (s : State) : exec (.place h m) s = execPlace h m s := rfl
@[simp] theorem exec_seal h m (s : State) : exec (.seal h m) s = execSeal h m s := rfl
@[simp] theorem exec_objq g d q (s : State) : exec (.objq g d q) s = execObjq g d q s := rfl
@[simp] theorem exec_modesw hw a b (s : State) : exec (.modesw hw a b) s = execModesw hw a b s := rfl
@[simp] theorem exec_cbld g a c (s : State) : exec (.cbld g a c) s = execCbld g a c s := rfl
@[simp] theorem exec_pst u h g j v (s : State) : exec (.pst u h g j v) s = execPst u h g j v s := rfl
@[simp] theorem exec_pld u g d j (s : State) : exec (.pld u g d j) s = execPld u g d j s := rfl
@[simp] theorem exec_patom p z g d v (s : State) : exec (.patom p z g d v) s = execPatom p z g d v s := rfl
@[simp] theorem exec_lsacq g d (s : State) : exec (.lsacq g d) s = execLsacq g d s := rfl
@[simp] theorem exec_lsrel g (s : State) : exec (.lsrel g) s = execLsrel g s := rfl
@[simp] theorem exec_binit b n (s : State) : exec (.binit b n) s = execBinit b n s := rfl
@[simp] theorem exec_barr b a (s : State) : exec (.barr b a) s = execBarr b a s := rfl
@[simp] theorem exec_bexp b a (s : State) : exec (.bexp b a) s = execBexp b a s := rfl
@[simp] theorem exec_bwait b p (s : State) : exec (.bwait b p) s = execBwait b p s := rfl
@[simp] theorem exec_btest d b (s : State) : exec (.btest d b) s = execBtest d b s := rfl
@[simp] theorem exec_gbar g (s : State) : exec (.gbar g) s = execGbar g s := rfl
@[simp] theorem exec_tkpop f (s : State) : exec (.tkpop f) s = execTkpop f s := rfl
@[simp] theorem exec_tkpush f (s : State) : exec (.tkpush f) s = execTkpush f s := rfl
@[simp] theorem exec_emit q ws (s : State) : exec (.emit q ws) s = execEmit q ws s := rfl
@[simp] theorem exec_emitr q a c (s : State) : exec (.emitr q a c) s = execEmitr q a c s := rfl
@[simp] theorem exec_qwait q n (s : State) : exec (.qwait q n) s = execQwait q n s := rfl
@[simp] theorem exec_qstat q d (s : State) : exec (.qstat q d) s = execQstat q d s := rfl
@[simp] theorem exec_tmpld e t a (s : State) : exec (.tmpld e t a) s = execTmpld e t a s := rfl
@[simp] theorem exec_tmpsw e (s : State) : exec (.tmpsw e) s = execTmpsw e s := rfl
@[simp] theorem exec_tmprd e t d a (s : State) : exec (.tmprd e t d a) s = execTmprd e t d a s := rfl
@[simp] theorem exec_pleat a b w (s : State) : exec (.pleat a b w) s = execPleat a b w s := rfl
@[simp] theorem exec_pcarry a k (s : State) : exec (.pcarry a k) s = execPcarry a k s := rfl
@[simp] theorem exec_pgret (s : State) : exec .pgret s = execPgret s := rfl
@[simp] theorem exec_pcmp a k (s : State) : exec (.pcmp a k) s = execPcmp a k s := rfl
@[simp] theorem exec_plend o (s : State) : exec (.plend o) s = execPlend o s := rfl
@[simp] theorem exec_launch a credit b (s : State) : exec (.launch a credit b) s = execLaunch a credit b s := rfl
@[simp] theorem exec_trap c (s : State) : exec (.trap c) s = execTrap c s := rfl
@[simp] theorem exec_rtt (s : State) : exec .rtt s = execRtt s := rfl
@[simp] theorem exec_safept n (s : State) : exec (.safept n) s = execSafept n s := rfl
@[simp] theorem exec_exit u (s : State) : exec (.exit u) s = execExit u s := rfl
@[simp] theorem exec_mfc d w (s : State) : exec (.mfc d w) s = execMfc d w s := rfl
@[simp] theorem exec_mtc a w (s : State) : exec (.mtc a w) s = execMtc a w s := rfl
@[simp] theorem exec_rdgtc d (s : State) : exec (.rdgtc d) s = execRdgtc d s := rfl
@[simp] theorem exec_nop (s : State) : exec .nop s = execNop s := rfl
@[simp] theorem exec_brk c (s : State) : exec (.brk c) s = execBrk c s := rfl
@[simp] theorem exec_bankroleChange who (s : State) : exec (.bankroleChange who) s = execBankroleChange who s := rfl
@[simp] theorem exec_waitCompletion who (s : State) : exec (.waitCompletion who) s = execWaitCompletion who s := rfl
@[simp] theorem exec_dirtyLineWriteback core (s : State) : exec (.dirtyLineWriteback core) s = execDirtyLineWriteback core s := rfl
@[simp] theorem exec_vectorCommand who (s : State) : exec (.vectorCommand who) s = execVectorCommand who s := rfl
@[simp] theorem exec_mma who (s : State) : exec (.mma who) s = execMma who s := rfl
@[simp] theorem exec_mmat who (s : State) : exec (.mmat who) s = execMmat who s := rfl
@[simp] theorem exec_mmab who (s : State) : exec (.mmab who) s = execMmab who s := rfl
@[simp] theorem exec_mzero who (s : State) : exec (.mzero who) s = execMzero who s := rfl
@[simp] theorem exec_mldc who (s : State) : exec (.mldc who) s = execMldc who s := rfl
@[simp] theorem exec_mstc who (s : State) : exec (.mstc who) s = execMstc who s := rfl
@[simp] theorem exec_mstcq who (s : State) : exec (.mstcq who) s = execMstcq who s := rfl
@[simp] theorem exec_mbias who (s : State) : exec (.mbias who) s = execMbias who s := rfl
@[simp] theorem exec_mswz who (s : State) : exec (.mswz who) s = execMswz who s := rfl
@[simp] theorem exec_mgath who (s : State) : exec (.mgath who) s = execMgath who s := rfl
@[simp] theorem exec_msync who (s : State) : exec (.msync who) s = execMsync who s := rfl
@[simp] theorem exec_mnop who (s : State) : exec (.mnop who) s = execMnop who s := rfl
@[simp] theorem exec_multicastFetchServe core (s : State) : exec (.multicastFetchServe core) s = execMulticastFetchServe core s := rfl
@[simp] theorem exec_multicastJoinTimeout core (s : State) : exec (.multicastJoinTimeout core) s = execMulticastJoinTimeout core s := rfl
@[simp] theorem exec_cpy who q (s : State) : exec (.cpy who q) s = execCpy who q s := rfl
@[simp] theorem exec_cpym who q (s : State) : exec (.cpym who q) s = execCpym who q s := rfl
@[simp] theorem exec_cget who q (s : State) : exec (.cget who q) s = execCget who q s := rfl
@[simp] theorem exec_cwr who q (s : State) : exec (.cwr who q) s = execCwr who q s := rfl
@[simp] theorem exec_cfill who q (s : State) : exec (.cfill who q) s = execCfill who q s := rfl
@[simp] theorem exec_cgath who q (s : State) : exec (.cgath who q) s = execCgath who q s := rfl
@[simp] theorem exec_cscat who q (s : State) : exec (.cscat who q) s = execCscat who q s := rfl
@[simp] theorem exec_cpref who q (s : State) : exec (.cpref who q) s = execCpref who q s := rfl
@[simp] theorem exec_cred who q (s : State) : exec (.cred who q) s = execCred who q s := rfl
@[simp] theorem exec_credJoinComplete team g (s : State) : exec (.credJoinComplete team g) s = execCredJoinComplete team g s := rfl
@[simp] theorem exec_cflag who q (s : State) : exec (.cflag who q) s = execCflag who q s := rfl
@[simp] theorem exec_catom who q (s : State) : exec (.catom who q) s = execCatom who q s := rfl
@[simp] theorem exec_csum who q (s : State) : exec (.csum who q) s = execCsum who q s := rfl
@[simp] theorem exec_csync who q (s : State) : exec (.csync who q) s = execCsync who q s := rfl
@[simp] theorem exec_copyRowLanding who q answer (s : State) : exec (.copyRowLanding who q answer) s = execCopyRowLanding who q answer s := rfl
@[simp] theorem exec_nsend who (s : State) : exec (.nsend who) s = execNsend who s := rfl
@[simp] theorem exec_nrecv who (s : State) : exec (.nrecv who) s = execNrecv who s := rfl
@[simp] theorem exec_nwrite who (s : State) : exec (.nwrite who) s = execNwrite who s := rfl
@[simp] theorem exec_ncnt who (s : State) : exec (.ncnt who) s = execNcnt who s := rfl
@[simp] theorem exec_xconv who (s : State) : exec (.xconv who) s = execXconv who s := rfl
@[simp] theorem exec_xrslot who (s : State) : exec (.xrslot who) s = execXrslot who s := rfl
@[simp] theorem exec_xrcont who (s : State) : exec (.xrcont who) s = execXrcont who s := rfl
@[simp] theorem exec_engineCommandCompletion who q (s : State) : exec (.engineCommandCompletion who q) s = execEngineCommandCompletion who q s := rfl
@[simp] theorem exec_pleatWindowStart team (s : State) : exec (.pleatWindowStart team) s = execPleatWindowStart team s := rfl
@[simp] theorem exec_pleatWindowCommit team (s : State) : exec (.pleatWindowCommit team) s = execPleatWindowCommit team s := rfl
@[simp] theorem exec_launchRingRecord slot (s : State) : exec (.launchRingRecord slot) s = execLaunchRingRecord slot s := rfl
@[simp] theorem exec_launchReady launch (s : State) : exec (.launchReady launch) s = execLaunchReady launch s := rfl
@[simp] theorem exec_teamPlacement (s : State) : exec .teamPlacement s = execTeamPlacement s := rfl
@[simp] theorem exec_quantumExpiry team (s : State) : exec (.quantumExpiry team) s = execQuantumExpiry team s := rfl
@[simp] theorem exec_safetoBudgetExpiry who (s : State) : exec (.safetoBudgetExpiry who) s = execSafetoBudgetExpiry who s := rfl
@[simp] theorem exec_preemptEndMember who (s : State) : exec (.preemptEndMember who) s = execPreemptEndMember who s := rfl
@[simp] theorem exec_swapQuiesce team (s : State) : exec (.swapQuiesce team) s = execSwapQuiesce team s := rfl
@[simp] theorem exec_seamRecordWrite team (s : State) : exec (.seamRecordWrite team) s = execSeamRecordWrite team s := rfl
@[simp] theorem exec_swapAbandon team (s : State) : exec (.swapAbandon team) s = execSwapAbandon team s := rfl
@[simp] theorem exec_launchCompletion launch (s : State) : exec (.launchCompletion launch) s = execLaunchCompletion launch s := rfl
@[simp] theorem exec_completionEntryWrite slot (s : State) : exec (.completionEntryWrite slot) s = execCompletionEntryWrite slot s := rfl
@[simp] theorem exec_hangDetection who (s : State) : exec (.hangDetection who) s = execHangDetection who s := rfl
@[simp] theorem exec_lineLeaseGrant who (s : State) : exec (.lineLeaseGrant who) s = execLineLeaseGrant who s := rfl
@[simp] theorem exec_lineLeaseExpiry who (s : State) : exec (.lineLeaseExpiry who) s = execLineLeaseExpiry who s := rfl
@[simp] theorem exec_poolLeaseLapse poolid (s : State) : exec (.poolLeaseLapse poolid) s = execPoolLeaseLapse poolid s := rfl
@[simp] theorem exec_replayRetry req (s : State) : exec (.replayRetry req) s = execReplayRetry req s := rfl
@[simp] theorem exec_remoteAnswer req answer (s : State) : exec (.remoteAnswer req answer) s = execRemoteAnswer req answer s := rfl
@[simp] theorem exec_poolCacheFill poolid page answer (s : State) : exec (.poolCacheFill poolid page answer) s = execPoolCacheFill poolid page answer s := rfl
@[simp] theorem exec_prefetchPageAnswer poolid page answer (s : State) : exec (.prefetchPageAnswer poolid page answer) s = execPrefetchPageAnswer poolid page answer s := rfl
@[simp] theorem exec_remoteWriteRequest m (s : State) : exec (.remoteWriteRequest m) s = execRemoteWriteRequest m s := rfl
@[simp] theorem exec_remoteReadRequest m (s : State) : exec (.remoteReadRequest m) s = execRemoteReadRequest m s := rfl
@[simp] theorem exec_remoteAtomicRequest m (s : State) : exec (.remoteAtomicRequest m) s = execRemoteAtomicRequest m s := rfl
@[simp] theorem exec_leaseRequest src base term (s : State) : exec (.leaseRequest src base term) s = execLeaseRequest src base term s := rfl
@[simp] theorem exec_leaseRelease src base (s : State) : exec (.leaseRelease src base) s = execLeaseRelease src base s := rfl
@[simp] theorem exec_relayRequest dst page count (s : State) : exec (.relayRequest dst page count) s = execRelayRequest dst page count s := rfl
@[simp] theorem exec_convSealMessage m member target (s : State) : exec (.convSealMessage m member target) s = execConvSealMessage m member target s := rfl
@[simp] theorem exec_convStartMessage m target method (s : State) : exec (.convStartMessage m target method) s = execConvStartMessage m target method s := rfl
@[simp] theorem exec_convChunkWrite m first data (s : State) : exec (.convChunkWrite m first data) s = execConvChunkWrite m first data s := rfl
@[simp] theorem exec_convDoneMessage m nan (s : State) : exec (.convDoneMessage m nan) s = execConvDoneMessage m nan s := rfl
@[simp] theorem exec_convAbortMessage m missing (s : State) : exec (.convAbortMessage m missing) s = execConvAbortMessage m missing s := rfl
@[simp] theorem exec_convNodomain m member ours (s : State) : exec (.convNodomain m member ours) s = execConvNodomain m member ours s := rfl
@[simp] theorem exec_convChunkTimeout key missing (s : State) : exec (.convChunkTimeout key missing) s = execConvChunkTimeout key missing s := rfl
@[simp] theorem exec_slotGrant req name (s : State) : exec (.slotGrant req name) s = execSlotGrant req name s := rfl
@[simp] theorem exec_slotResult req data nan (s : State) : exec (.slotResult req data nan) s = execSlotResult req data nan s := rfl
@[simp] theorem exec_slotTimeout req missing (s : State) : exec (.slotTimeout req missing) s = execSlotTimeout req missing s := rfl
@[simp] theorem exec_slotExpired req (s : State) : exec (.slotExpired req) s = execSlotExpired req s := rfl
@[simp] theorem exec_slotUnknown req (s : State) : exec (.slotUnknown req) s = execSlotUnknown req s := rfl
@[simp] theorem exec_identityFlit u id (s : State) : exec (.identityFlit u id) s = execIdentityFlit u id s := rfl
@[simp] theorem exec_trainTestTimeout u (s : State) : exec (.trainTestTimeout u) s = execTrainTestTimeout u s := rfl
@[simp] theorem exec_linkRetrain u (s : State) : exec (.linkRetrain u) s = execLinkRetrain u s := rfl
@[simp] theorem exec_ringHandover u (s : State) : exec (.ringHandover u) s = execRingHandover u s := rfl
@[simp] theorem exec_ringLockTimeout u (s : State) : exec (.ringLockTimeout u) s = execRingLockTimeout u s := rfl
@[simp] theorem exec_authfail u (s : State) : exec (.authfail u) s = execAuthfail u s := rfl
@[simp] theorem exec_keyExhaustion u (s : State) : exec (.keyExhaustion u) s = execKeyExhaustion u s := rfl
@[simp] theorem exec_keywaitExpiry u (s : State) : exec (.keywaitExpiry u) s = execKeywaitExpiry u s := rfl
@[simp] theorem exec_qdone u (s : State) : exec (.qdone u) s = execQdone u s := rfl
@[simp] theorem exec_quiesceTimeout u (s : State) : exec (.quiesceTimeout u) s = execQuiesceTimeout u s := rfl
@[simp] theorem exec_stctlEn u on (s : State) : exec (.stctlEn u on) s = execStctlEn u on s := rfl
@[simp] theorem exec_stctlQuiesce u on (s : State) : exec (.stctlQuiesce u on) s = execStctlQuiesce u on s := rfl
@[simp] theorem exec_stctlUp u (s : State) : exec (.stctlUp u) s = execStctlUp u s := rfl
@[simp] theorem exec_keyctlLdtx u (s : State) : exec (.keyctlLdtx u) s = execKeyctlLdtx u s := rfl
@[simp] theorem exec_keyctlLdrx u (s : State) : exec (.keyctlLdrx u) s = execKeyctlLdrx u s := rfl
@[simp] theorem exec_launchEndpointWrite slot p data (s : State) : exec (.launchEndpointWrite slot p data) s = execLaunchEndpointWrite slot p data s := rfl
@[simp] theorem exec_taggedMessageArrival ep packet (s : State) : exec (.taggedMessageArrival ep packet) s = execTaggedMessageArrival ep packet s := rfl
@[simp] theorem exec_nwriteArrival ep key raddr p (s : State) : exec (.nwriteArrival ep key raddr p) s = execNwriteArrival ep key raddr p s := rfl
@[simp] theorem exec_ethernetAck cmd packets refused (s : State) : exec (.ethernetAck cmd packets refused) s = execEthernetAck cmd packets refused s := rfl
@[simp] theorem exec_retransmitTimeout cmd packet (s : State) : exec (.retransmitTimeout cmd packet) s = execRetransmitTimeout cmd packet s := rfl
@[simp] theorem exec_tinv v (s : State) : exec (.tinv v) s = execTinv v s := rfl
@[simp] theorem exec_tlbInvalidationComplete (s : State) : exec .tlbInvalidationComplete s = execTlbInvalidationComplete s := rfl
@[simp] theorem exec_dctlHreq core mask (s : State) : exec (.dctlHreq core mask) s = execDctlHreq core mask s := rfl
@[simp] theorem exec_dctlResume core mask (s : State) : exec (.dctlResume core mask) s = execDctlResume core mask s := rfl
@[simp] theorem exec_dctlStep core mask (s : State) : exec (.dctlStep core mask) s = execDctlStep core mask s := rfl
@[simp] theorem exec_ddata core write (s : State) : exec (.ddata core write) s = execDdata core write s := rfl
@[simp] theorem exec_pkghlt on (s : State) : exec (.pkghlt on) s = execPkghlt on s := rfl
@[simp] theorem exec_pcsizeWrite v (s : State) : exec (.pcsizeWrite v) s = execPcsizeWrite v s := rfl
@[simp] theorem exec_elogack v (s : State) : exec (.elogack v) s = execElogack v s := rfl
@[simp] theorem exec_mgmtRegisterWrite off v (s : State) : exec (.mgmtRegisterWrite off v) s = execMgmtRegisterWrite off v s := rfl
@[simp] theorem exec_sidebandDatagram seq accesses tag (s : State) : exec (.sidebandDatagram seq accesses tag) s = execSidebandDatagram seq accesses tag s := rfl
@[simp] theorem exec_attestationRequest nonce (s : State) : exec (.attestationRequest nonce) s = execAttestationRequest nonce s := rfl
@[simp] theorem exec_powerEvaluation r (s : State) : exec (.powerEvaluation r) s = execPowerEvaluation r s := rfl
@[simp] theorem exec_currentSurge current (s : State) : exec (.currentSurge current) s = execCurrentSurge current s := rfl
@[simp] theorem exec_thermalTrip eighths (s : State) : exec (.thermalTrip eighths) s = execThermalTrip eighths s := rfl
@[simp] theorem exec_gtclost (s : State) : exec .gtclost s = execGtclost s := rfl
@[simp] theorem exec_corrected device count (s : State) : exec (.corrected device count) s = execCorrected device count s := rfl
@[simp] theorem exec_patrolScrub granule bad (s : State) : exec (.patrolScrub granule bad) s = execPatrolScrub granule bad s := rfl
@[simp] theorem exec_powerOnBoot facts (s : State) : exec (.powerOnBoot facts) s = execPowerOnBoot facts s := rfl
@[simp] theorem exec_trainTestRunPass u (s : State) : exec (.trainTestRunPass u) s = execTrainTestRunPass u s := rfl
@[simp] theorem exec_keylow u (s : State) : exec (.keylow u) s = execKeylow u s := rfl
@[simp] theorem exec_gtcSyncReturn (s : State) : exec .gtcSyncReturn s = execGtcSyncReturn s := rfl
@[simp] theorem exec_ethernetLinkState up (s : State) : exec (.ethernetLinkState up) s = execEthernetLinkState up s := rfl

end Sys2Proof.Laws
end

