-- ==== Sys2Proof/Laws/State.lean ====
section
/-! SUPPORT. What each update of the state leaves alone, field by field, and what the accessors read after an
update. -/

namespace Sys2Proof.Laws

open Sys2Proof.Machine

/-! ## Fields that an update leaves alone -/

@[simp] theorem setCore_dies (s : State) (c : CoreId) (x : Core) : (s.setCore c x).dies = s.dies := rfl
@[simp] theorem setCore_mem (s : State) (c : CoreId) (x : Core) : (s.setCore c x).mem = s.mem := rfl
@[simp] theorem setCore_poison (s : State) (c : CoreId) (x : Core) : (s.setCore c x).poison = s.poison := rfl
@[simp] theorem setCore_worn (s : State) (c : CoreId) (x : Core) : (s.setCore c x).worn = s.worn := rfl
@[simp] theorem setCore_plain (s : State) (c : CoreId) (x : Core) : (s.setCore c x).plain = s.plain := rfl
@[simp] theorem setCore_hides (s : State) (c : CoreId) (x : Core) : (s.setCore c x).hides = s.hides := rfl
@[simp] theorem setCore_swPages (s : State) (c : CoreId) (x : Core) : (s.setCore c x).swPages = s.swPages := rfl
@[simp] theorem setCore_dirty (s : State) (c : CoreId) (x : Core) : (s.setCore c x).dirty = s.dirty := rfl
@[simp] theorem setCore_lineq (s : State) (c : CoreId) (x : Core) : (s.setCore c x).lineq = s.lineq := rfl
@[simp] theorem setCore_tlb (s : State) (c : CoreId) (x : Core) : (s.setCore c x).tlb = s.tlb := rfl
@[simp] theorem setCore_fused (s : State) (c : CoreId) (x : Core) : (s.setCore c x).fused = s.fused := rfl
@[simp] theorem setCore_gtc (s : State) (c : CoreId) (x : Core) : (s.setCore c x).gtc = s.gtc := rfl
@[simp] theorem setCore_slots (s : State) (c : CoreId) (x : Core) : (s.setCore c x).slots = s.slots := rfl
@[simp] theorem setCore_launches (s : State) (c : CoreId) (x : Core) : (s.setCore c x).launches = s.launches := rfl
@[simp] theorem setCore_teams (s : State) (c : CoreId) (x : Core) : (s.setCore c x).teams = s.teams := rfl
@[simp] theorem setCore_nextId (s : State) (c : CoreId) (x : Core) : (s.setCore c x).nextId = s.nextId := rfl
@[simp] theorem setCore_lastSlot (s : State) (c : CoreId) (x : Core) : (s.setCore c x).lastSlot = s.lastSlot := rfl
@[simp] theorem setCore_cache (s : State) (c : CoreId) (x : Core) : (s.setCore c x).cache = s.cache := rfl
@[simp] theorem setCore_prefetch (s : State) (c : CoreId) (x : Core) : (s.setCore c x).prefetch = s.prefetch := rfl
@[simp] theorem setCore_holds (s : State) (c : CoreId) (x : Core) : (s.setCore c x).holds = s.holds := rfl
@[simp] theorem setCore_leases (s : State) (c : CoreId) (x : Core) : (s.setCore c x).leases = s.leases := rfl
@[simp] theorem setCore_reqs (s : State) (c : CoreId) (x : Core) : (s.setCore c x).reqs = s.reqs := rfl
@[simp] theorem setCore_loads (s : State) (c : CoreId) (x : Core) : (s.setCore c x).loads = s.loads := rfl
@[simp] theorem setCore_homes (s : State) (c : CoreId) (x : Core) : (s.setCore c x).homes = s.homes := rfl
@[simp] theorem setCore_convs (s : State) (c : CoreId) (x : Core) : (s.setCore c x).convs = s.convs := rfl
@[simp] theorem setCore_stations (s : State) (c : CoreId) (x : Core) : (s.setCore c x).stations = s.stations := rfl
@[simp] theorem setCore_ether (s : State) (c : CoreId) (x : Core) : (s.setCore c x).ether = s.ether := rfl
@[simp] theorem setCore_mgmt (s : State) (c : CoreId) (x : Core) : (s.setCore c x).mgmt = s.mgmt := rfl
@[simp] theorem setCore_relays (s : State) (c : CoreId) (x : Core) : (s.setCore c x).relays = s.relays := rfl
@[simp] theorem setCore_inbox (s : State) (c : CoreId) (x : Core) : (s.setCore c x).inbox = s.inbox := rfl
@[simp] theorem setCore_outbox (s : State) (c : CoreId) (x : Core) : (s.setCore c x).outbox = s.outbox := rfl
@[simp] theorem setCore_agenda (s : State) (c : CoreId) (x : Core) : (s.setCore c x).agenda = s.agenda := rfl
@[simp] theorem setCore_who (s : State) (c : CoreId) (x : Core) : (s.setCore c x).who = s.who := rfl
@[simp] theorem setCore_cycle (s : State) (c : CoreId) (x : Core) : (s.setCore c x).cycle = s.cycle := rfl
@[simp] theorem setCore_fresh (s : State) (c : CoreId) (x : Core) : (s.setCore c x).fresh = s.fresh := rfl

@[simp] theorem modCore_dies (s : State) (c : CoreId) (f : Core → Core) : (s.modCore c f).dies = s.dies := rfl
@[simp] theorem modCore_mem (s : State) (c : CoreId) (f : Core → Core) : (s.modCore c f).mem = s.mem := rfl
@[simp] theorem modCore_poison (s : State) (c : CoreId) (f : Core → Core) : (s.modCore c f).poison = s.poison := rfl
@[simp] theorem modCore_worn (s : State) (c : CoreId) (f : Core → Core) : (s.modCore c f).worn = s.worn := rfl
@[simp] theorem modCore_plain (s : State) (c : CoreId) (f : Core → Core) : (s.modCore c f).plain = s.plain := rfl
@[simp] theorem modCore_hides (s : State) (c : CoreId) (f : Core → Core) : (s.modCore c f).hides = s.hides := rfl
@[simp] theorem modCore_swPages (s : State) (c : CoreId) (f : Core → Core) : (s.modCore c f).swPages = s.swPages := rfl
@[simp] theorem modCore_dirty (s : State) (c : CoreId) (f : Core → Core) : (s.modCore c f).dirty = s.dirty := rfl
@[simp] theorem modCore_lineq (s : State) (c : CoreId) (f : Core → Core) : (s.modCore c f).lineq = s.lineq := rfl
@[simp] theorem modCore_tlb (s : State) (c : CoreId) (f : Core → Core) : (s.modCore c f).tlb = s.tlb := rfl
@[simp] theorem modCore_fused (s : State) (c : CoreId) (f : Core → Core) : (s.modCore c f).fused = s.fused := rfl
@[simp] theorem modCore_gtc (s : State) (c : CoreId) (f : Core → Core) : (s.modCore c f).gtc = s.gtc := rfl
@[simp] theorem modCore_slots (s : State) (c : CoreId) (f : Core → Core) : (s.modCore c f).slots = s.slots := rfl
@[simp] theorem modCore_launches (s : State) (c : CoreId) (f : Core → Core) : (s.modCore c f).launches = s.launches := rfl
@[simp] theorem modCore_teams (s : State) (c : CoreId) (f : Core → Core) : (s.modCore c f).teams = s.teams := rfl
@[simp] theorem modCore_nextId (s : State) (c : CoreId) (f : Core → Core) : (s.modCore c f).nextId = s.nextId := rfl
@[simp] theorem modCore_lastSlot (s : State) (c : CoreId) (f : Core → Core) : (s.modCore c f).lastSlot = s.lastSlot := rfl
@[simp] theorem modCore_cache (s : State) (c : CoreId) (f : Core → Core) : (s.modCore c f).cache = s.cache := rfl
@[simp] theorem modCore_prefetch (s : State) (c : CoreId) (f : Core → Core) : (s.modCore c f).prefetch = s.prefetch := rfl
@[simp] theorem modCore_holds (s : State) (c : CoreId) (f : Core → Core) : (s.modCore c f).holds = s.holds := rfl
@[simp] theorem modCore_leases (s : State) (c : CoreId) (f : Core → Core) : (s.modCore c f).leases = s.leases := rfl
@[simp] theorem modCore_reqs (s : State) (c : CoreId) (f : Core → Core) : (s.modCore c f).reqs = s.reqs := rfl
@[simp] theorem modCore_loads (s : State) (c : CoreId) (f : Core → Core) : (s.modCore c f).loads = s.loads := rfl
@[simp] theorem modCore_homes (s : State) (c : CoreId) (f : Core → Core) : (s.modCore c f).homes = s.homes := rfl
@[simp] theorem modCore_convs (s : State) (c : CoreId) (f : Core → Core) : (s.modCore c f).convs = s.convs := rfl
@[simp] theorem modCore_stations (s : State) (c : CoreId) (f : Core → Core) : (s.modCore c f).stations = s.stations := rfl
@[simp] theorem modCore_ether (s : State) (c : CoreId) (f : Core → Core) : (s.modCore c f).ether = s.ether := rfl
@[simp] theorem modCore_mgmt (s : State) (c : CoreId) (f : Core → Core) : (s.modCore c f).mgmt = s.mgmt := rfl
@[simp] theorem modCore_relays (s : State) (c : CoreId) (f : Core → Core) : (s.modCore c f).relays = s.relays := rfl
@[simp] theorem modCore_inbox (s : State) (c : CoreId) (f : Core → Core) : (s.modCore c f).inbox = s.inbox := rfl
@[simp] theorem modCore_outbox (s : State) (c : CoreId) (f : Core → Core) : (s.modCore c f).outbox = s.outbox := rfl
@[simp] theorem modCore_agenda (s : State) (c : CoreId) (f : Core → Core) : (s.modCore c f).agenda = s.agenda := rfl
@[simp] theorem modCore_who (s : State) (c : CoreId) (f : Core → Core) : (s.modCore c f).who = s.who := rfl
@[simp] theorem modCore_cycle (s : State) (c : CoreId) (f : Core → Core) : (s.modCore c f).cycle = s.cycle := rfl
@[simp] theorem modCore_fresh (s : State) (c : CoreId) (f : Core → Core) : (s.modCore c f).fresh = s.fresh := rfl

@[simp] theorem setCtx_dies (s : State) (w : Who) (x : Ctx) : (s.setCtx w x).dies = s.dies := rfl
@[simp] theorem setCtx_mem (s : State) (w : Who) (x : Ctx) : (s.setCtx w x).mem = s.mem := rfl
@[simp] theorem setCtx_poison (s : State) (w : Who) (x : Ctx) : (s.setCtx w x).poison = s.poison := rfl
@[simp] theorem setCtx_worn (s : State) (w : Who) (x : Ctx) : (s.setCtx w x).worn = s.worn := rfl
@[simp] theorem setCtx_plain (s : State) (w : Who) (x : Ctx) : (s.setCtx w x).plain = s.plain := rfl
@[simp] theorem setCtx_hides (s : State) (w : Who) (x : Ctx) : (s.setCtx w x).hides = s.hides := rfl
@[simp] theorem setCtx_swPages (s : State) (w : Who) (x : Ctx) : (s.setCtx w x).swPages = s.swPages := rfl
@[simp] theorem setCtx_dirty (s : State) (w : Who) (x : Ctx) : (s.setCtx w x).dirty = s.dirty := rfl
@[simp] theorem setCtx_lineq (s : State) (w : Who) (x : Ctx) : (s.setCtx w x).lineq = s.lineq := rfl
@[simp] theorem setCtx_tlb (s : State) (w : Who) (x : Ctx) : (s.setCtx w x).tlb = s.tlb := rfl
@[simp] theorem setCtx_fused (s : State) (w : Who) (x : Ctx) : (s.setCtx w x).fused = s.fused := rfl
@[simp] theorem setCtx_gtc (s : State) (w : Who) (x : Ctx) : (s.setCtx w x).gtc = s.gtc := rfl
@[simp] theorem setCtx_slots (s : State) (w : Who) (x : Ctx) : (s.setCtx w x).slots = s.slots := rfl
@[simp] theorem setCtx_launches (s : State) (w : Who) (x : Ctx) : (s.setCtx w x).launches = s.launches := rfl
@[simp] theorem setCtx_teams (s : State) (w : Who) (x : Ctx) : (s.setCtx w x).teams = s.teams := rfl
@[simp] theorem setCtx_nextId (s : State) (w : Who) (x : Ctx) : (s.setCtx w x).nextId = s.nextId := rfl
@[simp] theorem setCtx_lastSlot (s : State) (w : Who) (x : Ctx) : (s.setCtx w x).lastSlot = s.lastSlot := rfl
@[simp] theorem setCtx_cache (s : State) (w : Who) (x : Ctx) : (s.setCtx w x).cache = s.cache := rfl
@[simp] theorem setCtx_prefetch (s : State) (w : Who) (x : Ctx) : (s.setCtx w x).prefetch = s.prefetch := rfl
@[simp] theorem setCtx_holds (s : State) (w : Who) (x : Ctx) : (s.setCtx w x).holds = s.holds := rfl
@[simp] theorem setCtx_leases (s : State) (w : Who) (x : Ctx) : (s.setCtx w x).leases = s.leases := rfl
@[simp] theorem setCtx_reqs (s : State) (w : Who) (x : Ctx) : (s.setCtx w x).reqs = s.reqs := rfl
@[simp] theorem setCtx_loads (s : State) (w : Who) (x : Ctx) : (s.setCtx w x).loads = s.loads := rfl
@[simp] theorem setCtx_homes (s : State) (w : Who) (x : Ctx) : (s.setCtx w x).homes = s.homes := rfl
@[simp] theorem setCtx_convs (s : State) (w : Who) (x : Ctx) : (s.setCtx w x).convs = s.convs := rfl
@[simp] theorem setCtx_stations (s : State) (w : Who) (x : Ctx) : (s.setCtx w x).stations = s.stations := rfl
@[simp] theorem setCtx_ether (s : State) (w : Who) (x : Ctx) : (s.setCtx w x).ether = s.ether := rfl
@[simp] theorem setCtx_mgmt (s : State) (w : Who) (x : Ctx) : (s.setCtx w x).mgmt = s.mgmt := rfl
@[simp] theorem setCtx_relays (s : State) (w : Who) (x : Ctx) : (s.setCtx w x).relays = s.relays := rfl
@[simp] theorem setCtx_inbox (s : State) (w : Who) (x : Ctx) : (s.setCtx w x).inbox = s.inbox := rfl
@[simp] theorem setCtx_outbox (s : State) (w : Who) (x : Ctx) : (s.setCtx w x).outbox = s.outbox := rfl
@[simp] theorem setCtx_agenda (s : State) (w : Who) (x : Ctx) : (s.setCtx w x).agenda = s.agenda := rfl
@[simp] theorem setCtx_who (s : State) (w : Who) (x : Ctx) : (s.setCtx w x).who = s.who := rfl
@[simp] theorem setCtx_cycle (s : State) (w : Who) (x : Ctx) : (s.setCtx w x).cycle = s.cycle := rfl
@[simp] theorem setCtx_fresh (s : State) (w : Who) (x : Ctx) : (s.setCtx w x).fresh = s.fresh := rfl

@[simp] theorem modCtx_dies (s : State) (w : Who) (f : Ctx → Ctx) : (s.modCtx w f).dies = s.dies := rfl
@[simp] theorem modCtx_mem (s : State) (w : Who) (f : Ctx → Ctx) : (s.modCtx w f).mem = s.mem := rfl
@[simp] theorem modCtx_poison (s : State) (w : Who) (f : Ctx → Ctx) : (s.modCtx w f).poison = s.poison := rfl
@[simp] theorem modCtx_worn (s : State) (w : Who) (f : Ctx → Ctx) : (s.modCtx w f).worn = s.worn := rfl
@[simp] theorem modCtx_plain (s : State) (w : Who) (f : Ctx → Ctx) : (s.modCtx w f).plain = s.plain := rfl
@[simp] theorem modCtx_hides (s : State) (w : Who) (f : Ctx → Ctx) : (s.modCtx w f).hides = s.hides := rfl
@[simp] theorem modCtx_swPages (s : State) (w : Who) (f : Ctx → Ctx) : (s.modCtx w f).swPages = s.swPages := rfl
@[simp] theorem modCtx_dirty (s : State) (w : Who) (f : Ctx → Ctx) : (s.modCtx w f).dirty = s.dirty := rfl
@[simp] theorem modCtx_lineq (s : State) (w : Who) (f : Ctx → Ctx) : (s.modCtx w f).lineq = s.lineq := rfl
@[simp] theorem modCtx_tlb (s : State) (w : Who) (f : Ctx → Ctx) : (s.modCtx w f).tlb = s.tlb := rfl
@[simp] theorem modCtx_fused (s : State) (w : Who) (f : Ctx → Ctx) : (s.modCtx w f).fused = s.fused := rfl
@[simp] theorem modCtx_gtc (s : State) (w : Who) (f : Ctx → Ctx) : (s.modCtx w f).gtc = s.gtc := rfl
@[simp] theorem modCtx_slots (s : State) (w : Who) (f : Ctx → Ctx) : (s.modCtx w f).slots = s.slots := rfl
@[simp] theorem modCtx_launches (s : State) (w : Who) (f : Ctx → Ctx) : (s.modCtx w f).launches = s.launches := rfl
@[simp] theorem modCtx_teams (s : State) (w : Who) (f : Ctx → Ctx) : (s.modCtx w f).teams = s.teams := rfl
@[simp] theorem modCtx_nextId (s : State) (w : Who) (f : Ctx → Ctx) : (s.modCtx w f).nextId = s.nextId := rfl
@[simp] theorem modCtx_lastSlot (s : State) (w : Who) (f : Ctx → Ctx) : (s.modCtx w f).lastSlot = s.lastSlot := rfl
@[simp] theorem modCtx_cache (s : State) (w : Who) (f : Ctx → Ctx) : (s.modCtx w f).cache = s.cache := rfl
@[simp] theorem modCtx_prefetch (s : State) (w : Who) (f : Ctx → Ctx) : (s.modCtx w f).prefetch = s.prefetch := rfl
@[simp] theorem modCtx_holds (s : State) (w : Who) (f : Ctx → Ctx) : (s.modCtx w f).holds = s.holds := rfl
@[simp] theorem modCtx_leases (s : State) (w : Who) (f : Ctx → Ctx) : (s.modCtx w f).leases = s.leases := rfl
@[simp] theorem modCtx_reqs (s : State) (w : Who) (f : Ctx → Ctx) : (s.modCtx w f).reqs = s.reqs := rfl
@[simp] theorem modCtx_loads (s : State) (w : Who) (f : Ctx → Ctx) : (s.modCtx w f).loads = s.loads := rfl
@[simp] theorem modCtx_homes (s : State) (w : Who) (f : Ctx → Ctx) : (s.modCtx w f).homes = s.homes := rfl
@[simp] theorem modCtx_convs (s : State) (w : Who) (f : Ctx → Ctx) : (s.modCtx w f).convs = s.convs := rfl
@[simp] theorem modCtx_stations (s : State) (w : Who) (f : Ctx → Ctx) : (s.modCtx w f).stations = s.stations := rfl
@[simp] theorem modCtx_ether (s : State) (w : Who) (f : Ctx → Ctx) : (s.modCtx w f).ether = s.ether := rfl
@[simp] theorem modCtx_mgmt (s : State) (w : Who) (f : Ctx → Ctx) : (s.modCtx w f).mgmt = s.mgmt := rfl
@[simp] theorem modCtx_relays (s : State) (w : Who) (f : Ctx → Ctx) : (s.modCtx w f).relays = s.relays := rfl
@[simp] theorem modCtx_inbox (s : State) (w : Who) (f : Ctx → Ctx) : (s.modCtx w f).inbox = s.inbox := rfl
@[simp] theorem modCtx_outbox (s : State) (w : Who) (f : Ctx → Ctx) : (s.modCtx w f).outbox = s.outbox := rfl
@[simp] theorem modCtx_agenda (s : State) (w : Who) (f : Ctx → Ctx) : (s.modCtx w f).agenda = s.agenda := rfl
@[simp] theorem modCtx_who (s : State) (w : Who) (f : Ctx → Ctx) : (s.modCtx w f).who = s.who := rfl
@[simp] theorem modCtx_cycle (s : State) (w : Who) (f : Ctx → Ctx) : (s.modCtx w f).cycle = s.cycle := rfl
@[simp] theorem modCtx_fresh (s : State) (w : Who) (f : Ctx → Ctx) : (s.modCtx w f).fresh = s.fresh := rfl

@[simp] theorem retire_dies (s : State) (x : Ctx) (n : Nat) : (s.retire x n).dies = s.dies := rfl
@[simp] theorem retire_mem (s : State) (x : Ctx) (n : Nat) : (s.retire x n).mem = s.mem := rfl
@[simp] theorem retire_poison (s : State) (x : Ctx) (n : Nat) : (s.retire x n).poison = s.poison := rfl
@[simp] theorem retire_worn (s : State) (x : Ctx) (n : Nat) : (s.retire x n).worn = s.worn := rfl
@[simp] theorem retire_plain (s : State) (x : Ctx) (n : Nat) : (s.retire x n).plain = s.plain := rfl
@[simp] theorem retire_hides (s : State) (x : Ctx) (n : Nat) : (s.retire x n).hides = s.hides := rfl
@[simp] theorem retire_swPages (s : State) (x : Ctx) (n : Nat) : (s.retire x n).swPages = s.swPages := rfl
@[simp] theorem retire_dirty (s : State) (x : Ctx) (n : Nat) : (s.retire x n).dirty = s.dirty := rfl
@[simp] theorem retire_lineq (s : State) (x : Ctx) (n : Nat) : (s.retire x n).lineq = s.lineq := rfl
@[simp] theorem retire_tlb (s : State) (x : Ctx) (n : Nat) : (s.retire x n).tlb = s.tlb := rfl
@[simp] theorem retire_fused (s : State) (x : Ctx) (n : Nat) : (s.retire x n).fused = s.fused := rfl
@[simp] theorem retire_gtc (s : State) (x : Ctx) (n : Nat) : (s.retire x n).gtc = s.gtc := rfl
@[simp] theorem retire_slots (s : State) (x : Ctx) (n : Nat) : (s.retire x n).slots = s.slots := rfl
@[simp] theorem retire_launches (s : State) (x : Ctx) (n : Nat) : (s.retire x n).launches = s.launches := rfl
@[simp] theorem retire_teams (s : State) (x : Ctx) (n : Nat) : (s.retire x n).teams = s.teams := rfl
@[simp] theorem retire_nextId (s : State) (x : Ctx) (n : Nat) : (s.retire x n).nextId = s.nextId := rfl
@[simp] theorem retire_lastSlot (s : State) (x : Ctx) (n : Nat) : (s.retire x n).lastSlot = s.lastSlot := rfl
@[simp] theorem retire_cache (s : State) (x : Ctx) (n : Nat) : (s.retire x n).cache = s.cache := rfl
@[simp] theorem retire_prefetch (s : State) (x : Ctx) (n : Nat) : (s.retire x n).prefetch = s.prefetch := rfl
@[simp] theorem retire_holds (s : State) (x : Ctx) (n : Nat) : (s.retire x n).holds = s.holds := rfl
@[simp] theorem retire_leases (s : State) (x : Ctx) (n : Nat) : (s.retire x n).leases = s.leases := rfl
@[simp] theorem retire_reqs (s : State) (x : Ctx) (n : Nat) : (s.retire x n).reqs = s.reqs := rfl
@[simp] theorem retire_loads (s : State) (x : Ctx) (n : Nat) : (s.retire x n).loads = s.loads := rfl
@[simp] theorem retire_homes (s : State) (x : Ctx) (n : Nat) : (s.retire x n).homes = s.homes := rfl
@[simp] theorem retire_convs (s : State) (x : Ctx) (n : Nat) : (s.retire x n).convs = s.convs := rfl
@[simp] theorem retire_stations (s : State) (x : Ctx) (n : Nat) : (s.retire x n).stations = s.stations := rfl
@[simp] theorem retire_ether (s : State) (x : Ctx) (n : Nat) : (s.retire x n).ether = s.ether := rfl
@[simp] theorem retire_mgmt (s : State) (x : Ctx) (n : Nat) : (s.retire x n).mgmt = s.mgmt := rfl
@[simp] theorem retire_relays (s : State) (x : Ctx) (n : Nat) : (s.retire x n).relays = s.relays := rfl
@[simp] theorem retire_inbox (s : State) (x : Ctx) (n : Nat) : (s.retire x n).inbox = s.inbox := rfl
@[simp] theorem retire_outbox (s : State) (x : Ctx) (n : Nat) : (s.retire x n).outbox = s.outbox := rfl
@[simp] theorem retire_agenda (s : State) (x : Ctx) (n : Nat) : (s.retire x n).agenda = s.agenda := rfl
@[simp] theorem retire_who (s : State) (x : Ctx) (n : Nat) : (s.retire x n).who = s.who := rfl
@[simp] theorem retire_cycle (s : State) (x : Ctx) (n : Nat) : (s.retire x n).cycle = s.cycle := rfl
@[simp] theorem retire_fresh (s : State) (x : Ctx) (n : Nat) : (s.retire x n).fresh = s.fresh := rfl

@[simp] theorem advance_dies (s : State) (n : Nat) : (s.advance n).dies = s.dies := rfl
@[simp] theorem advance_mem (s : State) (n : Nat) : (s.advance n).mem = s.mem := rfl
@[simp] theorem advance_poison (s : State) (n : Nat) : (s.advance n).poison = s.poison := rfl
@[simp] theorem advance_worn (s : State) (n : Nat) : (s.advance n).worn = s.worn := rfl
@[simp] theorem advance_plain (s : State) (n : Nat) : (s.advance n).plain = s.plain := rfl
@[simp] theorem advance_hides (s : State) (n : Nat) : (s.advance n).hides = s.hides := rfl
@[simp] theorem advance_swPages (s : State) (n : Nat) : (s.advance n).swPages = s.swPages := rfl
@[simp] theorem advance_dirty (s : State) (n : Nat) : (s.advance n).dirty = s.dirty := rfl
@[simp] theorem advance_lineq (s : State) (n : Nat) : (s.advance n).lineq = s.lineq := rfl
@[simp] theorem advance_tlb (s : State) (n : Nat) : (s.advance n).tlb = s.tlb := rfl
@[simp] theorem advance_fused (s : State) (n : Nat) : (s.advance n).fused = s.fused := rfl
@[simp] theorem advance_gtc (s : State) (n : Nat) : (s.advance n).gtc = s.gtc := rfl
@[simp] theorem advance_slots (s : State) (n : Nat) : (s.advance n).slots = s.slots := rfl
@[simp] theorem advance_launches (s : State) (n : Nat) : (s.advance n).launches = s.launches := rfl
@[simp] theorem advance_teams (s : State) (n : Nat) : (s.advance n).teams = s.teams := rfl
@[simp] theorem advance_nextId (s : State) (n : Nat) : (s.advance n).nextId = s.nextId := rfl
@[simp] theorem advance_lastSlot (s : State) (n : Nat) : (s.advance n).lastSlot = s.lastSlot := rfl
@[simp] theorem advance_cache (s : State) (n : Nat) : (s.advance n).cache = s.cache := rfl
@[simp] theorem advance_prefetch (s : State) (n : Nat) : (s.advance n).prefetch = s.prefetch := rfl
@[simp] theorem advance_holds (s : State) (n : Nat) : (s.advance n).holds = s.holds := rfl
@[simp] theorem advance_leases (s : State) (n : Nat) : (s.advance n).leases = s.leases := rfl
@[simp] theorem advance_reqs (s : State) (n : Nat) : (s.advance n).reqs = s.reqs := rfl
@[simp] theorem advance_loads (s : State) (n : Nat) : (s.advance n).loads = s.loads := rfl
@[simp] theorem advance_homes (s : State) (n : Nat) : (s.advance n).homes = s.homes := rfl
@[simp] theorem advance_convs (s : State) (n : Nat) : (s.advance n).convs = s.convs := rfl
@[simp] theorem advance_stations (s : State) (n : Nat) : (s.advance n).stations = s.stations := rfl
@[simp] theorem advance_ether (s : State) (n : Nat) : (s.advance n).ether = s.ether := rfl
@[simp] theorem advance_mgmt (s : State) (n : Nat) : (s.advance n).mgmt = s.mgmt := rfl
@[simp] theorem advance_relays (s : State) (n : Nat) : (s.advance n).relays = s.relays := rfl
@[simp] theorem advance_inbox (s : State) (n : Nat) : (s.advance n).inbox = s.inbox := rfl
@[simp] theorem advance_outbox (s : State) (n : Nat) : (s.advance n).outbox = s.outbox := rfl
@[simp] theorem advance_agenda (s : State) (n : Nat) : (s.advance n).agenda = s.agenda := rfl
@[simp] theorem advance_who (s : State) (n : Nat) : (s.advance n).who = s.who := rfl
@[simp] theorem advance_cycle (s : State) (n : Nat) : (s.advance n).cycle = s.cycle := rfl
@[simp] theorem advance_fresh (s : State) (n : Nat) : (s.advance n).fresh = s.fresh := rfl

@[simp] theorem modLaunch_cores (s : State) (id : Nat) (f : Launch → Launch) : (s.modLaunch id f).cores = s.cores := rfl
@[simp] theorem modLaunch_dies (s : State) (id : Nat) (f : Launch → Launch) : (s.modLaunch id f).dies = s.dies := rfl
@[simp] theorem modLaunch_mem (s : State) (id : Nat) (f : Launch → Launch) : (s.modLaunch id f).mem = s.mem := rfl
@[simp] theorem modLaunch_poison (s : State) (id : Nat) (f : Launch → Launch) : (s.modLaunch id f).poison = s.poison := rfl
@[simp] theorem modLaunch_worn (s : State) (id : Nat) (f : Launch → Launch) : (s.modLaunch id f).worn = s.worn := rfl
@[simp] theorem modLaunch_plain (s : State) (id : Nat) (f : Launch → Launch) : (s.modLaunch id f).plain = s.plain := rfl
@[simp] theorem modLaunch_hides (s : State) (id : Nat) (f : Launch → Launch) : (s.modLaunch id f).hides = s.hides := rfl
@[simp] theorem modLaunch_swPages (s : State) (id : Nat) (f : Launch → Launch) : (s.modLaunch id f).swPages = s.swPages := rfl
@[simp] theorem modLaunch_dirty (s : State) (id : Nat) (f : Launch → Launch) : (s.modLaunch id f).dirty = s.dirty := rfl
@[simp] theorem modLaunch_lineq (s : State) (id : Nat) (f : Launch → Launch) : (s.modLaunch id f).lineq = s.lineq := rfl
@[simp] theorem modLaunch_tlb (s : State) (id : Nat) (f : Launch → Launch) : (s.modLaunch id f).tlb = s.tlb := rfl
@[simp] theorem modLaunch_fused (s : State) (id : Nat) (f : Launch → Launch) : (s.modLaunch id f).fused = s.fused := rfl
@[simp] theorem modLaunch_gtc (s : State) (id : Nat) (f : Launch → Launch) : (s.modLaunch id f).gtc = s.gtc := rfl
@[simp] theorem modLaunch_slots (s : State) (id : Nat) (f : Launch → Launch) : (s.modLaunch id f).slots = s.slots := rfl
@[simp] theorem modLaunch_teams (s : State) (id : Nat) (f : Launch → Launch) : (s.modLaunch id f).teams = s.teams := rfl
@[simp] theorem modLaunch_nextId (s : State) (id : Nat) (f : Launch → Launch) : (s.modLaunch id f).nextId = s.nextId := rfl
@[simp] theorem modLaunch_lastSlot (s : State) (id : Nat) (f : Launch → Launch) : (s.modLaunch id f).lastSlot = s.lastSlot := rfl
@[simp] theorem modLaunch_cache (s : State) (id : Nat) (f : Launch → Launch) : (s.modLaunch id f).cache = s.cache := rfl
@[simp] theorem modLaunch_prefetch (s : State) (id : Nat) (f : Launch → Launch) : (s.modLaunch id f).prefetch = s.prefetch := rfl
@[simp] theorem modLaunch_holds (s : State) (id : Nat) (f : Launch → Launch) : (s.modLaunch id f).holds = s.holds := rfl
@[simp] theorem modLaunch_leases (s : State) (id : Nat) (f : Launch → Launch) : (s.modLaunch id f).leases = s.leases := rfl
@[simp] theorem modLaunch_reqs (s : State) (id : Nat) (f : Launch → Launch) : (s.modLaunch id f).reqs = s.reqs := rfl
@[simp] theorem modLaunch_loads (s : State) (id : Nat) (f : Launch → Launch) : (s.modLaunch id f).loads = s.loads := rfl
@[simp] theorem modLaunch_homes (s : State) (id : Nat) (f : Launch → Launch) : (s.modLaunch id f).homes = s.homes := rfl
@[simp] theorem modLaunch_convs (s : State) (id : Nat) (f : Launch → Launch) : (s.modLaunch id f).convs = s.convs := rfl
@[simp] theorem modLaunch_stations (s : State) (id : Nat) (f : Launch → Launch) : (s.modLaunch id f).stations = s.stations := rfl
@[simp] theorem modLaunch_ether (s : State) (id : Nat) (f : Launch → Launch) : (s.modLaunch id f).ether = s.ether := rfl
@[simp] theorem modLaunch_mgmt (s : State) (id : Nat) (f : Launch → Launch) : (s.modLaunch id f).mgmt = s.mgmt := rfl
@[simp] theorem modLaunch_relays (s : State) (id : Nat) (f : Launch → Launch) : (s.modLaunch id f).relays = s.relays := rfl
@[simp] theorem modLaunch_inbox (s : State) (id : Nat) (f : Launch → Launch) : (s.modLaunch id f).inbox = s.inbox := rfl
@[simp] theorem modLaunch_outbox (s : State) (id : Nat) (f : Launch → Launch) : (s.modLaunch id f).outbox = s.outbox := rfl
@[simp] theorem modLaunch_agenda (s : State) (id : Nat) (f : Launch → Launch) : (s.modLaunch id f).agenda = s.agenda := rfl
@[simp] theorem modLaunch_who (s : State) (id : Nat) (f : Launch → Launch) : (s.modLaunch id f).who = s.who := rfl
@[simp] theorem modLaunch_cycle (s : State) (id : Nat) (f : Launch → Launch) : (s.modLaunch id f).cycle = s.cycle := rfl
@[simp] theorem modLaunch_fresh (s : State) (id : Nat) (f : Launch → Launch) : (s.modLaunch id f).fresh = s.fresh := rfl

@[simp] theorem modTeam_cores (s : State) (id : Nat) (f : Team → Team) : (s.modTeam id f).cores = s.cores := rfl
@[simp] theorem modTeam_dies (s : State) (id : Nat) (f : Team → Team) : (s.modTeam id f).dies = s.dies := rfl
@[simp] theorem modTeam_mem (s : State) (id : Nat) (f : Team → Team) : (s.modTeam id f).mem = s.mem := rfl
@[simp] theorem modTeam_poison (s : State) (id : Nat) (f : Team → Team) : (s.modTeam id f).poison = s.poison := rfl
@[simp] theorem modTeam_worn (s : State) (id : Nat) (f : Team → Team) : (s.modTeam id f).worn = s.worn := rfl
@[simp] theorem modTeam_plain (s : State) (id : Nat) (f : Team → Team) : (s.modTeam id f).plain = s.plain := rfl
@[simp] theorem modTeam_hides (s : State) (id : Nat) (f : Team → Team) : (s.modTeam id f).hides = s.hides := rfl
@[simp] theorem modTeam_swPages (s : State) (id : Nat) (f : Team → Team) : (s.modTeam id f).swPages = s.swPages := rfl
@[simp] theorem modTeam_dirty (s : State) (id : Nat) (f : Team → Team) : (s.modTeam id f).dirty = s.dirty := rfl
@[simp] theorem modTeam_lineq (s : State) (id : Nat) (f : Team → Team) : (s.modTeam id f).lineq = s.lineq := rfl
@[simp] theorem modTeam_tlb (s : State) (id : Nat) (f : Team → Team) : (s.modTeam id f).tlb = s.tlb := rfl
@[simp] theorem modTeam_fused (s : State) (id : Nat) (f : Team → Team) : (s.modTeam id f).fused = s.fused := rfl
@[simp] theorem modTeam_gtc (s : State) (id : Nat) (f : Team → Team) : (s.modTeam id f).gtc = s.gtc := rfl
@[simp] theorem modTeam_slots (s : State) (id : Nat) (f : Team → Team) : (s.modTeam id f).slots = s.slots := rfl
@[simp] theorem modTeam_launches (s : State) (id : Nat) (f : Team → Team) : (s.modTeam id f).launches = s.launches := rfl
@[simp] theorem modTeam_nextId (s : State) (id : Nat) (f : Team → Team) : (s.modTeam id f).nextId = s.nextId := rfl
@[simp] theorem modTeam_lastSlot (s : State) (id : Nat) (f : Team → Team) : (s.modTeam id f).lastSlot = s.lastSlot := rfl
@[simp] theorem modTeam_cache (s : State) (id : Nat) (f : Team → Team) : (s.modTeam id f).cache = s.cache := rfl
@[simp] theorem modTeam_prefetch (s : State) (id : Nat) (f : Team → Team) : (s.modTeam id f).prefetch = s.prefetch := rfl
@[simp] theorem modTeam_holds (s : State) (id : Nat) (f : Team → Team) : (s.modTeam id f).holds = s.holds := rfl
@[simp] theorem modTeam_leases (s : State) (id : Nat) (f : Team → Team) : (s.modTeam id f).leases = s.leases := rfl
@[simp] theorem modTeam_reqs (s : State) (id : Nat) (f : Team → Team) : (s.modTeam id f).reqs = s.reqs := rfl
@[simp] theorem modTeam_loads (s : State) (id : Nat) (f : Team → Team) : (s.modTeam id f).loads = s.loads := rfl
@[simp] theorem modTeam_homes (s : State) (id : Nat) (f : Team → Team) : (s.modTeam id f).homes = s.homes := rfl
@[simp] theorem modTeam_convs (s : State) (id : Nat) (f : Team → Team) : (s.modTeam id f).convs = s.convs := rfl
@[simp] theorem modTeam_stations (s : State) (id : Nat) (f : Team → Team) : (s.modTeam id f).stations = s.stations := rfl
@[simp] theorem modTeam_ether (s : State) (id : Nat) (f : Team → Team) : (s.modTeam id f).ether = s.ether := rfl
@[simp] theorem modTeam_mgmt (s : State) (id : Nat) (f : Team → Team) : (s.modTeam id f).mgmt = s.mgmt := rfl
@[simp] theorem modTeam_relays (s : State) (id : Nat) (f : Team → Team) : (s.modTeam id f).relays = s.relays := rfl
@[simp] theorem modTeam_inbox (s : State) (id : Nat) (f : Team → Team) : (s.modTeam id f).inbox = s.inbox := rfl
@[simp] theorem modTeam_outbox (s : State) (id : Nat) (f : Team → Team) : (s.modTeam id f).outbox = s.outbox := rfl
@[simp] theorem modTeam_agenda (s : State) (id : Nat) (f : Team → Team) : (s.modTeam id f).agenda = s.agenda := rfl
@[simp] theorem modTeam_who (s : State) (id : Nat) (f : Team → Team) : (s.modTeam id f).who = s.who := rfl
@[simp] theorem modTeam_cycle (s : State) (id : Nat) (f : Team → Team) : (s.modTeam id f).cycle = s.cycle := rfl
@[simp] theorem modTeam_fresh (s : State) (id : Nat) (f : Team → Team) : (s.modTeam id f).fresh = s.fresh := rfl

@[simp] theorem tick_cores (s : State) (t : Turn) (r : List Turn) : (s.tick t r).cores = s.cores := rfl
@[simp] theorem tick_dies (s : State) (t : Turn) (r : List Turn) : (s.tick t r).dies = s.dies := rfl
@[simp] theorem tick_mem (s : State) (t : Turn) (r : List Turn) : (s.tick t r).mem = s.mem := rfl
@[simp] theorem tick_poison (s : State) (t : Turn) (r : List Turn) : (s.tick t r).poison = s.poison := rfl
@[simp] theorem tick_worn (s : State) (t : Turn) (r : List Turn) : (s.tick t r).worn = s.worn := rfl
@[simp] theorem tick_plain (s : State) (t : Turn) (r : List Turn) : (s.tick t r).plain = s.plain := rfl
@[simp] theorem tick_hides (s : State) (t : Turn) (r : List Turn) : (s.tick t r).hides = s.hides := rfl
@[simp] theorem tick_swPages (s : State) (t : Turn) (r : List Turn) : (s.tick t r).swPages = s.swPages := rfl
@[simp] theorem tick_dirty (s : State) (t : Turn) (r : List Turn) : (s.tick t r).dirty = s.dirty := rfl
@[simp] theorem tick_lineq (s : State) (t : Turn) (r : List Turn) : (s.tick t r).lineq = s.lineq := rfl
@[simp] theorem tick_tlb (s : State) (t : Turn) (r : List Turn) : (s.tick t r).tlb = s.tlb := rfl
@[simp] theorem tick_fused (s : State) (t : Turn) (r : List Turn) : (s.tick t r).fused = s.fused := rfl
@[simp] theorem tick_slots (s : State) (t : Turn) (r : List Turn) : (s.tick t r).slots = s.slots := rfl
@[simp] theorem tick_launches (s : State) (t : Turn) (r : List Turn) : (s.tick t r).launches = s.launches := rfl
@[simp] theorem tick_teams (s : State) (t : Turn) (r : List Turn) : (s.tick t r).teams = s.teams := rfl
@[simp] theorem tick_nextId (s : State) (t : Turn) (r : List Turn) : (s.tick t r).nextId = s.nextId := rfl
@[simp] theorem tick_lastSlot (s : State) (t : Turn) (r : List Turn) : (s.tick t r).lastSlot = s.lastSlot := rfl
@[simp] theorem tick_cache (s : State) (t : Turn) (r : List Turn) : (s.tick t r).cache = s.cache := rfl
@[simp] theorem tick_prefetch (s : State) (t : Turn) (r : List Turn) : (s.tick t r).prefetch = s.prefetch := rfl
@[simp] theorem tick_holds (s : State) (t : Turn) (r : List Turn) : (s.tick t r).holds = s.holds := rfl
@[simp] theorem tick_leases (s : State) (t : Turn) (r : List Turn) : (s.tick t r).leases = s.leases := rfl
@[simp] theorem tick_reqs (s : State) (t : Turn) (r : List Turn) : (s.tick t r).reqs = s.reqs := rfl
@[simp] theorem tick_loads (s : State) (t : Turn) (r : List Turn) : (s.tick t r).loads = s.loads := rfl
@[simp] theorem tick_homes (s : State) (t : Turn) (r : List Turn) : (s.tick t r).homes = s.homes := rfl
@[simp] theorem tick_convs (s : State) (t : Turn) (r : List Turn) : (s.tick t r).convs = s.convs := rfl
@[simp] theorem tick_stations (s : State) (t : Turn) (r : List Turn) : (s.tick t r).stations = s.stations := rfl
@[simp] theorem tick_ether (s : State) (t : Turn) (r : List Turn) : (s.tick t r).ether = s.ether := rfl
@[simp] theorem tick_mgmt (s : State) (t : Turn) (r : List Turn) : (s.tick t r).mgmt = s.mgmt := rfl
@[simp] theorem tick_relays (s : State) (t : Turn) (r : List Turn) : (s.tick t r).relays = s.relays := rfl
@[simp] theorem tick_inbox (s : State) (t : Turn) (r : List Turn) : (s.tick t r).inbox = s.inbox := rfl
@[simp] theorem tick_outbox (s : State) (t : Turn) (r : List Turn) : (s.tick t r).outbox = s.outbox := rfl
@[simp] theorem tick_who (s : State) (t : Turn) (r : List Turn) : (s.tick t r).who = s.who := rfl
@[simp] theorem tick_fresh (s : State) (t : Turn) (r : List Turn) : (s.tick t r).fresh = s.fresh := rfl

/-! ## Cores and contexts -/

@[simp] theorem setCore_core_same (s : State) (c : CoreId) (x : Core) : (s.setCore c x).core c = x := by
  simp [State.core, State.setCore]

theorem setCore_core_other (s : State) {c d : CoreId} (x : Core) (h : c ≠ d) : (s.setCore c x).core d = s.core d := by
  have : c.val ≠ d.val := fun e => h (Fin.ext e)
  simp [State.core, State.setCore, Vector.getElem_set_ne, this]

@[simp] theorem modCore_core_same (s : State) (c : CoreId) (f : Core → Core) : (s.modCore c f).core c = f (s.core c) := by
  simp [State.modCore]

theorem modCore_core_other (s : State) {c d : CoreId} (f : Core → Core) (h : c ≠ d) : (s.modCore c f).core d = s.core d :=
  setCore_core_other s _ h

@[simp] theorem setCtx_ctxOf_same (s : State) (w : Who) (x : Ctx) : (s.setCtx w x).ctxOf w = x := by
  simp [State.ctxOf, State.setCtx]

theorem setCtx_ctxOf_other (s : State) {v w : Who} (x : Ctx) (h : v ≠ w) : (s.setCtx w x).ctxOf v = s.ctxOf v := by
  unfold State.ctxOf State.setCtx
  by_cases hc : w.core = v.core
  · have : w.ctx ≠ v.ctx := fun e => h (by cases v; cases w; simp_all)
    have : w.ctx.val ≠ v.ctx.val := fun e => this (Fin.ext e)
    simp [← hc, Vector.getElem_set_ne, this]
  · simp [modCore_core_other s _ hc]

@[simp] theorem modCtx_ctxOf_same (s : State) (w : Who) (f : Ctx → Ctx) : (s.modCtx w f).ctxOf w = f (s.ctxOf w) := by
  simp [State.modCtx]

theorem modCtx_ctxOf_other (s : State) {v w : Who} (f : Ctx → Ctx) (h : v ≠ w) : (s.modCtx w f).ctxOf v = s.ctxOf v :=
  setCtx_ctxOf_other s _ h

@[simp] theorem setCtx_me (s : State) (x : Ctx) : (s.setCtx s.who x).me = x := by simp [State.me]

/-- Writing back what a context already holds changes nothing. -/
@[simp] theorem setCtx_self (s : State) (w : Who) : s.setCtx w (s.ctxOf w) = s := by
  have h : { s.core w.core with ctx := (s.core w.core).ctx.set w.ctx (s.core w.core).ctx[w.ctx] } = s.cores[w.core] := by
    simp [State.core]
  simp only [State.setCtx, State.modCore, State.setCore, State.ctxOf]
  rw [h]
  simp

@[simp] theorem setCtx_setCtx (s : State) (w : Who) (x y : Ctx) : (s.setCtx w x).setCtx w y = s.setCtx w y := by
  simp [State.setCtx, State.modCore, State.setCore, State.core]

/-- A context's update leaves everything of its core but the contexts. -/
theorem setCtx_core_rest (s : State) (w : Who) (x : Ctx) (c : CoreId) :
    ((s.setCtx w x).core c) = { s.core c with ctx := ((s.setCtx w x).core c).ctx } := by
  by_cases h : w.core = c
  · subst h; simp [State.setCtx]
  · simp [State.setCtx, modCore_core_other s _ h]

@[simp] theorem setCtx_scratch (s : State) (w : Who) (x : Ctx) (c : CoreId) :
    ((s.setCtx w x).core c).scratch = (s.core c).scratch := by rw [setCtx_core_rest]

@[simp] theorem setCtx_bar (s : State) (w : Who) (x : Ctx) (c : CoreId) :
    ((s.setCtx w x).core c).bar = (s.core c).bar := by rw [setCtx_core_rest]

@[simp] theorem setCtx_rawRead (s : State) (w : Who) (x : Ctx) (p n : Nat) : (s.setCtx w x).rawRead p n = s.rawRead p n := by
  simp [State.rawRead]

/-! ## Registers (R14, R19, R132) -/

@[simp] theorem rs_zero (x : Ctx) : x.rs 0#6 = 0#64 := by simp [Ctx.rs]

@[simp] theorem ws_zero (x : Ctx) (v : Word) : x.ws 0#6 v = x := by simp [Ctx.ws]

theorem ws_rs_same (x : Ctx) {d : SReg} (v : Word) (h : d ≠ 0) : (x.ws d v).rs d = v := by
  have : (d == 0) = false := by simpa using h
  simp only [Ctx.rs, Ctx.ws, this]
  simp

theorem ws_rs_other (x : Ctx) {d r : SReg} (v : Word) (h : r ≠ d) : (x.ws d v).rs r = x.rs r := by
  have : d.toNat ≠ r.toNat := fun e => h (BitVec.eq_of_toNat_eq e.symm)
  unfold Ctx.rs Ctx.ws
  cases (r == 0) <;> cases (d == 0) <;> simp [Vector.getElem_set_ne, this]

theorem ws_rs (x : Ctx) (d : SReg) (v : Word) : (x.ws d v).rs d = if d = 0 then 0 else v := by
  split
  · next h => subst h; simp
  · next h => exact ws_rs_same x v h

/-- A scalar write changes the scalar file and nothing else. -/
theorem ws_eq (x : Ctx) (d : SReg) (v : Word) : x.ws d v = { x with s := (x.ws d v).s } := by
  unfold Ctx.ws; split <;> rfl

@[simp] theorem ws_pc (x : Ctx) (d : SReg) (v : Word) : (x.ws d v).pc = x.pc := by rw [ws_eq]
@[simp] theorem ws_fps (x : Ctx) (d : SReg) (v : Word) : (x.ws d v).fps = x.fps := by rw [ws_eq]
@[simp] theorem ws_h (x : Ctx) (d : SReg) (v : Word) : (x.ws d v).h = x.h := by rw [ws_eq]

@[simp] theorem wh_rh_same (x : Ctx) (n : HReg) (v : HandleWord) : (x.wh n v).rh n = v := by simp [Ctx.rh, Ctx.wh]

theorem wh_rh_other (x : Ctx) {m n : HReg} (v : HandleWord) (h : m ≠ n) : (x.wh n v).rh m = x.rh m := by
  have : n.toNat ≠ m.toNat := fun e => h (BitVec.eq_of_toNat_eq e.symm)
  simp [Ctx.rh, Ctx.wh, Vector.getElem_set_ne, this]

end Sys2Proof.Laws
end

