-- ==== Sys2Proof/Laws/Memory.lean ====
section
/-! SUPPORT. Every memory operation keeps the canonical form of device memory and of every core's scratch, and what a
read of the storage gives after a write to it. -/

namespace Sys2Proof.Laws

open Sys2Proof.Machine

/-! ## The form of a whole state -/

theorem wf_iff (s : State) : Memory.wf s = true ↔ cellsWf s.mem = true ∧ ∀ c, cellsWf (s.core c).scratch = true := by
  simp only [Memory.wf, Bool.and_eq_true, List.all_eq_true, State.core]
  refine and_congr_right fun _ => ⟨fun h c => h _ (by simp), fun h x hx => ?_⟩
  obtain ⟨k, hk, rfl⟩ := List.mem_iff_getElem.mp hx
  exact h ⟨k, by simpa using hk⟩

theorem reset_wf : Memory.wf State.reset = true := by decide +kernel

/-- A change that leaves memory and the cores alone keeps the form. -/
theorem wf_congr {s t : State} (hm : t.mem = s.mem) (hc : t.cores = s.cores) (h : Memory.wf s = true) :
    Memory.wf t = true := by
  simp only [Memory.wf, hm, hc] at *; exact h

/-- Replacing memory by another canonical one, with the cores as they are. -/
theorem wf_mem {s t : State} (hm : cellsWf t.mem = true) (hc : t.cores = s.cores) (h : Memory.wf s = true) :
    Memory.wf t = true := by
  simp only [Memory.wf, Bool.and_eq_true, hc] at *; exact ⟨hm, h.2⟩

theorem setCore_wf (s : State) (c : CoreId) (x : Core) (hx : cellsWf x.scratch = true) (h : Memory.wf s = true) :
    Memory.wf (s.setCore c x) = true := by
  rw [wf_iff] at *
  refine ⟨h.1, fun d => ?_⟩
  by_cases e : c = d
  · subst e; simpa using hx
  · rw [setCore_core_other s x e]; exact h.2 d

theorem modCore_wf (s : State) (c : CoreId) (f : Core → Core)
    (hf : cellsWf (s.core c).scratch = true → cellsWf (f (s.core c)).scratch = true) (h : Memory.wf s = true) :
    Memory.wf (s.modCore c f) = true :=
  setCore_wf s c _ (hf (((wf_iff s).mp h).2 c)) h

theorem setCtx_wf (s : State) (w : Who) (x : Ctx) (h : Memory.wf s = true) : Memory.wf (s.setCtx w x) = true :=
  modCore_wf s _ _ id h

theorem modCtx_wf (s : State) (w : Who) (f : Ctx → Ctx) (h : Memory.wf s = true) : Memory.wf (s.modCtx w f) = true :=
  setCtx_wf s w _ h

/-- A fold of changes that each keep the form keeps it. -/
theorem foldl_wf {α : Type} (f : State → α → State) (l : List α) (hf : ∀ s a, Memory.wf s = true → Memory.wf (f s a) = true) :
    ∀ s, Memory.wf s = true → Memory.wf (l.foldl f s) = true := by
  induction l with
  | nil => exact fun _ h => h
  | cons a l ih => exact fun s h => ih _ (hf s a h)

/-! ## Storage -/

theorem unhide_same (s : State) (p n : Nat) (keep : Hidden → Bool) : (s.unhide p n keep).mem = s.mem ∧ (s.unhide p n keep).cores = s.cores := by
  unfold State.unhide; split <;> exact ⟨rfl, rfl⟩

theorem markPlain_same (s : State) (p n : Nat) : (s.markPlain p n).mem = s.mem ∧ (s.markPlain p n).cores = s.cores := by
  unfold State.markPlain
  split
  · exact ⟨rfl, rfl⟩
  · split
    · split <;> exact ⟨rfl, rfl⟩
    · exact ⟨rfl, rfl⟩

theorem keepHides_same (s old : State) (x : Ctx) : (s.keepHides old x).mem = s.mem ∧ (s.keepHides old x).cores = s.cores := by
  unfold State.keepHides; split <;> exact ⟨rfl, rfl⟩

theorem unhide_wf (s : State) (p n : Nat) (keep : Hidden → Bool) (h : Memory.wf s = true) : Memory.wf (s.unhide p n keep) = true :=
  wf_congr (unhide_same s p n keep).1 (unhide_same s p n keep).2 h

theorem markPlain_wf (s : State) (p n : Nat) (h : Memory.wf s = true) : Memory.wf (s.markPlain p n) = true :=
  wf_congr (markPlain_same s p n).1 (markPlain_same s p n).2 h

theorem keepHides_wf (s old : State) (x : Ctx) (h : Memory.wf s = true) : Memory.wf (s.keepHides old x) = true :=
  wf_congr (keepHides_same s old x).1 (keepHides_same s old x).2 h

theorem heal_wf (s : State) (f : Nat → Bool) (h : Memory.wf s = true) : Memory.wf (s.heal f) = true := wf_congr rfl rfl h

theorem rawPut_wf (s : State) (p : Nat) (bs : List Byte) (h : Memory.wf s = true) : Memory.wf (s.rawPut p bs) = true := by
  unfold State.rawPut
  dsimp only
  split
  · exact wf_mem (s := s) (cellsWrite_wf _ _ _ ((wf_iff s).mp h).1) rfl h
  · exact modCore_wf _ _ _ (cellsWrite_wf _ _ _) (heal_wf s _ h)

theorem rawWrite_wf (s : State) (p : Nat) (bs : List Byte) (h : Memory.wf s = true) : Memory.wf (s.rawWrite p bs) = true :=
  unhide_wf _ _ _ _ (markPlain_wf _ _ _ (rawPut_wf s p bs h))

/-- A read of the storage depends on memory and the cores alone. -/
theorem rawRead_congr {s t : State} (hm : t.mem = s.mem) (hc : t.cores = s.cores) (p n : Nat) : t.rawRead p n = s.rawRead p n := by
  simp only [State.rawRead, State.core, hm, hc]

/-- A read of the storage after bytes were put there gives them. -/
theorem rawRead_put (s : State) (p : Nat) (bs : List Byte) (h : Memory.wf s = true) : (s.rawPut p bs).rawRead p bs.length = bs := by
  obtain ⟨hm, hc⟩ := (wf_iff s).mp h
  unfold State.rawPut State.rawRead
  dsimp only
  split
  · exact cellsRead_write bs s.mem p hm
  · simp only [modCore_core_same]
    exact cellsRead_write bs _ _ (hc _)

/-- A read of the storage after a write of the same bytes gives them. -/
theorem rawRead_write (s : State) (p : Nat) (bs : List Byte) (h : Memory.wf s = true) :
    (s.rawWrite p bs).rawRead p bs.length = bs := by
  rw [State.rawWrite, rawRead_congr (unhide_same _ _ _ _).1 (unhide_same _ _ _ _).2,
    rawRead_congr (markPlain_same _ _ _).1 (markPlain_same _ _ _).2, rawRead_put s p bs h]

/-- Two bytes at different places of the storage. -/
theorem place_ne {p q : Nat} (hp : isDev p = false) (hq : isDev q = false) (hpb : p < 2 ^ 48 + 2 ^ 30) (hqb : q < 2 ^ 48 + 2 ^ 30)
    (h : p ≠ q) : placeCore p ≠ placeCore q ∨ placeOff p ≠ placeOff q := by
  simp only [isDev, decide_eq_false_iff_not] at hp hq
  simp only [placeCore, placeOff, ne_eq, Fin.mk.injEq]
  omega

theorem writeBack_wf (s : State) (c : CoreId) (l : L1Line) (h : Memory.wf s = true) : Memory.wf (s.writeBack c l) = true := by
  unfold State.writeBack; split
  · exact unhide_wf _ _ _ _ (rawPut_wf s _ _ h)
  · exact h

theorem writeBacks_wf (c : CoreId) (ls : List L1Line) (s : State) (h : Memory.wf s = true) :
    Memory.wf (ls.foldl (fun s l => s.writeBack c l) s) = true :=
  foldl_wf _ _ (fun s l h => writeBack_wf s c l h) s h

theorem flushCore_wf (s : State) (c : CoreId) (h : Memory.wf s = true) : Memory.wf (s.flushCore c) = true := by
  unfold State.flushCore
  exact modCore_wf _ _ _ id (wf_congr (s := (s.core c).l1.foldl (fun s l => s.writeBack c l) s) rfl rfl (writeBacks_wf c _ s h))

/-- Banks that return to CACHE keep their bytes, which a bank's next role change loses (R33, R35). -/
theorem releaseBanks_scratch (c : Core) (mask : IWord) : (c.releaseBanks mask).scratch = c.scratch := by
  unfold Core.releaseBanks
  generalize List.range 32 = l
  induction l generalizing c with
  | nil => rfl
  | cons b l ih =>
    rw [List.foldl_cons, ih]
    split <;> rfl

theorem unfuse_wf (s : State) (c : CoreId) (h : Memory.wf s = true) : Memory.wf (s.unfuse c) = true := by
  unfold State.unfuse
  have hf := foldl_wf State.flushCore ((List.range 8).map (clusterMate c)) flushCore_wf s h
  dsimp only
  split
  · generalize ((List.range 8).map (clusterMate c)).foldl State.flushCore s = t at hf ⊢
    exact wf_congr (s := t) rfl rfl hf
  · exact h

theorem vacate_wf (s : State) (team : Nat) (c : CoreId) (h : Memory.wf s = true) : Memory.wf (s.vacate team c) = true := by
  unfold State.vacate
  split
  · split
    · exact h
    · exact unfuse_wf _ _ (modCore_wf s _ _ (fun hc => by rw [releaseBanks_scratch]; exact hc) h)
  · exact h

/-! ## L1 copies -/

theorem recall_wf (s : State) (c : CoreId) (l : Nat) (h : Memory.wf s = true) : Memory.wf (s.recall c l) = true := by
  unfold State.recall; split
  · exact h
  · exact wf_congr (s := s) rfl rfl h

theorem recallRange_wf (s : State) (p n : Nat) (h : Memory.wf s = true) : Memory.wf (s.recallRange p n) = true := by
  unfold State.recallRange; split
  · exact h
  · exact wf_congr (s := s) rfl rfl h

theorem evict_wf (s : State) (c : CoreId) (l : L1Line) (h : Memory.wf s = true) : Memory.wf (s.evict c l) = true :=
  wf_congr rfl rfl (modCore_wf _ c (fun k => { k with l1 := k.l1.filter fun m => m.line != l.line }) id (writeBack_wf s c l h))

theorem evictLine_wf (s : State) (c : CoreId) (l : Nat) (h : Memory.wf s = true) : Memory.wf (s.evictLine c l) = true := by
  unfold State.evictLine; split
  · exact evict_wf s c _ h
  · exact wf_congr (s := s) rfl rfl h

theorem makeRoom_wf (s : State) (c : CoreId) (l : Nat) (h : Memory.wf s = true) : Memory.wf (s.makeRoom c l) = true := by
  unfold State.makeRoom
  split
  · exact h
  · split
    · exact h
    · dsimp only
      split
      · exact wf_congr (s := s) rfl rfl h
      · exact evictLine_wf _ _ _ (wf_congr (s := s) rfl rfl h)

theorem probe_wf (s : State) (c : CoreId) (p : Nat) (h : Memory.wf s = true) : Memory.wf (s.probe c p).1 = true := by
  unfold State.probe
  split
  · exact h
  · dsimp only
    split
    · exact wf_congr (s := s) rfl rfl h
    · exact evict_wf _ _ _ (wf_congr (s := s) rfl rfl h)

theorem fill_wf (s : State) (c : CoreId) (l : L1Line) (h : Memory.wf s = true) : Memory.wf (s.fill c l) = true := by
  unfold State.fill; split
  · exact modCore_wf _ _ _ id h
  · exact h

theorem writeOldest_wf (s : State) (c : CoreId) (h : Memory.wf s = true) : Memory.wf (s.writeOldest c) = true := by
  unfold State.writeOldest
  split
  · exact h
  · dsimp only
    split
    · exact modCore_wf _ _ _ id (writeBack_wf _ _ _ (wf_congr (s := s) rfl rfl h))
    · exact wf_congr (s := s) rfl rfl h

theorem drainDirty_wf (c : CoreId) (most n : Nat) : ∀ s : State, Memory.wf s = true → Memory.wf (s.drainDirty c most n) = true := by
  induction n with
  | zero => exact fun _ h => h
  | succ n ih =>
    intro s h
    unfold State.drainDirty
    split
    · exact h
    · exact ih _ (writeOldest_wf s c h)

theorem markDirty_wf (s : State) (c : CoreId) (l : Nat) (h : Memory.wf s = true) : Memory.wf (s.markDirty c l) = true := by
  unfold State.markDirty
  split
  · exact h
  · exact wf_congr rfl rfl (drainDirty_wf c _ _ s h)

theorem coreRead_wf (s : State) (c : CoreId) (p n : Nat) (h : Memory.wf s = true) : Memory.wf (s.coreRead c p n).1 = true := by
  unfold State.coreRead
  dsimp only
  split
  · split
    · split
      · exact h
      · exact fill_wf _ _ _ (makeRoom_wf s _ _ h)
    · exact makeRoom_wf _ _ _ (recall_wf s _ _ h)
  · exact h

theorem corePut_wf (s : State) (c : CoreId) (p : Nat) (bs : List Byte) (h : Memory.wf s = true) :
    Memory.wf (s.corePut c p bs) = true := by
  unfold State.corePut
  dsimp only
  split
  · split
    · split
      · exact modCore_wf _ _ _ id (markDirty_wf _ _ _ (makeRoom_wf s _ _ h))
      · exact rawPut_wf s p bs h
    · exact markDirty_wf _ _ _ (rawPut_wf _ _ _ (makeRoom_wf _ _ _ (recall_wf s _ _ h)))
  · exact rawPut_wf s p bs h

theorem coreWrite_wf (s : State) (c : CoreId) (p : Nat) (bs : List Byte) (h : Memory.wf s = true) :
    Memory.wf (s.coreWrite c p bs) = true :=
  markPlain_wf _ _ _ (unhide_wf _ _ _ _ (corePut_wf s c p bs h))

theorem homePut_wf (s : State) (p : Nat) (bs : List Byte) (h : Memory.wf s = true) : Memory.wf (s.homePut p bs) = true :=
  unhide_wf _ _ _ _ (rawPut_wf _ _ _ (recallRange_wf s _ _ h))

theorem homeWrite_wf (s : State) (p : Nat) (bs : List Byte) (h : Memory.wf s = true) : Memory.wf (s.homeWrite p bs) = true :=
  markPlain_wf _ _ _ (homePut_wf s p bs h)

theorem rmw_wf (s : State) (p : Nat) (op : AtomOp) (n : Nat) (x e : Word) (h : Memory.wf s = true) :
    Memory.wf (s.rmw p op n x e).1 = true := by
  unfold State.rmw
  dsimp only
  split
  · exact homePut_wf _ _ _ h
  · exact recallRange_wf s _ _ h

theorem commitByte_wf (s : State) (cs : List CoreId) (b : Host.Cell) (h : Memory.wf s = true) :
    Memory.wf (s.commitByte cs b) = true := by
  refine homeWrite_wf _ _ _ (foldl_wf _ _ (fun s c h => ?_) s h)
  split
  · exact evictLine_wf _ _ _ h
  · exact h

theorem writeBuffer_wf (s : State) (cs : List CoreId) (q : Position) (h : Memory.wf s = true) :
    Memory.wf (s.writeBuffer cs q) = true :=
  heal_wf _ _ (foldl_wf _ _ (fun s b h => commitByte_wf s cs b h) s h)

/-! ## Accesses on behalf of a context -/

theorem modTeam_wf (s : State) (id : Nat) (f : Team → Team) (h : Memory.wf s = true) : Memory.wf (s.modTeam id f) = true :=
  wf_congr (s := s) rfl rfl h

theorem modLaunch_wf (s : State) (id : Nat) (f : Launch → Launch) (h : Memory.wf s = true) :
    Memory.wf (s.modLaunch id f) = true :=
  wf_congr (s := s) rfl rfl h

theorem rejectFrom_wf (s : State) (team p : Nat) (h : Memory.wf s = true) : Memory.wf (s.rejectFrom team p) = true := by
  unfold State.rejectFrom
  split
  · split
    · dsimp only
      refine foldl_wf _ _ (fun s k h => ?_) _ (modTeam_wf _ _ _ h)
      split
      · exact modCtx_wf _ _ _ h
      · exact h
    · exact h
  · exact h

theorem overflowZero_wf (s : State) (team : Nat) (h : Memory.wf s = true) : Memory.wf (s.overflowZero team) = true := by
  have h1 := rejectFrom_wf s team 1 h
  unfold State.overflowZero
  dsimp only
  split
  · split
    · exact modTeam_wf _ _ _ (keepHides_wf _ _ _ (writeBuffer_wf _ _ _ h1))
    · exact h1
  · exact h1

theorem posRead_wf (s : State) (team : Nat) (r : Region) (k p : Nat) (bs : List Byte) (h : Memory.wf s = true) :
    Memory.wf (s.posRead team r k p bs).1 = true := by
  unfold State.posRead
  split
  · exact rejectFrom_wf _ _ _ h
  · exact modTeam_wf _ _ _ h

theorem posWrite_wf (s t : State) (team : Nat) (r : Region) (k p : Nat) (bs : List Byte) (h : Memory.wf s = true)
    (ht : s.posWrite team r k p bs = some t) : Memory.wf t = true := by
  unfold State.posWrite at ht
  split at ht
  · cases ht; exact h
  · dsimp only at ht
    split at ht
    · cases ht
    · split at ht
      · cases ht; exact rejectFrom_wf _ _ _ (modTeam_wf _ _ _ h)
      · cases ht; exact modTeam_wf _ _ _ h

theorem readAs_wf (s : State) (w : Who) (scalar : Bool) (p n : Nat) (h : Memory.wf s = true) :
    Memory.wf (s.readAs w scalar p n).1 = true := by
  unfold State.readAs
  have h1 : Memory.wf (if scalar then s.coreRead w.core p n else (s.recallRange p n, s.rawRead p n)).1 = true := by
    split
    · exact coreRead_wf s _ _ _ h
    · exact recallRange_wf s _ _ h
  dsimp only
  split
  · exact posRead_wf _ _ _ _ _ _ h1
  · exact h1

theorem hideAs_same (s : State) (x : Ctx) (before epoch p n : Nat) :
    (s.hideAs x before epoch p n).mem = s.mem ∧ (s.hideAs x before epoch p n).cores = s.cores := by
  unfold State.hideAs
  split
  · split <;> exact ⟨rfl, rfl⟩
  · exact ⟨rfl, rfl⟩

theorem hideStore_wf (s : State) (w : Who) (p n : Nat) (h : Memory.wf s = true) : Memory.wf (s.hideStore w p n) = true :=
  wf_congr (hideAs_same _ _ _ _ _ _).1 (hideAs_same _ _ _ _ _ _).2 h

/-- A store of a context at once keeps the form if the change of storage that it makes does. -/
theorem scalarPut_wf (s : State) (w : Who) (p n : Nat) (f : State → State)
    (hf : ∀ t, Memory.wf t = true → Memory.wf (f t) = true) (h : Memory.wf s = true) : Memory.wf (s.scalarPut w p n f) = true :=
  keepHides_wf _ _ _ (hf _ (hideStore_wf s w p n h))

theorem direct_wf (s : State) (w : Who) (scalar : Bool) (p : Nat) (bs : List Byte) (h : Memory.wf s = true) :
    Memory.wf (if scalar then s.scalarPut w p bs.length fun s => s.coreWrite w.core p bs else s.homeWrite p bs) = true := by
  split
  · exact scalarPut_wf s w p _ _ (fun t ht => coreWrite_wf t _ _ _ ht) h
  · exact homeWrite_wf s _ _ h

theorem writeAs_wf (s t : State) (w : Who) (scalar : Bool) (p : Nat) (bs : List Byte) (h : Memory.wf s = true)
    (ht : s.writeAs w scalar p bs = some t) : Memory.wf t = true := by
  unfold State.writeAs at ht
  dsimp only at ht
  split at ht
  · split at ht
    · cases ht; exact direct_wf s w scalar p bs h
    · split at ht
      · next e =>
          cases ht
          refine posWrite_wf _ _ _ _ _ _ _ ?_ e
          split
          · exact hideStore_wf s w p _ h
          · exact unhide_wf s _ _ _ h
      · split at ht
        · cases ht; exact direct_wf _ w scalar p bs (overflowZero_wf s _ h)
        · cases ht
  · cases ht; exact direct_wf s w scalar p bs h

/-! ## Cache maintenance and bank roles -/

theorem flushLines_wf (s : State) (c : CoreId) (hit : Nat → Bool) (inv : Bool) (h : Memory.wf s = true) :
    Memory.wf (s.flushLines c hit inv) = true := by
  unfold State.flushLines
  dsimp only
  exact modCore_wf _ _ _ id (wf_congr
    (s := ((s.core c).l1.filter fun l => hit l.line).foldl (fun s l => s.writeBack c l) s) rfl rfl (writeBacks_wf c _ s h))

theorem drops_wf (banks : List Nat) : ∀ m, cellsWf m = true →
    cellsWf (banks.foldl (fun m b => cellsDrop m (65536 * b) (65536 * (b + 1))) m) = true := by
  induction banks with
  | nil => exact fun _ h => h
  | cons b bs ih => exact fun m h => ih _ (cellsDrop_wf m _ _ h)

theorem applyRoles_wf (s : State) (c : CoreId) (new : Word) (h : Memory.wf s = true) : Memory.wf (s.applyRoles c new) = true := by
  unfold State.applyRoles
  dsimp only
  refine modCore_wf _ _ _ (drops_wf _ _) ?_
  split
  · exact flushCore_wf s c h
  · exact h

end Sys2Proof.Laws
end

