-- ==== Sys2Proof/Laws/Run.lean ====
section
/-! SUPPORT. What the checks before an instruction's effect answer, and what a meaning of the common shapes does, said
once (R15, R103, R119, R376). -/

namespace Sys2Proof.Laws

open Sys2Proof.Machine

/-! ## The checks of R103 -/

/-- Every register within the allotment: the check passes. -/
theorem checkRegs_ok (x : Ctx) (regs : List SReg) (h : ∀ r ∈ regs, r.toNat < x.allot.toNat) : checkRegs x regs = .ok () := by
  induction regs with
  | nil => rfl
  | cons r rs ih =>
    have h1 := h r (by simp)
    have h2 := ih fun q hq => h q (by simp [hq])
    simp [checkRegs, Nat.not_le.mpr h1, h2]

/-- The first register out of the allotment is reported (R15). -/
theorem checkRegs_trap (x : Ctx) (ls rs : List SReg) (r : SReg) (h : ∀ q ∈ ls, q.toNat < x.allot.toNat)
    (hr : x.allot.toNat ≤ r.toNat) :
    checkRegs x (ls ++ r :: rs) = .error (.trap ⟨Cause.regbound, 0, r.setWidth 64⟩) := by
  induction ls with
  | nil => simp [checkRegs, hr, trap]
  | cons q qs ih =>
    have h1 := h q (by simp)
    have h2 := ih fun p hp => h p (by simp [hp])
    simp [checkRegs, Nat.not_le.mpr h1, h2]

/-- An instruction that neither R213 nor R210 forbids passes everywhere. -/
theorem checkRegion_free (s : State) (x : Ctx) (i : Instr) (h1 : forbidden i = false) (h2 : forbiddenGuess i = false) :
    checkRegion s x i = .ok () := by
  unfold checkRegion
  split
  · simp [h1, h2]
  · split <;> simp [h1]

/-- Outside a region and a guess routine every instruction passes. -/
theorem checkRegion_outside (s : State) (x : Ctx) (i : Instr) (h1 : s.guessingOf x = none) (h2 : s.positionOf x = none) :
    checkRegion s x i = .ok () := by
  simp [checkRegion, h1, h2]

theorem checkInstr_ok (s : State) (i : Instr) (regs : List SReg) (hw : i.wellFormed = true)
    (hr : ∀ r ∈ regs, r.toNat < s.me.allot.toNat) (hg : checkRegion s s.me i = .ok ()) : checkInstr s i regs = .ok () := by
  simp [checkInstr, hw, checkRegs_ok _ _ hr, hg]

/-! ## Meanings -/

/-- With its checks passed a meaning is its body. -/
theorem run_ok (s : State) (i : Instr) (regs : List SReg) (body : Ctx → Except Stop State) (hw : i.wellFormed = true)
    (hr : ∀ r ∈ regs, r.toNat < s.me.allot.toNat) (hg : checkRegion s s.me i = .ok ()) :
    s.run i regs body = s.finish (body s.me) := by
  simp [State.run, checkInstr_ok s i regs hw hr hg]

/-- A register out of the allotment traps before any effect (R15). -/
theorem run_regbound (s : State) (i : Instr) (ls rs : List SReg) (r : SReg) (body : Ctx → Except Stop State)
    (hw : i.wellFormed = true) (h : ∀ q ∈ ls, q.toNat < s.me.allot.toNat) (hr : s.me.allot.toNat ≤ r.toNat) :
    s.run i (ls ++ r :: rs) body = .next (s.deliver s.who ⟨Cause.regbound, 0, r.setWidth 64⟩) := by
  simp [State.run, checkInstr, hw, checkRegs_trap _ _ _ _ h hr, State.finish]

/-- A meaning that computes one scalar: it writes Sd and moves the PC past the instruction. -/
theorem compute_next (s : State) (i : Instr) (regs : List SReg) (d : SReg) (f : Ctx → Word) (hw : i.wellFormed = true)
    (hr : ∀ r ∈ regs, r.toNat < s.me.allot.toNat) (hg : checkRegion s s.me i = .ok ()) :
    s.compute i regs d f = .next (s.retire (s.me.ws d (f s.me)) i.size) := by
  simp [State.compute, run_ok s i regs _ hw hr hg, State.finish]

/-- Every meaning of this shape answers a next state: none faults or refuses. -/
theorem finish_next (s : State) (r : Except Stop State) : ∃ t, s.finish r = .next t := by
  unfold State.finish
  split <;> exact ⟨_, rfl⟩

theorem run_next (s : State) (i : Instr) (regs : List SReg) (body : Ctx → Except Stop State) :
    ∃ t, s.run i regs body = .next t := finish_next s _

/-! ## Taking a trap (R377, R378) -/

/-- Outside a speculative position a trap is taken precisely. -/
theorem deliver_outside (s : State) (w : Who) (t : Trap) (h : s.positionOf (s.ctxOf w) = none) :
    s.deliver w t = s.takeTrap w t := by
  simp [State.deliver, h]

/-- A trap in user mode with a handler: what is saved and where control goes. -/
theorem takeTrap_user (s : State) (w : Who) (t : Trap) (hm : (s.ctxOf w).mode = .user) (hh : (s.ctxOf w).traphnd ≠ 0) :
    s.takeTrap w t = s.setCtx w { s.progressed (s.ctxOf w) with
      trapcause := 0#48 ++ t.sub ++ t.cause, trappc := (s.ctxOf w).pc, trapval := t.val,
      run := if (s.ctxOf w).run == .waiting then .active else (s.ctxOf w).run, blocked := none,
      since := if (s.ctxOf w).run == .active && (s.ctxOf w).blocked.isNone then (s.ctxOf w).since else s.cycle,
      mode := .handler, pc := pcOf (s.ctxOf w).traphnd } := by
  simp only [State.takeTrap, hm, State.progressed]
  simp
  exact fun e => absurd e hh

/-- A trap in handler mode ends the member. -/
theorem takeTrap_double (s : State) (w : Who) (t : Trap) (hm : (s.ctxOf w).mode = .handler) :
    s.takeTrap w t = s.endMember w := by
  simp [State.takeTrap, hm]

/-- The entry's TRAPCAUSE image (R377). -/
theorem trapcause_bytes (c u : Byte) :
    (0#48 ++ u ++ c).extractLsb' 0 8 = c ∧ (0#48 ++ u ++ c).extractLsb' 8 8 = u := by
  constructor
  · ext k hk
    simp only [BitVec.getElem_extractLsb', BitVec.getLsbD_append]
    simp [hk]
  · ext k hk
    simp only [BitVec.getElem_extractLsb', BitVec.getLsbD_append]
    simp [hk]

end Sys2Proof.Laws
end

