-- ==== Sys2Proof/Tests/Slice0.lean ====
section
/-! SUPPORT. Tests: ill-formed terms that the check refuses, words written out from the spec's encodings, single steps, and for
every statement with hypotheses a state and operands that meet them. -/

set_option Elab.async false

namespace Sys2Proof.Tests

open Sys2Proof Sys2Proof.Machine Sys2Proof.Claims

/-! ## Small states -/

/-- Core 0, context 0 ACTIVE with all its registers, and a page of device memory at 0x0001000000200000 (log 13). -/
def base : State := State.reset.placed []

/-- A state with the issuing context changed. -/
def onMe (s : State) (f : Ctx → Ctx) : State := s.setCtx s.who (f s.me)

/-- A state with the issuing core changed. -/
def onCore (s : State) (f : Core → Core) : State := s.modCore s.who.core f

/-- A state whose issuing context has a trap handler and these scalars. -/
def withRegs (s : State) (vs : List (Nat × Word)) : State :=
  onMe s fun x => { x with traphnd := 0x1000, s := Vector.ofFn fun k : Fin 64 => (vs.lookup k.val).getD 0 }

/-- The placed page. -/
def page : Word := 0x0001000000200000

/-- A walk's place, and its subcode. -/
def place (r : State × Except Byte Nat) : Option Nat := r.2.toOption
def fault (r : State × Except Byte Nat) : Option Byte := match r.2 with
  | .ok _ => none
  | .error e => some e

/-- A member of a result that passes a check. -/
theorem ex_of_any {α : Type} {o : Option α} {p : α → Prop} [DecidablePred p] (h : (o.any fun q => decide (p q)) = true) :
    ∃ q, o = some q ∧ p q := by
  cases o with
  | none => simp at h
  | some q => exact ⟨q, rfl, by simpa using h⟩

/-! ## Register instructions: hypotheses that can be met -/

theorem witness_InBounds : InBounds base [0, 1, 15, 63] ∧ Plain base base.who := by decide +kernel

theorem witness_IntegerResults : InBounds base [63, 0, 1] := by decide +kernel

/-- Each of SEL's four registers as the first that fails, in an allotment of 16. -/
theorem witness_SelectChooses :
    InBounds base [63, 0, 1, 2] ∧
    (let s := onMe (withRegs base []) fun x => { x with allot := 16 }
     Trappable s ∧ ([16, 17, 18, 19].find? fun q : SReg => decide (s.me.allot.toNat ≤ q.toNat)) = some 16 ∧
      ([15, 16, 0, 1].find? fun q : SReg => decide (s.me.allot.toNat ≤ q.toNat)) = some 16 ∧
      ([15, 0, 63, 1].find? fun q : SReg => decide (s.me.allot.toNat ≤ q.toNat)) = some 63 ∧
      ([15, 0, 1, 63].find? fun q : SReg => decide (s.me.allot.toNat ≤ q.toNat)) = some 63) := by decide +kernel

theorem witness_CompareAndImmediate : InBounds base [63, 0, 1] ∧ InBounds base [0, 63] := by decide +kernel

theorem witness_FloatResults :
    InBounds base [63, 0, 1, 2] ∧ (Instr.fcvt .bf16 .fp32 63 0).wellFormed = true ∧
    (let e := Env.of 8
     let inf := 0x7F800000
     isNan32 (f32Sub e inf inf).1 ∧ isNan32 (f32Add e inf 0xFF800000).1 ∧ isNan32 (f32Mul e inf 0).1 ∧
     isNan32 (f32Div e 0 0).1 ∧ isNan32 (f32Sqrt e 0xBF800000).1 ∧ isNan32 (f32Fma e inf 0 0x7FC00001).1 ∧
     isNan32 (f32Min e 0x7FC00001 0x7FC00000).1 ∧ isNan32 (f32Max e 0x7FC00001 0x7FC00000).1) := by decide +kernel

/-- Targets at both ends: the next word, the last word below 2^52, the first address beyond, and a misaligned one. -/
theorem witness_ControlTransfers :
    InBounds base [15, 0, 63] ∧ GoodTarget (offTarget base.me.pc 1#24) ∧
    (let s := onMe (withRegs base [(1, 0xFFFFFFFFFFFFC), (15, 0xFFFFFFFFFFFFC)]) fun x => { x with pc := 0xFFFFFFFFFFFFC }
     GoodTarget (s.me.rs 1) ∧ GoodTarget (s.me.rs 15) ∧ Trappable s ∧ InBounds s [0, 1, 15] ∧
      ¬ GoodTarget (offTarget s.me.pc 1#24)) ∧
    (let s := withRegs base [(1, 0x1002), (15, 0x10000000000000)]
     Trappable s ∧ ¬ GoodTarget (s.me.rs 1) ∧ ¬ GoodTarget (s.me.rs 15)) ∧
    (let s := withRegs base [(1, 5)]
     (BitVec.ofInt 64 ((s.me.rs 1).toNat - 1) : Word).toNat ≠ 0 ∧ GoodTarget (offTarget s.me.pc (-1 : BitVec 12))) := by
  decide +kernel

/-- HSET of the largest DIM0; HSLICE to the end of a dimension; HADV to the largest OFF. -/
theorem witness_HandleResults :
    (let s := withRegs base [(1, 0xFFFF), (2, 0x20003), (3, 0xFFFFFFFFFFFF), (4, 0)]
     let h : HandleWord := putBits (putBits (putBits handleReset 88 1 1) 96 16 5) 160 24 1
     let t := onMe s fun x => x.wh 1 h
     hsetOk .dim0 (s.me.rs 1) = true ∧
     (∀ j, j < 256 → (putBits handleReset 96 16 0xFFFF).getLsbD j =
       if HField.dim0.pos.1 ≤ j ∧ j < HField.dim0.pos.1 + HField.dim0.pos.2 then (s.me.rs 1).getLsbD (j - HField.dim0.pos.1)
       else (s.me.rh 2).getLsbD j) ∧
     hVal (t.me.rh 1) = true ∧ (s.me.rs 2).toNat % 2 ^ 16 + (s.me.rs 2).toNat / 2 ^ 16 ≤ hDim (t.me.rh 1) 0 ∧
     0 ≤ (hOff h : Int) + (s.me.rs 3).toInt * hStr h 0 ∧ (hOff h : Int) + (s.me.rs 3).toInt * hStr h 0 < 2 ^ 48) := by
  decide +kernel

theorem witness_GroupsAndAllotment :
    InBounds base [63] ∧ Plain base base.who ∧ (∀ n ∈ [8#7, 64#7], n.toNat % 8 = 0 ∧ 8 ≤ n.toNat ∧ n.toNat ≤ 64) := by
  decide +kernel

/-! ## Memory -/

/-- The local window's last word with the bank a SCRATCH bank of the team's, and without; the peer windows; below and at 2^48. -/
theorem witness_AddressCheck :
    (let s := onMe (onCore base fun c => { c with bankrole := 0x5555555555555555 }) fun x => { x with bankown := 0xFFFFFFFF }
     (s.core s.who.core).bankrole.toNat / 4 ^ (0x1FFFF8 / 65536) % 4 = 1 ∧ s.me.bankown.getLsbD (0x1FFFF8 / 65536) = true ∧
     (reach s 0x1FFFF8 8 .read).isSome = true ∧ (reach s 0x01FFFFF8 8 .write).isSome = false ∧
     (reach s 0x01000000 8 .write).isSome = true ∧ (reach base 0x1FFFF8 8 .read).isSome = false ∧
     place (s.xlate s.me.slot page.toNat .both) = some 0x200000 ∧ fault (s.xlate s.me.slot (2 ^ 48) .read) = some 0) := by
  decide +kernel

/-- Beside the placed page, a leaf of 2^30 bytes at level 1 and one of 64 KiB at level 3, and an entry of each level that is not
valid. -/
def walked : State :=
  let e := fun (m : List Host.Cell) (a v : Nat) => cellsWrite m a (leBytes 8 v)
  { base with mem := e (e (e base.mem 0x21010 0x22001) 0x22000 0x40000F) 0x20010 0x4000000F }

theorem witness_Translation :
    State.reset.slots[0].troot.getLsbD 0 = false ∧ walked.slots[0].troot.getLsbD 0 = true ∧
    (∀ h ∈ walked.tlb, ¬ (h.slot = 0 ∧ h.page = page.toNat / 65536)) ∧ walked.pageMapped 0x40000000 (2 ^ 30) = true ∧
    (let entry := fun (table k : Nat) => leNat (cellsRead walked.mem (table + 8 * k) 8)
     entry 0x10000 (2 ^ 48 / 2 ^ 39) = 0x20001 ∧ entry 0x10000 (2 ^ 48 / 2 ^ 39 + 1) = 0 ∧ entry 0x20000 0 = 0x21001 ∧
     entry 0x20000 1 = 0 ∧ entry 0x20000 2 = 0x4000000F ∧ entry 0x21000 1 = 0x20001F ∧ entry 0x21000 2 = 0x22001 ∧
     entry 0x22000 0 = 0x40000F) ∧
    place (walked.xlate 0 page.toNat .exec) = some 0x200000 ∧ fault (walked.xlate 0 (2 ^ 48 + 2 ^ 30) .read) = some 0 ∧
    fault (walked.xlate 0 (2 ^ 48 + 2 ^ 39) .read) = some 0 ∧ place (walked.xlate 0 (2 ^ 48 + 2 ^ 31 + 7) .read) = some 0x40000007 ∧
    place (walked.xlate 0 (2 ^ 48 + 0x400005) .both) = some 0x400005 ∧ fault (walked.xlate 0 (2 ^ 48 + 0x400005) .exec) = some 3 := by
  decide +kernel

theorem witness_Loads :
    (∀ f ∈ loadForms (withRegs base [(2, page)]) 1 2 3 8, ∃ q, reach (withRegs base [(2, page)]) f.2.1 f.2.2 .read = some q ∧
      (Clear (withRegs base [(2, page)]) f.2.2 q ∧ Unwatched (withRegs base [(2, page)]) f.2.1 f.2.2 q ∧
        (withRegs base [(2, page)]).isSw q.2 = false)) := by
  intro f hf
  refine ex_of_any ?_
  revert f
  decide +kernel

/-- LDA of the last eight bytes of the placed page's 64 KiB. -/
theorem witness_Loads_acquire :
    ∃ q, reach (withRegs base [(2, page + 0xFFF8)]) (page + 0xFFF8) 8 .read = some q ∧
      (Clear (withRegs base []) 8 q ∧ (withRegs base []).isSw q.2 = false) := ex_of_any (by decide +kernel)

theorem witness_Stores :
    Memory.wf (withRegs base [(2, page)]) = true ∧ HeldPages (withRegs base [(2, page)]) ∧
    ∀ f ∈ storeForms (withRegs base [(2, page)]) 1 2 3 8, ∃ q, reach (withRegs base [(2, page)]) f.2.1 f.2.2 .write = some q ∧
      (Clear (withRegs base [(2, page)]) f.2.2 q ∧ Unwatched (withRegs base [(2, page)]) f.2.1 f.2.2 q ∧
        (withRegs base [(2, page)]).isSw q.2 = false ∧ HasRoom (withRegs base [(2, page)]) q.2 ∧
        Quiet (withRegs base [(2, page)])) := by
  refine ⟨by decide +kernel, by decide +kernel, fun f hf => ex_of_any ?_⟩
  revert f
  decide +kernel

/-- The placed page in software-managed mode, with a clean copy of its first line and a dirty one of its second. -/
def managed : State :=
  onCore { withRegs base [(2, page)] with swPages := [32], dirty := [(0x4001, 0)] } fun c =>
    { c with l1 := [{ line := 0x4000, dirty := false, bytes := List.replicate 128 7 },
                    { line := 0x4001, dirty := true, bytes := List.replicate 128 9 }] }

/-- What the clauses of SoftwareManagedPages assume of an address. -/
abbrev Managed (a : Word) : Prop := ∃ q, reach managed a 8 .both = some q ∧
  (Clear managed 8 q ∧ Unwatched managed a 8 q ∧ managed.isSw q.2 = true ∧ HasRoom managed q.2 ∧
    (managed.core (managed.l1Home managed.who.core q.2)).caches = true)

theorem witness_SoftwareManagedPages :
    InBounds managed [1, 2, 3] ∧ Plain managed managed.who ∧ Memory.wf managed = true ∧ HeldPages managed ∧
    (let here := (managed.core managed.who.core).l1
     (here.find? fun m => m.line == (0x200008 : Nat) / 128) = some ⟨0x4000, false, List.replicate 128 7⟩ ∧
     (here.find? fun m => m.line == (0x200088 : Nat) / 128) = some ⟨0x4001, true, List.replicate 128 9⟩ ∧
     ∀ l ∈ here, l.line ≠ 0x200108 / 128) ∧ managed.l1Home managed.who.core 0x200008 = managed.who.core := by decide +kernel

theorem witness_SoftwareManagedPages_addresses : Managed (page + 8) ∧ Managed (page + 0x88) ∧ Managed (page + 0x108) :=
  ⟨ex_of_any (by decide +kernel), ex_of_any (by decide +kernel), ex_of_any (by decide +kernel)⟩

theorem witness_HandleLoadsAndStores :
    ∃ q, reach (withRegs base [(2, page)]) (page + 32) 32 .both = some q ∧
      (Clear (withRegs base []) 32 q ∧ Unwatched (withRegs base []) (page + 32) 32 q ∧
        (withRegs base []).isSw q.2 = false ∧ HasRoom (withRegs base []) q.2) := ex_of_any (by decide +kernel)

theorem witness_Atomics :
    (∀ n ∈ [4, 8], ∃ q, reach (withRegs base [(2, page)]) page n .both = some q ∧ Clear (withRegs base []) n q) ∧
    InBounds (withRegs base [(2, page)]) [1, 2, 3] ∧ Quiet (withRegs base []) ∧ Memory.wf (withRegs base []) = true ∧
    HeldPages (withRegs base []) := by
  refine ⟨fun n hn => ex_of_any ?_, by decide +kernel, by decide +kernel, by decide +kernel, by decide +kernel⟩
  revert n
  decide +kernel

/-! ## Objects and requests of a small launch -/

/-- A device-memory object of this package of 256 elements of INT64 at the placed page, whole on its one axis. -/
def obj0 : Obj :=
  { kind := 1, fenced := false, detect := false, rd := true, wr := true, usc := false, wc := 0, fmt := 0xC1, ndim := 1, place := 0
    msize := 1, midx := 0, base := page, size := 256, scale := 0, poolid := 0, node := 0, captag := 0, dims := 256
    strides := 1, tiles := 0, domain := 5, mesh := #v[[0], [], [], []], flight := 0, sealed := 0, begun := 0, status := 0
    nan := false, axis := 0, num := 0, missing := 0, codebooks := Vector.replicate 4 none }

/-- A team of one member at core 0, context 0. -/
def team0 : Team :=
  { id := 1, launch := 1, num := 0, phase := .placed, members := [.at { core := 0, ctx := 0 }], coreGroups := [[0]], die := 0
    waitFrom := 0, waitSeq := 0, quantumFrom := 0, gatherAt := 0, carries := Vector.replicate 8 0, finals := [], region := none
    seam := none, held := [], credFaults := [], quantum := 2000000, cls := 0, groups := 1, banks := 0 }

def desc0 : Desc :=
  { addr := page, entry := page, handler := 0, allot := 64, team := 1, depth := 1, bankreq := 0, bankroles := 0, barreq := 0
    ext := [1], liveoff := 0, livecnt := 0 }

def launch0 : Launch :=
  { id := 1, slot := 0, seq := 1, ring := true, offset := 0, cmpla := none, desc := desc0, ext := [1], objs := [some obj0]
    groups := [(1, 1)], live := [], tmpls := [], args := 0, req := 0, step := 0, deps := [], phase := .running, readyAt := 0
    readyGtc := 0, cut := 1, total := 1, status := 0, memberErr := false, credit := none, lastDie := 7 }

/-- `base` with a launch that has these objects, run by the issuing context with these registers. -/
def world (os : List Obj) (vs : List (Nat × Word)) : State :=
  onMe { withRegs base vs with launches := [{ launch0 with objs := os.map some }], teams := [team0], nextId := 9 } fun x =>
    { x with team := some 1, s := Vector.ofFn fun k : Fin 64 => (vs.lookup k.val).getD 0, traphnd := 0x1000 }

/-- A valid handle of object `n`, readable and writable, of 256 elements. -/
def handle (n : Nat) (fmt : Nat) : HandleWord :=
  putBits (putBits (putBits (putBits (putBits handleReset 0 16 n) 80 8 fmt) 88 3 7) 96 64 0x0001000100010100) 160 24 1

/-- `world` with handle H1 of object 0. -/
def holding (os : List Obj) (vs : List (Nat × Word)) (fmt : Nat) : State := onMe (world os vs) fun x => x.wh 1 (handle 0 fmt)

/-- A request of the issuing context's. -/
def req0 (kind : ReqKind) : Req :=
  { id := 4, who := { core := 0, ctx := 0 }, team := some 1, slot := 0, obj := 0, elem := 0
    ref := { key := .dev 1 page, node := 1, scratch := false, addr := 0x0001000000300000, token := none, captag := 0 }
    kind := kind, station := none, sent := true, fill := false, bkoff := 200, bklim := 12, attempts := 0, due := none, pc := page }

def post0 : ReqKind := .pst [1] (req0 .lsrel).ref

/-- A PST to the own package. -/
def near0 : Req := { req0 post0 with ref := { (req0 .lsrel).ref with key := .dev 0 page, node := 0 } }

theorem witness_FencesAndReleases :
    (let s := world [obj0] []
     Plain s s.who ∧ Quiet s ∧ Trappable s) ∧
    (let s := { world [obj0] [] with reqs := [near0] }
     ∃ r ∈ s.reqs, r.who = s.who ∧ r.team = s.me.team ∧ s.servesRef r.ref = true ∧ ∃ bs f, r.kind = .pst bs f) ∧
    (let s := onMe (world [obj0] []) fun x => { x with deferred := [{ cause := Cause.route, sub := 0, addr := page, order := 3 }] }
     (∀ r ∈ s.reqs, r.who ≠ s.who) ∧ (∀ j : Fin 5, s.me.queues[j] = []) ∧ Trappable s ∧ s.me.deferred = [⟨Cause.route, 0, page, 3⟩]) := by
  refine ⟨by decide +kernel, ⟨near0, ?_, ?_, ?_, ?_, _, _, rfl⟩, by decide +kernel⟩
  · simp
  · decide +kernel
  · decide +kernel
  · decide +kernel

theorem witness_Flushes :
    (let s := onMe (withRegs managed [(1, page), (2, 256), (3, 0xFFFFFFFFFFFFFFFF), (4, 0)]) fun x => x
     InBounds s [1, 2] ∧ Plain s s.who ∧ (s.me.rs 2).toNat ≠ 0 ∧ (s.me.rs 1).toNat + (s.me.rs 2).toNat ≤ 2 ^ 64 ∧
     s.fused.getLsbD (s.who.core.val / 8) = false ∧ Memory.wf s = true ∧
     lineIn (s.leaves s.me.slot) (s.me.rs 1).toNat (s.me.rs 2).toNat 0x4001 = true ∧
     2 ^ 64 < (s.me.rs 3).toNat + (s.me.rs 2).toNat ∧ Trappable s ∧ (s.me.rs 4).toNat = 0) := by decide +kernel

/-- Copies of whole lines, in every core. -/
theorem witness_HeldLines : ∀ c ∈ [0, 1, 511], ∀ l ∈ (managed.core c).l1, l.bytes.length = 128 ∧ l.line < 2 ^ 41 := by
  decide +kernel

/-- A lease of the placed page's first line by the issuing context, with its counter at `stop`. -/
def lease0 (who : Who) (stop : Option Nat) : LineReq :=
  { who := who, line := page, phys := 0x4000, stop := stop, access := false, req := none, inbound := false }

theorem witness_LineLeases :
    (let s := withRegs base [(1, page)]
     InBounds s [1] ∧ Plain s s.who ∧ QueueForm s ∧ (s.me.rs 1).toNat % 128 = 0 ∧ 2 ^ 48 ≤ (s.me.rs 1).toNat ∧ s.me.leasemax ≠ 0 ∧
     (s.lineq.filter fun l => l.who == s.who && !l.access) = [] ∧ (reach s page 1 .write).isSome = true ∧
     (∀ x ∈ (s.core s.who.core).ctx.toList, x.blocked = none) ∧ Trappable s ∧ s.me.expired = false) ∧
    (let s := { withRegs base [(1, page)] with lineq := [lease0 { core := 1, ctx := 0 } (some 5)] }
     ∃ l ∈ s.lineq, l.phys = 0x4000 ∧ ∃ c, l.stop = some c ∧ s.cycle < c) ∧
    (let s := { withRegs base [(1, page + 127)] with lineq := [lease0 { core := 0, ctx := 0 } (some 5)] }
     (s.lineq.filter fun l => l.who == s.who && !l.access) = [lease0 { core := 0, ctx := 0 } (some 5)] ∧ s.cycle < 5 ∧
     page = s.me.rs 1 &&& ~~~127#64) ∧
    (let s := onMe (withRegs base [(1, page + 1)]) fun x => { x with expired := true }
     Trappable s ∧ s.me.expired = true ∧ (s.me.rs 1).toNat % 128 ≠ 0) := by
  refine ⟨by decide +kernel, ⟨_, List.mem_singleton.mpr rfl, rfl, 5, rfl, by decide +kernel⟩, by decide +kernel, by decide +kernel⟩

theorem witness_LineEvents :
    (let l := lease0 { core := 0, ctx := 0 } none
     let s := { onMe base fun x => { x with run := .waiting, blocked := some .lineLease } with lineq := [l] }
     (s.ctxOf l.who).blocked = some .lineLease ∧ (s.lineq.filter fun k => k.who == l.who && !k.access) = [l] ∧
     (s.lineq.filter fun k => k.phys == l.phys).head? = some l) ∧
    (let l := lease0 { core := 0, ctx := 0 } (some 0)
     let s := { base with lineq := [l] }
     QueueForm s ∧ (s.lineq.filter fun k => k.who == l.who && !k.access) = [l] ∧ l.stop = some 0 ∧ 0 ≤ s.cycle) ∧
    (let s := onCore managed fun c => { c with dirtylim := 1 }
     s.dirty.find? (fun e => e.2 == 0) = some (0x4001, 0) ∧ s.dirty.Nodup ∧ (s.core 0).limit ≤ s.dirtyCount 0) := by
  refine ⟨by decide +kernel, by decide +kernel, by decide +kernel⟩

theorem witness_PageModes :
    (let s := withRegs base [(1, page), (2, 65536), (3, 0), (4, 1)]
     InBounds s [1, 2] ∧ (s.me.rs 2).toNat = 65536 ∧ (s.me.rs 1).toNat % 65536 = 0 ∧ HeldPages s ∧ Memory.wf s = true ∧
     (reach s (s.me.rs 1) 1 .write).isSome = true ∧ s.lineq = [] ∧ (s.me.rs 3).toNat = 0 ∧ (s.me.rs 4).toNat % 65536 ≠ 0 ∧
     Trappable s) := by decide +kernel

/-- A codebook of zeros, and one whose entry 15 is out of range. -/
theorem witness_Codebooks :
    (let o := { obj0 with fmt := 0x23 }
     let s := holding [o] [(1, page + 32)] 0x23
     InBounds s [1] ∧ Plain s s.who ∧ s.objOf s.me (hObj (s.me.rh 1)) = some o ∧ hVal (s.me.rh 1) = true ∧ hWr (s.me.rh 1) = true ∧
     s.loadWaits (s.launchId s.me) 0 = [] ∧ (o.fmt = 0x23#8) ∧ Trappable s ∧ Memory.wf s = true ∧
     ((reach s (page + 32) 32 .read).any fun q => decide (Clear s 32 q ∧ Unwatched s (page + 32) 32 q ∧ q.2 = 0x200020)) = true ∧
     ∀ k : Fin 16, leNat (s.rawRead (0x200020 + 2 * k.val) 2) = 0) := by decide +kernel

theorem witness_ElementOffsets :
    (let h := handle 0 0xC1
     let get := fun n : Nat => if n = 0 then some obj0 else none
     h.getLsbD 88 = true ∧ handleReset.getLsbD 88 = false ∧ get (hObj h) = some obj0 ∧ get (hObj (handle 1 0xC1)) = none ∧
     viewOk (hView h) obj0 = true ∧ fmtOk (hFmt h).toNat (hWc h) (hUsc h) = true ∧
     (∀ k : Fin 4, hDim h k.val ≠ 0) ∧ hDim h 0 ≤ 256 ∧ obj0.size.toNat = 256) := by decide +kernel

theorem witness_SealsAndPlaces :
    (let s := onMe (holding [obj0] [] 0xC1) fun x => x.wh 1 (putBits (x.rh 1) 16 4 0)
     Plain s s.who ∧ hVal (s.me.rh 1) = true ∧ s.objOf s.me (hObj (s.me.rh 1)) = some obj0 ∧
     (∀ a : Fin 4, (1#4).getLsbD a.val = true → obj0.axisSize a.val ≠ 0) ∧ s.convs = [] ∧ Quiet s ∧
     ∀ a : Fin 4, ¬ ((1#4).getLsbD a.val = true ∧ (hView (s.me.rh 1)).extractLsb' (4 * a.val) 4 ≠ 15 ∧
       (hView (s.me.rh 1)).extractLsb' (4 * a.val) 4 ≠ obj0.place.extractLsb' (4 * a.val) 4)) := by decide +kernel

theorem witness_ObjectQueries :
    (let s := holding [obj0] [] 0xC1
     InBounds s [63] ∧ hVal (s.me.rh 1) = true ∧ s.objOf s.me (hObj (s.me.rh 1)) = some obj0) := by decide +kernel

/-- Object 0 of another package, with no station that carries its requests, and with one. -/
def far : Obj := { obj0 with node := 1 }

/-- `s` with its station 0 UP. -/
def linked (s : State) : State := { s with
  stations := s.stations.set 0 { s.stations[0] with en := true, state := .up, wasUp := true, matched := true, txkey := some 1, rxkey := some 1, pstn := 1 }
  mgmt := { s.mgmt with stnid := 7 } }

theorem witness_PostedStores :
    (∀ s ∈ [holding [far] [(1, 255), (2, 5)] 0xC1, linked (holding [far] [(1, 255), (2, 5)] 0xC1)],
      InBounds s [1, 2] ∧ Plain s s.who ∧ elem s (s.me.rh 1) (s.me.rs 1) .d false true = some (far, 255) ∧
      elem s (s.me.rh 1) 0 .d false true = some (far, 0) ∧ far.unmet (hView (s.me.rh 1)) = [] ∧ far.flight = 0#4 ∧ s.postCount s.who < 64 ∧
      InWindow s far 255 8 .write ∧ InWindow s far 0 8 .both ∧ s.replayCount s.who < 16 ∧ s.touchedRef s.me (s.elemRef far 255) 8 = []) ∧
    (holding [far] [] 0xC1).noRoute ((holding [far] [] 0xC1).elemRef far 255) = true ∧
    (linked (holding [far] [] 0xC1)).noRoute ((linked (holding [far] [] 0xC1)).elemRef far 255) = false := by decide +kernel

/-- A pool object, a lease of it, and its first page cached. -/
def pooled : Obj := { obj0 with kind := 0, poolid := 3, base := 0 }

def cached (s : State) : State := { s with
  holds := [{ key := .pool 3, count := 1, stop := 0xFFFFFFFFFFFF, token := 4 }]
  cache := [{ poolid := 3, page := 0, state := .valid, data := [], fetch := none }] }

theorem witness_PoolLoadsAndAtomics :
    (let s := cached (holding [pooled] [(2, 255)] 0xC1)
     InBounds s [1, 2] ∧ Plain s s.who ∧ elem s (s.me.rh 1) (s.me.rs 2) .d true false = some (pooled, 255) ∧
     pooled.unmet (hView (s.me.rh 1)) = [] ∧ s.writePending s.who (s.elemRef pooled 255) 8 = false ∧
     s.leaseCurrent (.pool 3) = true ∧ (s.cachePage 3 (pooled.byteOf 255 / 65536)).isSome = true) ∧
    (let s := linked (holding [far] [(2, 255)] 0xC1)
     elem s (s.me.rh 1) (s.me.rs 2) .d true false = some (far, 255) ∧ far.unmet (hView (s.me.rh 1)) = [] ∧
     s.writePending s.who (s.elemRef far 255) 8 = false ∧ s.touchedRef s.me (s.elemRef far 255) 8 = [] ∧ far.kind = 1#2 ∧ InWindow s far 0 8 .both ∧
     s.noRoute (s.elemRef far 255) = false ∧ elem s (s.me.rh 1) 0 .d true true = some (far, 0) ∧
     hFmt (s.me.rh 1) = 0xC1#8 ∧ far.flight = 0#4 ∧ Quiet s ∧ s.noRoute (s.elemRef far 0) = false) := by decide +kernel

/-- An element of a scratch region. -/
theorem witness_PoolLoads_scratch :
    (let o := { obj0 with kind := 2, base := 64 }
     let s := onMe (onCore (holding [o] [(2, 255)] 0xC1) fun c => { c with bankrole := 1 }) fun x => { x with bankown := 1 }
     let a : Word := BitVec.ofNat 64 (o.byteOf 255)
     elem s (s.me.rh 1) (s.me.rs 2) .d true false = some (o, 255) ∧ o.unmet (hView (s.me.rh 1)) = [] ∧
     ((reach s a 8 .read).any fun q => decide (Clear s 8 q ∧ Unwatched s a 8 q ∧ s.isSw q.2 = false)) = true) := by decide +kernel

theorem witness_PoolLeases :
    (let s := linked (cached (holding [pooled] [] 0xC1))
     InBounds s [1] ∧ Plain s s.who ∧ hVal (s.me.rh 1) = true ∧ s.objOf s.me (hObj (s.me.rh 1)) = some pooled ∧
     s.noRoute (s.elemRef pooled 0) = false ∧ Quiet s ∧ s.reqs = [] ∧ (s.heldNow (s.objKey pooled)).map (·.count) = some 1) ∧
    (let s := { linked (holding [pooled] [] 0xC1) with holds := [{ key := .pool 3, count := 2, stop := 0xFFFFFFFFFFFF, token := 4 }] }
     (s.heldNow (s.objKey pooled)).map (·.count) = some 2) ∧
    (let s := linked (holding [pooled] [] 0xC1)
     s.heldNow (s.objKey pooled) = none) := by decide +kernel

/-- A state in which the request waits for its answer. -/
def awaiting (r : Req) : State :=
  { onMe (world [far] []) fun x => { x with blocked := some (.remote 4) } with reqs := [r] }

theorem witness_RemoteAnswers :
    (∀ k ∈ [ReqKind.pld 1 8, .patom 1 .add true 1 1, .lsacq 1 5000, .lsrel, post0],
      let r := req0 k
      let s := awaiting r
      s.reqs.find? (fun q => q.id == r.id) = some r ∧ r.due = none ∧ r.fill = false ∧ r.sent = true ∧ s.servesRef r.ref = false ∧ s.behindPst r = false ∧
      s.replayCount r.who < 16 ∧ (∀ q ∈ s.reqs, q.fill = false) ∧ s.convs = [] ∧
      (s.ctxOf r.who).team = r.team ∧ (s.ctxOf r.who).blocked = some (.remote r.id) ∧ (s.ctxOf r.who).run = .active ∧
      s.holdOf r.ref.key = none ∧ r.isSlot = false ∧ r.attempts < r.bklim ∧ (s.ctxOf r.who).ended = false ∧
      (s.ctxOf r.who).mode = .user ∧ (s.ctxOf r.who).traphnd ≠ 0 ∧ Plain s r.who) ∧
    { req0 (.pld 1 8) with attempts := 12 }.bklim ≤ { req0 (.pld 1 8) with attempts := 12 }.attempts := by decide +kernel

theorem witness_PoolEvents :
    (let r := { req0 (.pld 1 8) with due := some 10 }
     let s := linked (awaiting r)
     s.gtc.toNat < 10 ∧ 10 ≤ ({ s with gtc := 10 }).gtc.toNat ∧ s.noRoute r.ref = false ∧ s.servesRef r.ref = false ∧
     ∀ q ∈ s.reqs, q.id = r.id → q = r) ∧
    (let r : Req := { req0 (.pld 1 8) with fill := true, ref := { key := .pool 3, node := 1, scratch := false, addr := 65528, token := none, captag := 0 } }
     let c : CachePage := { poolid := 3, page := 0, state := .filling [], data := [], fetch := some { id := 2, node := 1, captag := 0, station := none, sent := true } }
     let s := { cached (awaiting r) with cache := [c] }
     s.cachePage 3 0 = some c ∧ s.leaseCurrent (.pool 3) = true ∧ s.prefetch = [] ∧ s.fillReqs 3 0 = [r] ∧ r.due = none ∧ s.writePending r.who r.ref 8 = false ∧ s.waitsFor r = true ∧ s.convs = [] ∧
     (s.ctxOf r.who).run = .active ∧ r.ref.addr % 65536 + 8 ≤ 65536) ∧
    (let c : CachePage := { poolid := 3, page := 0, state := .fetching, data := [], fetch := none }
     ({ base with cache := [c] }).cachePage 3 0 = some c) ∧
    (let s := { base with holds := [{ key := .pool 3, count := 1, stop := 0, token := 4 }] }
     ∃ h ∈ s.holds, h.key = .pool 3 ∧ h.stop.toNat ≤ s.gtc.toNat + s.guardNs) := by
  refine ⟨by decide +kernel, by decide +kernel, by decide +kernel, ⟨_, List.mem_singleton.mpr rfl, rfl, by decide +kernel⟩⟩

/-! ## Requests, conversions and barriers -/

theorem witness_ServedRequests :
    base.mgmt.pkghlt = false ∧ base.inbox = [] ∧ base.lineq = [] ∧ (∀ k ∈ [0, 31, 63], (base.stations[(k : Fin 64)]).state ≠ .keyexh) ∧
    Memory.wf base = true ∧ HeldPages base ∧ 2 ^ 48 ≤ page.toNat ∧ (page.toNat + 0xFFF8) % 65536 + 8 ≤ 65536 ∧ base.ownNode = 0 ∧
    place (base.xlate 0 page.toNat .write) = some 0x200000 ∧ place (base.xlate 0 (page.toNat + 0xFFF8) .both) = some 0x20FFF8 ∧
    (base.xlate 0 page.toNat .write).1.poisoned 0x200000 16 = false ∧
    place ((base.xlate 0 page.toNat .write).1.xlate 0 (page.toNat + 64) .both) = some 0x200040 ∧
    (∀ e ∈ base.leases, e.base ≠ page) ∧ base.leases.length < 1024 ∧
    (let e : LeaseEntry := { base := page, stop := 9, token := 2, holder := some 3 }
     let s := { base with leases := [e] }
     s.leases.find? (fun f => f.base == page) = some e ∧ s.gtc.toNat < e.stop.toNat) ∧
    (let e : LeaseEntry := { base := page, stop := 9, token := 2, holder := none }
     ({ base with leases := [e] }).leases.find? (fun f => f.base == page) = some e) := by decide +kernel

/-- A scale word's place beside its payload's; a link in KEYEXH; and a halted package with room in its queue. -/
theorem witness_ServedRequests_held :
    place (base.xlate 0 page.toNat .write) = some 0x200000 ∧ place ((base.xlate 0 page.toNat .write).1.xlate 0 (page.toNat + 256) .write) = some 0x200100 ∧
    (({ base with stations := base.stations.set 63 { base.stations[63] with state := .keyexh } } : State).stations[(63 : Fin 64)]).state = .keyexh ∧
    (let s := { base with mgmt := { base.mgmt with pkghlt := true } }
     s.stations[(63 : Fin 64)].state ≠ .keyexh ∧ s.mgmt.pkghlt = true ∧ s.lineq = [] ∧ s.inbox.length ≤ Config.ingressHalf) := by
  refine ⟨by decide +kernel, by decide +kernel, by decide +kernel, by decide +kernel, by decide +kernel, by decide +kernel, ?_⟩
  exact Nat.zero_le _

/-- A road that goes round to the last station, no road, and a direct lane. -/
theorem witness_RelaysAndRoutes :
    (linked base).quietLane 5 = false ∧ (linked base).planeOf 5 63 = some 0 ∧ base.planeOf 5 0 = none ∧
    (let s := { base with stations := base.stations.set 63 { base.stations[63] with state := .up, lane := true, pmem := true }
                          mgmt := { base.mgmt with dlroute := base.mgmt.dlroute.set 0 129035 } }
     (s.mgmt.dlroute.toList.find? fun e => e.getLsbD 0 && !(5 : BitVec 11).getLsbD 10 && e.toNat / 2 % 1024 == (5 : BitVec 11).toNat % 1024) =
       some 129035 ∧ s.stations[63].live = true ∧ s.stations[63].lane = true) := by decide +kernel

/-- A relayed request that waits for its answer, and a link in KEYEXH. -/
theorem witness_Relays_answers :
    (let r : RelayRec := { id := 3, src := 9, page := 2, station := 0 }
     ({ base with relays := [r] }).relays.find? (fun q => q.id == r.id) = some r) ∧
    (({ base with stations := base.stations.set 0 { base.stations[0] with state := .keyexh } } : State).stations[(0 : Fin 64)]).state = .keyexh ∧
    ((linked base).stations[(0 : Fin 64)]).state ≠ .keyexh := by decide +kernel

/-- A lane that is quiescing is answered receiver-not-ready. -/
theorem witness_Relays_quiet :
    (let s := { linked base with stations := (linked base).stations.set 0 { (linked base).stations[0] with state := .quiescing, lane := true }
                                 mgmt := { (linked base).mgmt with dlroute := base.mgmt.dlroute.set 0 11 } }
     s.quietLane 5) = true := by decide +kernel

def key0 : ConvKey := { domain := 5, axis := 0, num := 1 }

/-- A conversion of object 0 whose START has come, and its home's record. -/
def conv0 : Conv :=
  { key := key0, launch := 1, obj := 0, sealed := true, start := some (0, .keep), sent := true, staged := [] }

def home0 : Home := { key := key0, target := some 0, sealed := 1, started := true, missing := 0, since := 0, asks := [] }

theorem witness_ConversionMessages :
    (let s := world [obj0] []
     s.domainObj { key0 with domain := 6 } = none ∧ (s.domainObj key0).map (·.2) = some (0, obj0) ∧ obj0.isHome 0 = true ∧ s.homes = [] ∧
     (s.stage key0 (obj0.chunkItems 0 [1, 2, 3, 4, 5, 6, 7, 8])).stagesWithin = true ∧ s.stale obj0 key0 = false) ∧
    (let o := { obj0 with msize := 2, midx := 1, mesh := #v[[0, 1], [], [], []] }
     let s := { world [o] [] with convs := [conv0] }
     o.isHome 0 = false ∧ o.reachable 0 0 = true ∧ methodFits (o.state 0) 0 .keep = true ∧ (s.domainObj key0).map (·.2) = some (0, o) ∧
     s.convOf key0 = some conv0 ∧ ((s.launchAt 1).bind fun l => l.obj 0) = some o ∧ conv0.complete o = true ∧ s.homeFor key0 = none) ∧
    (let o := { obj0 with msize := 2, mesh := #v[[0, 1], [], [], []] }
     (1 : Fin 64).val < o.axisSize 0 ∧ o.isHome 0 = true ∧ isPartial (o.state 0) = false) ∧
    (let s := { world [obj0] [] with homes := [home0], gtc := 1000000000 }
     home0.started = true ∧ s.homeFor key0 = some home0 ∧ (1 : Word) ||| home0.missing ≠ 0 ∧
     home0.since + s.cvtmoNs * obj0.chunksOf 0 (home0.target.getD 0) 0 ≤ s.gtc.toNat) := by decide +kernel

/-- Object 0 as a partial sum over two members. -/
def sum0 : Obj := { obj0 with msize := 2, mesh := #v[[0, 1], [], [], []], place := 8, fmt := 0xA1 }

def ask0 : SlotAsk :=
  { id := 4, plane := 0, name := none, attempts := 0, due := none, what := { nidx := 2, rop := 0, fmt := 0xA1, len := 1024, tmo := 20, dest := none } }
def asking : Home := { home0 with started := false, asks := [ask0] }

theorem witness_ConversionMessages_slots :
    (let s := linked (world [sum0] [])
     sum0.state 0 ≠ 0 ∧ isPartial (sum0.state 0) = true ∧ sum0.reduceChunks 0 0 = [((0, 256), none)] ∧ s.stale sum0 key0 = false ∧
     s.mgmt.pkghlt = false ∧ (s.domainObj key0).map (·.2) = some (0, sum0) ∧ sum0.isHome 0 = true) ∧
    (let s := { linked (world [sum0] []) with homes := [asking], gtc := 5 }
     s.homeFor key0 = some asking ∧ s.reqAt 4 = none ∧ asking.target = some 0 ∧ sum0.axisSize 0 ≠ 1 ∧ (sum0.reduceChunks 0 0).length = 1 ∧
     ({ ask0 with name := some 9 } : SlotAsk).name ≠ none ∧ ({ ask0 with due := some 5 } : SlotAsk).due = some 5 ∧
     s.stations[ask0.plane].live = true) := by decide +kernel

theorem witness_ConversionMessages_plane : (linked (world [sum0] [])).slotPlane = some 0 := by
  have h : ((List.finRange 64).filter fun k => (linked (world [sum0] [])).stations[k].live && !(linked (world [sum0] [])).stations[k].lane) = [0] := by
    decide +kernel
  unfold State.slotPlane
  simp only [h, List.length_singleton, Nat.mod_one]
  rfl

/-- `base` with every barrier owned. -/
def barred (v : Barrier) : State :=
  onCore (onMe (withRegs base []) fun x => { x with barown := 0xFFFFFFFFFFFFFFFF }) fun c => { c with bar := c.bar.set 63 v }

theorem witness_Barriers :
    (let s := barred Barrier.reset
     s.me.barown.getLsbD (63#6).toNat = true ∧ EpochRoom s.me ∧ Unposted s ∧ InBounds s [62, 63] ∧ s.me.faults = [] ∧ Trappable s ∧
     ((s.core s.who.core).barAt 63).err = false ∧ ((s.core s.who.core).barAt 63).ph = false) ∧
    (let s := barred { Barrier.reset with err := true }
     ((s.core s.who.core).barAt 63).err = true) ∧
    (let s := withRegs base []
     s.me.barown.getLsbD (63#6).toNat = false ∧ Trappable s) := by decide +kernel

theorem witness_TokensAndQueueWaits :
    (let s := onMe base fun x => { x with tok := x.tok.set 5 [Clock.zero] }
     s.me.tok[Fifo.sv.num] = [Clock.zero] ∧ s.me.tok[Fifo.lm.num] = [] ∧ s.me.faults = [] ∧ s.me.tok[Fifo.sv.num].length < 16 ∧ EpochRoom s.me ∧
     Unposted s ∧ Trappable (onMe s fun x => { x with traphnd := 0x1000 })) ∧
    (let s := onMe base fun x => { x with tok := x.tok.set 5 (List.replicate 16 Clock.zero) }
     16 ≤ s.me.tok[Fifo.sv.num].length ∧ Unposted s ∧ ∀ f : Fin 6, s.me.tok[f].length ≤ 16) := by decide +kernel

/-- A command of these template fields. -/
def cmd0 (bits : TemplateBits) : Cmd :=
  { bits := bits, ser := 0, order := 0, clock := Clock.zero, phase := .queued, row := 0, credited := 0, bytes := 0, flags := 0
    checked := false, waits := [], pushed := [], idx := [], cores := [], conv := [], link := 0, placed := [], acked := [], tries := [], dues := [], msg := none }

/-- A template with these fields. -/
def tmpl (fs : List (Nat × Nat)) : TemplateBits := fs.foldl (fun t f => putBits t (16 * f.1) 16 f.2) 0

/-- `s` with one command at the head of a queue of the issuing context. -/
def queued (s : State) (q : Queue) (c : Cmd) : State := onMe s fun x => { x with queues := x.queues.set q.num [c] }

theorem witness_QueueWaits :
    (let s := queued base .vxq (cmd0 0)
     s.me.queues[Queue.vxq.num].length ≤ 32 ∧ 0 < s.me.queues[Queue.vxq.num].length ∧ s.me.faults = []) ∧
    (let f : EngFault := { queue := .vxq, order := 0, f1 := 0, cause := Cause.engine, sub := 1, val := 0 }
     let s := onMe (withRegs base []) fun x => { x with faults := [f] }
     Trappable s ∧ s.me.faults = [f]) := by decide +kernel

/-- A second member of the team, at context 1, that waits in the group barrier of both. -/
def pair : State :=
  let tm := { team0 with members := [.at { core := 0, ctx := 0 }, .at { core := 0, ctx := 1 }], coreGroups := [[0, 1]] }
  let s := { world [obj0] [] with teams := [tm], launches := [{ launch0 with groups := [(1, 1), (3, 3)] }] }
  s.setCtx { core := 0, ctx := 1 } { s.me with rank := 1, run := .waiting, blocked := some (.wait (.gbar 3)) }

theorem witness_GroupBarriers :
    (let s := pair
     Plain s s.who ∧ Unposted s ∧ (s.teamOf s.me).isSome = true ∧ (s.groupMask s.me 1).getLsbD s.me.rank = true ∧ (s.groupMask s.me 3).getLsbD 1 = true ∧
     ((s.teamOf s.me).map fun t => t.whoOf 0) = some (some s.who) ∧ EpochRoom s.me ∧ (s.groupMask s.me 2).getLsbD s.me.rank = false ∧
     Trappable s ∧ ((s.teamOf s.me).map fun t => t.whoOf 1) = some (some { core := 0, ctx := 1 }) ∧
     (s.ctxOf { core := 0, ctx := 1 }).blocked = some (.wait (.gbar 3)) ∧ ((s.teamOf s.me).map fun t => t.hasLeft 1) = some false) ∧
    (let s := pair.setCtx { core := 0, ctx := 1 } { pair.ctxOf { core := 0, ctx := 1 } with blocked := none }
     ((s.teamOf s.me).map fun t => s.gbarArrived t 3 1 1) = some false) := by decide +kernel

/-- `base` with template 0 of the vector engine valid and template 63 empty. -/
def templated : State :=
  onCore (withRegs base []) fun c =>
    { c with planes := c.planes.set 2 { c.planes[2] with active := { c.planes[2].active with tmpl := c.planes[2].active.tmpl.set 0 { valid := true, bits := 1 } } } }

theorem witness_EngineIssue :
    (let s := templated
     let w : IWord := 0x00080000
     packetOk [w] = true ∧ Plain s s.who ∧ w.getLsbD 17 = false ∧ (((s.core s.who.core).planes[2]).active.at (w.extractLsb' 26 6)).valid = true ∧
     s.me.queues[Queue.vxq.num].length + issCount [w] ≤ 32 ∧ EpochRoom s.me ∧ Trappable s ∧
     (((s.core s.who.core).planes[2]).active.at ((0xFC080000 : IWord).extractLsb' 26 6)).valid = false ∧ packetOk [w, 0xFC080000] = true ∧
     packetOk [0x000A003F] = true ∧ (63 : Nat) < s.me.allot.toNat) ∧
    (let s := onMe templated fun x => { x with queues := x.queues.set 2 (List.replicate 32 (cmd0 1)) }
     ¬ s.me.queues[Queue.vxq.num].length + issCount [0x00080000] ≤ 32) := by decide +kernel

theorem witness_EngineIssue_memory :
    ((withRegs base [(1, page), (2, page + 2)]).me.rs 1).toNat % 4 = 0 ∧ ((withRegs base [(1, page), (2, page + 2)]).me.rs 2).toNat % 4 ≠ 0 ∧
    (match (withRegs base [(1, page)]).loadWords base.who page 1 with
      | .ok r => r.2 == [0#32] && r.1.who == base.who
      | .error _ => false) = true ∧
    (let s := onMe (onCore (withRegs base [(1, 0)]) fun c => { c with bankrole := 1 }) fun x => { x with bankown := 1 }
     s.lineq = [] ∧ ∀ k ∈ [0, 254], ((reach s (s.me.rs 1 + BitVec.ofNat 64 (4 * k)) 4 .read).any fun q =>
       decide (q.2 = 2 ^ 48 + 4 * k ∧ q.1.tlb = s.tlb ∧ isDev q.2 = false ∧ s.isSw q.2 = false ∧ Clear s 4 q ∧
         Unwatched s (s.me.rs 1 + BitVec.ofNat 64 (4 * k)) 4 q)) = true) := by decide +kernel

theorem witness_TemplatePlanes :
    (let s := withRegs base [(1, page)]
     InBounds s [63, 1] ∧ Plain s s.who ∧ Memory.wf s = true ∧ Trappable s ∧
     ((reach s page 128 .read).any fun q => decide (Clear s 128 q ∧ Unwatched s page 128 q ∧ s.isSw q.2 = false)) = true) := by decide +kernel

theorem computed_crc (p : Plane) (v : IWord) : { p with crc := v }.computed = p.computed := by
  unfold Plane.computed
  rfl

theorem crc_planes (p : Plane) : (∃ q : Plane, q.crc = q.computed) ∧ ∃ q : Plane, q.crc ≠ q.computed := by
  refine ⟨⟨{ p with crc := p.computed }, (computed_crc _ _).symm⟩, ⟨{ p with crc := p.computed + 1 }, ?_⟩⟩
  intro h
  have h2 : p.computed + 1 = p.computed := h.trans (computed_crc p _)
  generalize p.computed = v at h2
  bv_omega

/-- A plane that agrees with its CRC, and one that does not. -/
theorem witness_TemplatePlanes_crc : (∃ q : Plane, q.crc = q.computed) ∧ ∃ q : Plane, q.crc ≠ q.computed := crc_planes Plane.reset

theorem witness_TrapsAndReturns :
    (let s := onMe (withRegs base []) fun x => { x with allot := 8 }
     Trappable s ∧ s.me.allot.toNat ≤ (8 : SReg).toNat ∧ (7 : SReg).toNat < s.me.allot.toNat ∧ (s.core s.who.core).dbg.brkarm = false) ∧
    (let s := onCore base fun c => { c with dbg := { c.dbg with brkarm := true } }
     (s.core s.who.core).dbg.brkarm = true ∧ s.me.blocked = none) ∧
    (let s := onMe base fun x => { x with mode := .handler, trappc := 0xFFFFFFFFFFFFC }
     s.me.mode = .handler ∧ GoodTarget s.me.trappc) ∧
    (let s := onMe (world [obj0] []) fun x => { x with mode := .handler }
     Plain s s.who ∧ s.me.team = some team0.id ∧ s.teamAt 1 = some team0 ∧ (s.launchAt team0.launch).isSome = true ∧
     s.me.rank < team0.members.length ∧ (∀ k : Fin 5, s.me.queues[k] = []) ∧ s.me.mode = .handler ∧
     s.fused.getLsbD (s.who.core.val / 8) = false ∧ s.mgmt.elog.length < 65536) ∧
    (onMe (world [obj0] []) fun x => { x with traphnd := 0 }).me.traphnd = 0 := by decide +kernel

theorem witness_ControlWords :
    (let s := onMe (withRegs base [(1, 0x5555555555555555), (2, 3), (3, 1)]) fun x => { x with bankown := 0xFFFFFFFF }
     let role := fun (w : Word) (b : Nat) => w.toNat / 4 ^ b % 4
     InBounds s [1, 2, 3] ∧ Plain s s.who ∧ Trappable s ∧ role (s.me.rs 2) 0 = 3 ∧ (∀ b, b < 32 → role (s.me.rs 1) b ≠ 3) ∧
     (∀ b, b < 32 → s.me.bankown.getLsbD b = true) ∧ (∀ x ∈ (s.core s.who.core).ctx.toList, ∀ k : Fin 5, x.queues[k] = []) ∧ s.lineq = [] ∧
     (s.core s.who.core).l1 = [] ∧ Memory.wf s = true) ∧
    (let s := withRegs base [(3, 1)]
     let role := fun (w : Word) (b : Nat) => w.toNat / 4 ^ b % 4
     (∀ b, b < 32 → role (s.me.rs 3) b ≠ 3) ∧ role (s.core s.who.core).bankrole 0 ≠ role (s.me.rs 3) 0 ∧ s.me.bankown.getLsbD 0 = false) ∧
    (onMe base fun x => { x with mode := .handler }).me.mode = .handler := by decide +kernel

theorem witness_BankRoleChanges :
    (let r : RoleChange := { roles := 1, banks := [0], orders := [0, 0, 0, 0], team := none }
     let s := onMe base fun x => { x with blocked := some (.bankrole r) }
     s.me.blocked = some (.bankrole r) ∧ s.changeFree s.who.core r = true ∧ (∀ b ∈ r.banks, b < 32) ∧ (s.core s.who.core).l1 = [] ∧
     s.me.run = .active ∧ Memory.wf s = true) ∧
    (let r : RoleChange := { roles := 0, banks := [31], orders := [9, 9, 9, 9], team := none }
     let s := { onMe base fun x => { x with blocked := some (.bankrole r) } with
       lineq := [{ lease0 { core := 0, ctx := 0 } (some 5) with phys := 2 ^ 41 + 16383 }] }
     s.me.blocked = some (.bankrole r) ∧ s.changeFree s.who.core r = false) := by decide +kernel

/-- The issuing context waits in an instruction. -/
def waiting (s : State) (b : Blocked) : State := onMe s fun x => { x with run := .waiting, blocked := some b }

theorem witness_WaitsComplete :
    (let s := waiting (onMe base fun x => { x with tok := x.tok.set 5 [Clock.zero] }) (.wait (.tkpop .sv))
     s.mgmt.pkghlt = false ∧ s.me.run = .waiting ∧ s.frozen s.me = false ∧ s.me.tok[Fifo.sv.num] = [Clock.zero] ∧ s.me.step = .none) ∧
    (let s := waiting (barred Barrier.reset) (.wait (.bwait 63 true))
     s.me.barown.getLsbD (63#6).toNat = true ∧ ((s.core s.who.core).barAt 63).ph ≠ true ∧ s.me.faults = []) ∧
    (let s := waiting (queued base .vxq (cmd0 0)) (.wait (.qwait .vxq 0))
     (0#6).toNat < s.me.queues[Queue.vxq.num].length ∧ s.me.queues[Queue.vxq.num].length ≤ (32#6).toNat) ∧
    (let s := waiting base (.released (.gbar 1) Clock.zero)
     (joined s.me.clock Clock.zero).toList.all (fun e => e.toNat + 1 < 2 ^ 32) = true) := by decide +kernel

theorem witness_SafePointsAndExits :
    (let s := { world [obj0] [] with launches := [{ launch0 with desc := { desc0 with livecnt := 1 } }] }
     Plain s s.who ∧ s.me.team = some team0.id ∧ s.teamAt 1 = some team0 ∧ (s.launchAt 1).map (·.desc.livecnt) = some 1 ∧ s.me.faults = [] ∧
     s.me.deferred = [] ∧ s.lineq = [] ∧ Unposted s ∧ s.me.pend = false ∧ (0#16).toNat < 1 ∧ 1 ≤ (1#16).toNat ∧ Trappable s ∧ EpochRoom s.me ∧
     (∀ k : Fin 5, s.me.queues[k] = []) ∧ s.reqs = [] ∧ s.me.rank < team0.members.length) ∧
    (onMe (world [obj0] []) fun x => { x with pend := true }).me.pend = true := by decide +kernel

/-! ## Pleat regions, launches and swaps -/

/-- A running position with nothing buffered. -/
def pos0 : Position :=
  { state := .running, input := Vector.replicate 8 0, output := Vector.replicate 8 0, buf := [], whole := [], reads := [], direct := false
    rejected := false, checks := [], order := 0, after := 0x3008 }

def region0 : Region :=
  { guess := 0x2000, left := 2, width := 2, head := 0x3000, clock := Clock.zero, begun := true, pos := [pos0], guessing := none }

/-- `world` whose team runs this region. -/
def pleated (r : Region) (vs : List (Nat × Word)) : State := { world [obj0] vs with teams := [{ team0 with region := some r }] }

theorem witness_PleatEntries :
    (let s := world [obj0] [(1, 0x2000), (2, 1)]
     InBounds s [1, 2] ∧ s.teamOf s.me = some team0 ∧ team0.region = none ∧ s.me.rs 2 ≠ 0 ∧ s.me.rs 3 = 0 ∧ EpochRoom s.me ∧
     Unposted s ∧ s.me.mode = .user ∧ s.me.traphnd ≠ 0 ∧ Plain s s.who) ∧
    (let s := pleated region0 [(1, 5)]
     s.guessingOf s.me = none ∧ s.positionOf s.me = some ({ team0 with region := some region0 }, region0, pos0)) := by decide +kernel

theorem witness_PleatBuffers :
    (let s := pleated region0 [(2, page)]
     InBounds s [1, 2, 3] ∧ s.guessingOf s.me = none ∧ (s.positionOf s.me).map (·.2.2) = some pos0 ∧ pos0.direct = false ∧
     Memory.wf s = true ∧ HeldPages s ∧
     (∀ z ∈ region0.pos, z.reads = []) ∧ bufferLines pos0.buf + 2 ≤ 256 ∧ (∀ z ∈ region0.pos.take s.me.rank, z.buf = []) ∧
     ((reach s page 8 .both).any fun q => decide (Clear s 8 q ∧ Unwatched s page 8 q ∧ s.isSw q.2 = false)) = true) := by decide +kernel

/-- A store of a position to a scratch bank. -/
theorem witness_PleatBuffers_scratch :
    (let s := onMe (onCore (pleated region0 [(2, 0x10008)]) fun c => { c with bankrole := 4 }) fun x => { x with bankown := 2 }
     ((reach s 0x10008 8 .both).any fun q =>
       decide (Clear s 8 q ∧ Unwatched s 0x10008 8 q ∧ s.isSw q.2 = false ∧ isDev q.2 = false)) = true) := by decide +kernel

theorem witness_PleatIterations :
    (let r := { region0 with guessing := some { j := 0, s := Vector.replicate 64 0 } }
     let s := pleated r []
     (s.guessingOf s.me).map (·.2.2) = some { j := 0, s := Vector.replicate 64 0 } ∧ team0.whoOf 0 = some s.who ∧ s.me.run = .active ∧ r.pos.length ≤ 0 + 1) ∧
    (let r := { region0 with pos := [pos0, pos0], guessing := some { j := 0, s := Vector.replicate 64 0 } }
     0 + 1 < r.pos.length) ∧
    (let s := onMe (pleated region0 []) fun x => { x with pc := 0x3004 }
     s.guessingOf s.me = none ∧ (s.positionOf s.me).isSome = true ∧ s.me.pc + (-1 : BitVec 24).signExtend 64 <<< 2 = region0.head ∧
     (∀ k : Fin 5, s.me.queues[k] = []) ∧ EpochRoom s.me ∧ s.me.rank = 0 ∧ region0.pos[s.me.rank + 1]? = none) ∧
    (let f : EngFault := { queue := .vxq, order := 0, f1 := 0, cause := Cause.engine, sub := 1, val := 0 }
     let s := onMe (pleated { region0 with pos := [pos0, pos0] } []) fun x => { x with pc := 0x3004, rank := 1, faults := [f] }
     s.guessingOf s.me = none ∧ (s.positionOf s.me).isSome = true ∧ s.me.rank ≠ 0 ∧ s.me.faults ≠ []) ∧
    Trappable (world [obj0] []) := by decide +kernel

theorem witness_PleatWindows :
    (let r := { region0 with pos := [], begun := false }
     let s := waiting (pleated r []) (.wait (.pleat 1 2 2))
     let tm := { team0 with region := some r }
     s.teamAt 1 = some tm ∧ tm.whoOf 0 = some s.who ∧ s.windowReady tm r = true ∧ r.guessing = none ∧ s.windowEnded tm r = false) ∧
    (let r := { region0 with pos := [{ pos0 with state := .published, buf := [(0x200000, 5)] }] }
     let s := pleated r []
     let tm := { team0 with region := some r }
     s.windowEnded tm r = true ∧ s.epochFull tm = none ∧ (∀ p ∈ r.pos, p.checks = [] ∧ ∀ c ∈ p.buf, c.1 < 2 ^ 48 + 2 ^ 30) ∧
     s.windowReady tm r = false ∧ accepted r.pos < r.left.toNat ∧ s.swPages = [] ∧ Memory.wf s = true ∧
     (r.pos.find? fun _ => true).map (·.buf.find? fun c => c.1 == 0x200000) = some (some (0x200000, 5)) ∧
     ({ r with left := 1 } : Region).left.toNat ≤ accepted r.pos) := by decide +kernel

/-- A member whose epoch cannot grow. -/
theorem witness_PleatWindows_epoch :
    (let r := { region0 with pos := [{ pos0 with state := .published }] }
     let s := onMe (pleated r []) fun x => { x with clock := x.clock.set 0 0xFFFFFFFF }
     s.windowEnded { team0 with region := some r } r = true ∧ s.epochFull { team0 with region := some r } = some s.who) := by decide +kernel

theorem witness_PleatWindows_l1 : ∀ c ∈ [0, 511], ((pleated region0 []).core c).l1 = [] := by decide +kernel

/-- A region that a first member has asked for, a second one to come. -/
theorem witness_PleatEntries_second :
    (let r := { region0 with guess := 0x2000, left := 1, width := 2, pos := [], begun := false }
     let tm := { team0 with members := [.at { core := 0, ctx := 0 }, .at { core := 0, ctx := 1 }], region := some r }
     let s := { world [obj0] [(1, 0x2000), (2, 1)] with teams := [tm] }
     let s := s.setCtx { core := 0, ctx := 1 } { s.me with rank := 1, run := .waiting, blocked := some (.wait (.pleat 1 2 2)) }
     s.teamOf s.me = some tm ∧ tm.region = some r ∧ r.begun = false ∧ s.pleatArrived tm = [1] ∧ r.guess = s.me.rs 1 ∧ r.left = s.me.rs 2 ∧
     r.width = (2#4).toNat ∧ EpochRoom s.me ∧ Unposted s) := by decide +kernel

/-- Bytes at an address of the placed page, over zeros. -/
def poke (s : State) (es : List (Nat × List Nat)) : State :=
  { s with mem := es.foldl (fun m e => cellsWrite m (0x200000 + e.1) (e.2.map fun b => BitVec.ofNat 8 b)) s.mem }

/-- `base` with a ring of slot 0 at the placed page that holds `n` bytes, and completion ring behind it, with a kernel descriptor
at 0x2000. -/
def ringed (typ len n : Nat) : State :=
  let s := poke base [(0, [typ, 0, len, 0]), (8, [1]), (0x10, [0, 0x20, 0x20, 0, 0, 0, 1, 0]),
    (0x2000, [0, 0, 0x20, 0, 0, 0, 1, 0]), (0x2010, [16, 1, 1]), (0x2028, [1])]
  { s with slots := s.slots.set 0 { s.slots[0] with
    lrbase := page, lrsize := 12, lrpi := BitVec.ofNat 64 n, crbase := page + 0x1000, crsize := 12 } }

theorem witness_LaunchRecords :
    (let s := ringed 1 2 128
     let c := s.slots[0]
     s.mgmt.pkghlt = false ∧ ringSize c.lrsize = 4096 ∧ 64 ≤ c.lrpi.toNat - c.lrci.toNat ∧ c.heldEntries = [] ∧ s.liveLaunches 0 < 256 ∧
     ringSize c.crsize ≠ 0 ∧ ((s.slotRead 0 c.lrbase.toNat 64).2.map fun h => (fieldAt h 0 1, fieldAt h 2 2)) = some (1, 2)) ∧
    ((ringed 1 2 63).slots[0].lrpi.toNat < 64) ∧
    (((ringed 3 2 128).slotRead 0 page.toNat 64).2.map fun h => fieldAt h 0 1) = some 3 ∧
    (((ringed 0 2 128).slotRead 0 page.toNat 64).2.map fun h => fieldAt h 0 1) = some 0 ∧
    (((ringed 1 0 128).slotRead 0 page.toNat 64).2.map fun h => fieldAt h 2 2) = some 0 ∧
    (((ringed 1 65 128).slotRead 0 page.toNat 64).2.map fun h => fieldAt h 2 2) = some 65 := by decide +kernel

/-- The record is read as a launch, and one of three units of 64 bytes is malformed. -/
theorem witness_LaunchRecords_kernel :
    (match (ringed 1 2 128).slotRead 0 page.toNat 128 with
      | (s1, some bs) => (s1.readKernel 0 true 0 bs).2.map fun l => (l.seq, l.total)
      | _ => none) = some (1, 1) ∧
    (match (ringed 1 3 192).slotRead 0 page.toNat 192 with
      | (s1, some bs) => (s1.readKernel 0 true 0 bs).2.isNone
      | _ => false) = true := by decide +kernel

theorem witness_LaunchProgress :
    (let l : Launch := { launch0 with phase := .pending, cut := 0 }
     let s := { base with launches := [l] }
     s.mgmt.pkghlt = false ∧ s.launchAt 1 = some l ∧ l.credit = none ∧ l.cmpla = none ∧ l.ring = true ∧ l.deps = [] ∧ l.req = 0) ∧
    (let c := { base.slots[0] with seqs := [(3, none), (2, some 4), (1, some 0)], lastSeq := some 3 }
     c.judge 1 = .satisfied ∧ c.judge 2 = .fails ∧ c.judge 3 = .waits) ∧
    (let s := { base with launches := [launch0] }
     launch0.phase = .running ∧ launch0.cut = launch0.total ∧ s.storesOut 1 = false ∧ s.teams = []) ∧
    (let s := { base with slots := base.slots.set 0 { base.slots[0] with crbase := page, crsize := 12, heldEntries := [List.replicate 32 1] } }
     (s.slots[0].heldEntries.map (·.length)) = [32] ∧ ringSize s.slots[0].crsize = 4096 ∧ place (s.xlate 0 page.toNat .write) = some 0x200000 ∧
     Memory.wf s = true ∧ HeldPages s) := by decide +kernel

theorem witness_DeviceLaunches :
    (let s := withRegs base [(1, page), (2, page + 1)]
     InBounds s [1] ∧ Plain s s.who ∧ (s.me.rs 1).toNat % 64 = 0 ∧ s.me.launches < 8 ∧ Trappable s ∧ (s.me.rs 2).toNat % 64 ≠ 0 ∧
     s.me.barown.getLsbD 63 = false ∧ (barred Barrier.reset).me.barown.getLsbD 63 = true ∧ s.launches = [] ∧ s.liveLaunches s.me.slot < 256 ∧
     Unposted s) ∧
    8 ≤ (onMe base fun x => { x with launches := 8 }).me.launches ∧
    256 ≤ ({ base with launches := List.replicate 256 launch0 } : State).liveLaunches 0 := by decide +kernel

/-- A device-side record has sequence number 0; the ring's record, with 1, is malformed there. -/
theorem witness_DeviceLaunches_record :
    (let s := poke (ringed 1 2 128) [(8, [0])]
     match (s.setCtx s.who (passed s s.me 8)).slotRead 0 page.toNat 128 with
      | (s1, some bs) => (s1.readKernel 0 false 0 bs).2.isSome
      | _ => false) = true ∧
    (let s := ringed 1 2 128
     match (s.setCtx s.who (passed s s.me 8)).slotRead 0 page.toNat 128 with
      | (s1, some bs) => (s1.readKernel 0 false 0 bs).2.isNone
      | _ => false) = true := by decide +kernel

/-- A running launch whose second team waits to be cut, beside its first. -/
def uncut : State :=
  onMe { base with launches := [{ launch0 with total := 2 }], teams := [team0], nextId := 9 } fun x => { x with team := some 1 }

theorem witness_TeamPlacements :
    (base.choosePlace base.served []).isNone = true ∧
    ((uncut.choosePlace uncut.served []).any fun p => p.1.team.isNone && uncut.partsFree p.1.launch p.2.2 &&
      (uncut.spoiledSets p.1.launch p.2.2).2.isEmpty) = true := by decide +kernel

/-- A set that has failed its check once and fails it again, as the free value allows. -/
theorem witness_TeamPlacements_spoiled (s : State) (l : Launch) (p : Part) (e : Fin 4) (he : (s.core p.core).empty = true)
    (hc : ((s.core p.core).takePlane l e).2 = true) (hf : Config.planeFails s.fresh = true) :
    s.spoiledSets l [p] = ({ s with fresh := s.fresh + 1 }, [p.core]) := by
  have h : ((List.finRange 4).any fun e => ((s.core p.core).takePlane l e).2) = true := List.any_eq_true.mpr ⟨e, List.mem_finRange e, hc⟩
  simp [State.spoiledSets, he, h, hf]

/-- A swapped team whose record lies at the placed page. -/
theorem witness_TeamPlacements_resume :
    (let tm := { team0 with phase := .swapped, members := [.nowhere], seam := some { addr := page.toNat, size := 4096, ctxs := [] } }
     let s := { uncut with launches := [launch0, { launch0 with id := 2 }], teams := [tm, { team0 with id := 2, launch := 2 }] }
     let s := onMe s fun x => { x with team := some 2 }
     ((s.choosePlace s.served []).any fun p => p.1.team == some tm && s.partsFree p.1.launch p.2.2 &&
       (s.spoiledSets p.1.launch p.2.2).2.isEmpty) = true ∧
     s.teamAt 1 = some tm ∧ (s.slotRead 0 page.toNat 4096).2.isSome = true) := by decide +kernel

theorem witness_QuantumExpiries :
    (let s := world [obj0] []
     s.teamAt 1 = some team0 ∧ (s.launchAt 1).isSome = true ∧ team0.phase = .placed ∧ team0.seam = none ∧ s.mgmt.pkghlt = false ∧
     s.gtc.toNat < team0.quantumFrom + team0.quantum ∧ s.rival team0 = false) ∧
    team0.quantumFrom + team0.quantum ≤ ({ base with gtc := 2000000 } : State).gtc.toNat ∧
    (let s := { world [obj0] [] with slots := base.slots.set 0 { base.slots[0] with seambase := page, seamsize := 0x100000 } }
     (s.findRoom 0 team0.seamBound) = some page.toNat) := by decide +kernel

/-- A second running launch that could take the placed team's place. -/
theorem witness_QuantumExpiries_rival :
    (let l : Launch := { launch0 with id := 2, seq := 2, cut := 0, slot := 1 }
     let s := { world [obj0] [] with launches := [launch0, l] }
     s.rival team0) = true := by decide +kernel

theorem witness_TeamSwaps :
    (let s := waiting (onMe (world [obj0] []) fun x => { x with pend := true }) (.gather 0)
     s.teamAt 1 = some team0 ∧ s.mgmt.pkghlt = false ∧ s.gatherComplete team0 = true ∧ s.epochFull team0 = none ∧ (∀ m ∈ team0.ranksAt, (s.ctxOf m.2).netStuck = false)) ∧
    (let tm := { team0 with phase := .quiescing }
     let s := { waiting (world [obj0] []) (.gather 0) with teams := [tm] }
     s.cycle ≤ tm.gatherAt + 65536 ∧ s.cutReached tm = true) ∧
    (let tm := { team0 with phase := .stopped }
     let s := { waiting (world [obj0] []) (.gather 0) with teams := [tm], cycle := 65537 }
     tm.gatherAt + 65536 < s.cycle) := by decide +kernel

/-- A gather with a network receive that cannot end, and one whose member's epoch cannot grow. -/
theorem witness_TeamSwaps_abandoned :
    (let s := waiting (onMe (queued (world [obj0] []) .nxq { cmd0 (tmpl [(0, 4)]) with phase := .running }) fun x => { x with pend := true }) (.gather 0)
     s.gatherComplete team0 = true ∧ s.epochFull team0 = none ∧ (∃ m ∈ team0.ranksAt, (s.ctxOf m.2).netStuck = true)) ∧
    (let s := waiting (onMe (world [obj0] []) fun x => { x with pend := true, clock := x.clock.set 0 0xFFFFFFFF }) (.gather 0)
     s.gatherComplete team0 = true ∧ s.epochFull team0 = some s.who) := by decide +kernel

/-- A stopped team whose record goes to the placed page. -/
theorem witness_TeamSwaps_record :
    (let tm := { team0 with phase := .stopped, seam := some { addr := page.toNat, size := 65536, ctxs := [] } }
     let s := { waiting (world [obj0] []) (.gather 0) with teams := [tm] }
     let n := (s.seamBytes tm launch0).length
     s.launchAt 1 = some { launch0 with objs := [some obj0] } ∧ tm.region = none ∧ s.teamQuiet tm = true ∧
     (∀ k ∈ tm.ranksAt, (s.ctxOf k.2).run ≠ .halted) ∧ Memory.wf s = true ∧ 0x200000 + n ≤ 2 ^ 48 ∧
     (match s.spans 0 .write (pageParts page.toNat n) with
      | (_, .ok ps) => ps == [(0x200000, n)]
      | _ => false) = true) := by decide +kernel

/-! ## Hangs, budgets and commands -/

theorem witness_HangsAndBudgets :
    (let s := { waiting (onMe (withRegs base []) fun x => { x with hangt := 5, progress := { acc := 5, since := none } }) (.wait (.tkpop .sv)) with cycle := 0 }
     s.mgmt.pkghlt = false ∧ Plain s s.who ∧ s.frozen s.me = false ∧ s.me.mode = .user ∧ s.me.traphnd ≠ 0 ∧ s.me.hangt ≠ 0 ∧
     s.me.hangt.toNat ≤ s.progressOf s.me ∧ s.me.run = .waiting) ∧
    (let s := onMe (withRegs base []) fun x => { x with hangt := 5, progress := { acc := 4, since := none } }
     s.progressOf s.me < s.me.hangt.toNat ∧ base.me.hangt = 0) ∧
    (let s := onMe (withRegs base []) fun x => { x with pend := true }
     s.me.run = .active ∧ s.me.blocked = none ∧ s.me.budget = 0 ∧ s.me.past = none) ∧
    (let s := onMe base fun x => { x with pend := true, past := some 4096 }
     s.me.past = some 4096 ∧ ∀ k : Fin 5, s.me.queues[k] = []) := by decide +kernel

/-- The head of a queue that may start: what the statements about engines assume. -/
abbrev Starting (s : State) (q : Queue) (c : Cmd) : Prop :=
  (s.me.queues[q.num] = [c] ∧ c.phase = .queued ∧ c.checked = false ∧ c.cores = [] ∧ s.mgmt.pkghlt = false ∧ s.me.run ≠ .halted ∧
    s.me.ended = false ∧ s.positionDead s.who = false ∧ s.copiesStopped s.me = false ∧ s.me.faults = [] ∧
    ∀ e ∈ engineQueues q.engine, e ≠ (s.who.ctx, q) → ∀ d ∈ ((s.core s.who.core).ctx[e.1]).queues[e.2.num], d.phase ≠ .queued) ∧
  ((s.core s.who.core).roleChanges = [] ∧ s.loads = [] ∧
    (∀ y ∈ (s.core s.who.core).ctx.toList, ∀ d ∈ y.queues[1], d.phase ≠ .running ∧ (d.phase = .done → d.isSync .mxq = false)) ∧
    (s.core s.who.core).shadow = none ∧ s.lineq = [] ∧ s.reqs = [] ∧ ∀ k : Fin 5, ∀ c ∈ s.me.queues[k], c.waits = []) ∧
  Plain s s.who

theorem starting_heads {s : State} {q : Queue} {c : Cmd} (h : Starting s q c) : Heads s s.who q c [] := by
  obtain ⟨⟨h1, h2, h3, h4, h5, h6, h7, h8, h9, h10, -⟩, -⟩ := h
  refine ⟨h1, ⟨h2, h3, h4, by simp⟩, h5, ⟨h6, h7, h8⟩, h9, fun f hf => ?_⟩
  have : f ∈ s.me.faults := hf
  rw [h10] at this
  simp at this

theorem starting_mayStart {s : State} {q : Queue} {c : Cmd} (h : Starting s q c) (ht : ∀ f ∈ c.pops q, s.me.tok[f.num] ≠ []) :
    MayStart s s.who q c [] := ⟨⟨starting_heads h, ht⟩, h.1.2.2.2.2.2.2.2.2.2.2⟩

theorem starting_unheld {s : State} {q : Queue} {c : Cmd} (h : Starting s q c) : Unheld s s.who := by
  obtain ⟨-, ⟨h1, h2, h3, h4, h5, h6, h7⟩, -⟩ := h
  exact ⟨h1, h2, h3, h4, h5, h6, h7⟩

/-- The issuing context with every bank of its core in a role and owned, every barrier owned, and one command in a queue. -/
def engined (s : State) (role : Nat) (q : Queue) (c : Cmd) : State :=
  queued (onMe (onCore s fun c => { c with bankrole := BitVec.ofNat 64 (0x5555555555555555 * role) }) fun x =>
    { x with bankown := 0xFFFFFFFF, barown := 0xFFFFFFFFFFFFFFFF }) q c

/-- Loop counts of one, at F12 to F14. -/
def once : List (Nat × Nat) := [(12, 1), (13, 1), (14, 1)]

/-- A fill of eight bytes of the placed page, and a copy of eight bytes from it to the local window. -/
def fill0 : Cmd := cmd0 (tmpl ([(0, 5), (8, 0), (9, 0x20), (10, 0), (11, 1), (15, 8)] ++ once))
def copy0 (op : Nat) : Cmd := cmd0 (tmpl ([(0, op), (4, 0), (5, 0x20), (6, 0), (7, 1), (8, 0x40), (15, 8)] ++ once))

theorem witness_CommandStarts :
    (let s := engined base 1 .ldq fill0
     Starting s .ldq fill0 ∧ opOf fill0 = 5 ∧ s.me.barown.getLsbD ((tF fill0.bits 1).toNat / 16 % 64) = true) ∧
    (let c := cmd0 (tmpl [(0, 14)])
     Starting (engined base 1 .ldq c) .ldq c ∧ opOf c = 14 ∧ opOf (cmd0 0) = 0) ∧
    (let s := queued base .ldq fill0
     Starting s .ldq fill0 ∧ s.me.barown.getLsbD ((tF fill0.bits 1).toNat / 16 % 64) = false) ∧
    (let c := cmd0 (tmpl [(0, 5), (1, 2)])
     ∃ f ∈ c.pops .ldq, (queued base .ldq c).me.tok[f.num] = []) ∧
    (∀ d ∈ base.me.queues[Queue.ldq.num], d.phase = .done) := by
  refine ⟨by decide +kernel, by decide +kernel, by decide +kernel, ⟨.ml, by decide +kernel, by decide +kernel⟩, by decide +kernel⟩

/-- Two contexts with a command of the store queue each: that of context 0 has its turn first, for the rotation stands at the last queue. -/
theorem witness_Rotation :
    (let s := queued base .stq fill0
     let s := s.setCtx { core := 0, ctx := 1 } s.me
     s.me.queues[Queue.stq.num] = [fill0] ∧ (s.ctxOf { core := 0, ctx := 1 }).queues[Queue.stq.num] = [fill0] ∧
     (∀ k ∈ [(0 : CtxNo), 1], let w : Who := { core := 0, ctx := k }
       (s.ctxOf w).run ≠ .halted ∧ (s.ctxOf w).ended = false ∧ s.positionDead w = false ∧ s.copiesStopped (s.ctxOf w) = false ∧
       (s.ctxOf w).faults = [] ∧ fill0.pops .stq = [] ∧ ∀ j : Fin 5, ∀ c ∈ (s.ctxOf w).queues[j], c.waits = []) ∧
     (s.core 0).roleChanges = [] ∧ s.loads = [] ∧ (s.core 0).shadow = none ∧ s.reqs = [] ∧ s.mgmt.pkghlt = false ∧
     (∀ y ∈ (s.core 0).ctx.toList, y.queues[1] = []) ∧ (s.core 0).served[Engine.copy.num] < (engineQueues .copy).length ∧
     turn s { core := 0, ctx := 0 } .stq < turn s { core := 0, ctx := 1 } .stq) := by decide +kernel

/-- The start checks of a command of each engine pass. -/
def passes (r : Except Trap Unit) : Bool := match r with
  | .ok _ => true
  | .error _ => false

theorem passes_ok {r : Except Trap Unit} (h : passes r = true) : r = .ok () := by
  unfold passes at h
  split at h
  · rfl
  · simp at h

/-- MZERO of one tile at the start of the operand buffers, a vector move of one row of two cells, and NCNT. -/
def zero0 : Cmd := cmd0 (tmpl ([(0, 4)] ++ (List.range 6).map fun k => (24 + 5 * k, 1)))
def move0 : Cmd := cmd0 (tmpl ([(0, 0x2F), (7, 2024), (10, 0x400), (24, 0xA1), (26, 0xA1)] ++ once))
def count0 : Cmd := cmd0 (tmpl [(0, 4), (24, 0x40), (32, 1)])

theorem witness_CommandsRun :
    (engine (engined base 1 .ldq fill0) base.who .ldq fill0).1 = .ok () ∧ (engine (engined base 2 .mxq zero0) base.who .mxq zero0).1 = .ok () ∧
    (engine (engined base 2 .vxq move0) base.who .vxq move0).1 = .ok () ∧ (engine (engined base 1 .nxq count0) base.who .nxq count0).1 = .ok () :=
  ⟨passes_ok (by decide +kernel), passes_ok (by decide +kernel), passes_ok (by decide +kernel), passes_ok (by decide +kernel)⟩

/-- MZERO behind a token of the load side that has not come. -/
theorem witness_ShadowChecks :
    (let c := { zero0 with bits := putBits zero0.bits 16 1 1 }
     let s := engined base 2 .mxq c
     Starting s .mxq c ∧ opOf c = 4 ∧ passes (s.matChecks s.me c) = true ∧ c.pops .mxq = [.lm] ∧ s.me.tok[Fifo.lm.num] = []) := by
  decide +kernel

theorem witness_CommandsRun_tokens :
    zero0.pops .mxq = [] ∧ move0.pops .vxq = [] ∧ count0.pops .nxq = [] ∧ fill0.pops .ldq = [] := by decide +kernel

theorem witness_CommandsRun_starting :
    Starting (engined base 2 .mxq zero0) .mxq zero0 ∧ Starting (engined base 2 .vxq move0) .vxq move0 ∧
    Starting (engined base 1 .nxq count0) .nxq count0 := ⟨by decide +kernel, by decide +kernel, by decide +kernel⟩

/-- What MZERO's clause assumes of its places; a vector move's output covers 0x400 to 0x4FF of the local window. -/
theorem witness_EngineWrites :
    (let s := engined base 2 .mxq zero0
     opOf zero0 = 4 ∧ (∀ a ∈ cAcc zero0.bits 0, s.touched s.me a.1.toNat a.2 = []) ∧ Memory.wf s = true ∧
     (match s.matPlaces s.who opbufPort true (cAcc zero0.bits 0) with
      | .ok ps => ps.length == 64
      | .error _ => false) = true) ∧
    (let s := engined base 2 .vxq move0
     activeOuts move0.bits = [0] ∧
     ∀ a ∈ portAccesses move0.bits 4 { i1 := 0, i2 := 0, i3 := 0, serial := 0 },
       (match s.portPlace s.who anyPort true a.1 a.2 with
        | .ok p => p == 2 ^ 48 + 0x400 && a.2 == 256
        | .error _ => false) = true) := by decide +kernel

theorem witness_EngineWrites_sync :
    (∀ op ∈ [11, 12], Starting (engined base 2 .mxq (cmd0 (tmpl [(0, op)]))) .mxq (cmd0 (tmpl [(0, op)])) ∧
      opOf (cmd0 (tmpl [(0, op)])) = op ∧ passes ((engined base 2 .mxq (cmd0 (tmpl [(0, op)]))).matChecks
        (engined base 2 .mxq (cmd0 (tmpl [(0, op)]))).me (cmd0 (tmpl [(0, op)]))) = true) := by decide +kernel

/-- A multicast fetch of a group of one that has joined, of one that has not, and one whose time has run out. -/
theorem witness_MulticastFetches :
    (let m : Mcast := { team := 1, group := 1, serial := 0, joined := [0], since := 0, late := false }
     let s := onCore (world [obj0] []) fun c => { c with mcast := [m] }
     (s.core 0).mcast = [m] ∧ (∀ r ∈ s.mcastMembers 0 m, r ∈ m.joined) ∧ s.cycle < m.since + 4096 ∧
     m.since + 4096 ≤ ({ s with cycle := 4096 } : State).cycle) ∧
    (let m : Mcast := { team := 1, group := 1, serial := 0, joined := [], since := 0, late := false }
     let s := onCore (world [obj0] []) fun c => { c with mcast := [m] }
     ∃ r ∈ s.mcastMembers 0 m, r ∉ m.joined) := by
  refine ⟨by decide +kernel, ⟨0, by decide +kernel, by decide +kernel⟩⟩

theorem witness_EnginesKeepRegisters : ∃ t, exec (.engineCommandCompletion base.who .vxq) base = .next t := ⟨_, rfl⟩

theorem witness_CommandCompletion :
    (∀ p ∈ [CmdPhase.queued, .done],
      (let c := { cmd0 (tmpl [(0, 5), (1, 0x0402)]) with phase := p }
       let s := engined base 1 .ldq c
       s.me.queues[Queue.ldq.num] = [c] ∧ s.me.ended = false ∧ c.cores = [] ∧ c.phase = p ∧ ∀ f ∈ c.pushes .ldq, s.me.tok[f.num].length < 16)) ∧
    (let c := { cmd0 (tmpl [(1, 12)]) with phase := .done, pushed := [.ml] }
     let s := engined base 2 .mxq c
     c.pushes .mxq = [.ml, .mv] ∧ Fifo.ml ∈ c.pushed ∧ Fifo.mv ∉ c.pushed ∧ s.me.tok[Fifo.mv.num].length < 16) ∧
    (let c := { cmd0 (tmpl [(0, 5), (1, 8)]) with phase := .done }
     let s := onMe (engined base 1 .ldq c) fun x => { x with tok := x.tok.set 0 (List.replicate 16 Clock.zero) }
     ∃ f ∈ c.pushes .ldq, f ∉ c.pushed ∧ 16 ≤ s.me.tok[f.num].length) ∧
    (let c := { cmd0 (tmpl [(0, 0x405), (24, 0x40)]) with phase := .running }
     let s := engined base 1 .nxq c
     opOf c = 5 ∧ c.conv = [] ∧ (tF c.bits 0).toNat / 1024 % 2 = 1 ∧ Plain s s.who ∧ Memory.wf s = true ∧
     (match s.counterPlace s.who c.bits with
      | .ok p => p == 2 ^ 48 + 0x40
      | .error _ => false) = true) := by
  refine ⟨by decide +kernel, by decide +kernel, ⟨.lm, by decide +kernel, by decide +kernel, by decide +kernel⟩, by decide +kernel⟩

theorem witness_CellsAndLanes :
    isTile (List.replicate 64 (List.replicate 64 5)) ∧ (∀ op ∈ [1, 3, 4, 6, 7, 8, 9], (tF (tmpl [(0, op)]) 0).toNat % 256 = op) ∧
    (tF (tmpl [(0, 0x201), (3, 0x6464)]) 0).toNat / 512 % 2 = 1 ∧ (tF (tmpl [(0, 0x201), (3, 0x6464)]) 3).toNat % 256 ≠ 0x81 := by decide +kernel

/-! ## The copy engine -/

/-- A running copy command at the head of the load queue. -/
def landing (op : Nat) : Cmd := { copy0 op with phase := .running }

/-- What the statements on rows assume. -/
abbrev Rows (s : State) (c : Cmd) : Prop :=
  s.me.queues[Queue.ldq.num] = [c] ∧ c.phase = .running ∧ c.conv = [] ∧ c.waits = [] ∧ s.hides = [] ∧ s.lineq = [] ∧ s.me.ended = false ∧ c.cores.length ≤ 1 ∧
  c.row < (tF c.bits 12).toNat * (tF c.bits 13).toNat * (tF c.bits 14).toNat ∧ Plain s s.who ∧ Memory.wf s = true ∧
  HeldPages s ∧ s.positionDead s.who = false

/-- A side is one part with nothing in the way. -/
def side (s : State) (w : Who) (r : State × Except Trap (List Span)) (va p n : Nat) : Bool :=
  match r.2 with
  | .ok ps => ps == [⟨va, p, n⟩] && decide (FreePart s w ⟨va, p, n⟩)
  | .error _ => false

theorem witness_CopyRows :
    (∀ op ∈ [1, 5, 6, 7],
      (let c := landing op
       let s := engined base 1 .ldq c
       Rows s c ∧ opOf c = op ∧ (tF c.bits 0).toNat / 512 % 4 = 0 ∧ (tF c.bits 15).toNat ≠ 0 ∧
       side s s.who (s.sideAt s.who (cSaddr c.bits + srcOff c c.row) 8 .read) page.toNat 0x200000 8 = true ∧
       side s s.who (s.sideAt s.who (cDaddr c.bits + dstOff c c.row) 8 .write) 0x40 (2 ^ 48 + 0x40) 8 = true)) ∧
    (let c := { landing 6 with idx := [0xFFFFFFFF] }
     ((c.idx[c.row % (tF c.bits 12).toNat]?).getD 0).toInt < 0) ∧
    (let c := { landing 2 with cores := [0] }
     let s := engined base 1 .ldq c
     Rows s c ∧ opOf c = 2 ∧ c.cores.Nodup ∧ s.touched s.me 0x40 8 = [] ∧
     (match s.castPlaces s.who (cDaddr c.bits + dstOff c c.row) 8 c.cores with
      | .ok ps => ps == [(0, 2 ^ 48 + 0x40)]
      | .error _ => false) = true) := by decide +kernel

/-- A row that lands, a row that waits or fails for its object, and a flag add after the last row. -/
theorem witness_RowOutcomes :
    (let c := landing 1
     let s := engined base 1 .ldq c
     Rows s c ∧ (match s.landRow s.who .ldq c none 0 (.ok [] []) with
      | .ok _ _ => true
      | _ => false) = true) ∧
    (let c := { landing 4 with bits := tmpl ([(0, 0x404), (4, 0), (5, 0x20), (6, 0), (7, 1), (15, 8), (62, 1)] ++ once) }
     let s := engined (linked (world [far] [])) 1 .ldq c
     (match s.landRow s.who .ldq c (some far) 0 .rnr with
      | .rnr _ => true
      | _ => false) = true ∧ s.replayCount s.who < 16 ∧ (tF c.bits 62).toNat % 256 = 1 ∧
     16 ≤ ({ s with reqs := List.replicate 16 { near0 with due := some 5, attempts := 1 } } : State).replayCount s.who) ∧
    (let c := { landing 4 with bits := tmpl ([(0, 0x404), (15, 8)] ++ once), row := 1 }
     cFlagged c.bits = true ∧ c.row = (tF c.bits 12).toNat * (tF c.bits 13).toNat * (tF c.bits 14).toNat ∧
     (match (engined (world [obj0] []) 1 .ldq c).flagAdd { core := 0, ctx := 0 } .ldq c c.row 1 (.ok [] []) with
      | .ok _ _ => true
      | _ => false) = true) := by decide +kernel

/-- Two rows, the first of which waits to be tried again: the second on its page, and on another one. -/
theorem witness_RowOutcomes_waiting :
    (let e : RowWait := { row := 0, attempts := 1, due := 5, writes := [] }
     let c := { landing 4 with bits := tmpl [(0, 0x404), (4, 0), (5, 0x20), (6, 0), (7, 1), (15, 8), (12, 2), (13, 1), (14, 1), (62, 1)]
                               waits := [e], row := 1 }
     let s := engined (linked (world [far] [])) 1 .ldq c
     c.row < (tF c.bits 12).toNat * (tF c.bits 13).toNat * (tF c.bits 14).toNat ∧ s.gtc.toNat < e.due ∧
     e.due ≤ ({ s with gtc := 5 } : State).gtc.toNat ∧ rowsClash c (some far) 0 1 = true ∧
     (match s.landRow s.who .ldq c (some far) 0 .rnr with
      | .rnr _ => true
      | _ => false) = true ∧
     rowsClash { c with bits := putBits c.bits (16 * 23) 16 1 } (some far) 0 1 = false ∧ s.positionDead s.who = false) := by
  decide +kernel

theorem witness_CopyCommands :
    (let c := { cmd0 (tmpl [(0, 0x40A), (28, 1)]) with phase := .running }
     let s := engined (world [obj0] []) 1 .ldq c
     opOf c = 10 ∧ c.conv = [] ∧ s.me.ended = false ∧ (match s.flagAdd s.who .ldq c 0 (cAux c.bits) (.ok [] []) with
      | .ok _ _ => true
      | _ => false) = true) ∧
    (let c := { cmd0 (tmpl [(0, 0x40B), (8, 0x40)]) with phase := .running }
     let s := engined (world [obj0] []) 1 .ldq c
     opOf c = 11 ∧ s.reqs = [] ∧ s.objOf s.me (cObj c.bits) = some obj0 ∧ s.servesRef (s.elemRef obj0 (cOff c.bits)) = true ∧
     (s.elemRef obj0 (cOff c.bits)).scratch = false ∧
     (match s.serveAtomic s.who.core s.me.slot s.ownNode (s.elemRef obj0 (cOff c.bits)) (cAop c.bits) 8 (cAux c.bits) 0 with
      | (_, .data _ _) => true
      | _ => false) = true) ∧
    (let s := linked (world [far] [])
     s.servesRef (s.elemRef far 0) = false ∧ s.noRoute (s.elemRef far 0) = false ∧ (s.elemRef far 0).key = .dev far.node far.base) := by
  decide +kernel

theorem witness_CopyCommands_starts :
    (let c := cmd0 (tmpl ([(0, 12), (4, 0), (5, 0x20), (6, 0), (7, 1), (8, 0x40), (15, 8)] ++ once))
     let s := engined base 1 .ldq c
     Starting s .ldq c ∧ opOf c = 12 ∧ cDaddr c.bits % 4 = 0 ∧ passes (s.copyChecks .ldq s.me c) = true ∧
     (match s.sumRows s.who c (cRows c.bits) 0 with
      | .ok r => r.2 == List.replicate 8 0#8
      | .error _ => false) = true ∧ side s s.who (s.sideAt s.who (cDaddr c.bits) 4 .write) 0x40 (2 ^ 48 + 0x40) 4 = true) ∧
    (∀ op ∈ [8, 13],
      (let c := cmd0 (tmpl [(0, op), (15, if op = 8 then 8 else 0)])
       let s := engined base 1 .ldq c
       Starting s .ldq c ∧ opOf c = op ∧ passes (s.copyChecks .ldq s.me c) = true)) := ⟨by decide +kernel, by decide +kernel⟩

/-- A running CSYNC with SYSR behind a CWR of the load queue. -/
theorem witness_CopyCommands_sync :
    (let c := { cmd0 (tmpl [(0, 13), (3, 0x800)]) with phase := .running, order := 1 }
     let d := { cmd0 (tmpl [(0, 4)]) with phase := .running }
     let s := onMe (queued base .stq c) fun x => { x with queues := x.queues.set 0 [d] }
     opOf c = 13 ∧ (tF c.bits 3).toNat / 2048 % 2 = 1 ∧ d ∈ s.me.queues[Queue.ldq.num] ∧ d.order < c.order ∧ opOf d ∈ [4, 7, 10, 11] ∧
     d.phase ≠ .done) := by decide +kernel

/-- A CRED of a group of one, on INT32, that has joined. -/
def cred0 (rows : Nat) : Cmd :=
  { cmd0 (tmpl [(0, 9), (3, 0xA2), (4, 0), (5, 0x20), (6, 0), (7, 1), (8, 0x40), (12, rows), (13, 1), (14, 1), (15, 8), (28, 1)]) with
    phase := .running, link := 1 }

/-- The contexts of core 0, which alone these states change. -/
def four : List Who := (List.finRange 4).map fun k => { core := 0, ctx := k }

theorem filter_allWho (p : Who → Bool) (h : ∀ w, w.core ≠ 0 → p w = false) : allWho.filter p = four.filter p := by
  have h2 : allWho = four ++ (List.finRange 511).flatMap fun c : Fin 511 => (List.finRange 4).map fun k => ({ core := c.succ, ctx := k } : Who) := by
    simp only [allWho, four, List.finRange_succ (n := 511), List.flatMap_cons, List.flatMap_map]
  rw [h2, List.filter_append]
  have h3 : ((List.finRange 511).flatMap fun c : Fin 511 => (List.finRange 4).map fun k => ({ core := c.succ, ctx := k } : Who)).filter p = [] := by
    simp only [List.filter_eq_nil_iff, List.mem_flatMap, List.mem_map]
    rintro w ⟨c, -, k, -, rfl⟩
    simp [h { core := c.succ, ctx := k } (Fin.succ_ne_zero c)]
  simp [h3]

theorem flatMap_allWho {α : Type} (f : Who → List α) (h : ∀ w, w.core ≠ 0 → f w = []) : allWho.flatMap f = four.flatMap f := by
  have h2 : allWho = four ++ (List.finRange 511).flatMap fun c : Fin 511 => (List.finRange 4).map fun k => ({ core := c.succ, ctx := k } : Who) := by
    simp only [allWho, four, List.finRange_succ (n := 511), List.flatMap_cons, List.flatMap_map]
  rw [h2, List.flatMap_append]
  have h3 : ((List.finRange 511).flatMap fun c : Fin 511 => (List.finRange 4).map fun k => ({ core := c.succ, ctx := k } : Who)).flatMap f = [] := by
    simp only [List.flatMap_eq_nil_iff, List.mem_flatMap, List.mem_map]
    rintro w ⟨c, -, k, -, rfl⟩
    exact h { core := c.succ, ctx := k } (Fin.succ_ne_zero c)
  simp [h3]

theorem onMe_rest (s : State) (f : Ctx → Ctx) {d : CoreId} (h : s.who.core ≠ d) : (onMe s f).core d = s.core d :=
  Laws.modCore_core_other s _ h

theorem onCore_rest (s : State) (f : Core → Core) {d : CoreId} (h : s.who.core ≠ d) : (onCore s f).core d = s.core d :=
  Laws.modCore_core_other s _ h

theorem base_rest {d : CoreId} (h : (0 : CoreId) ≠ d) : base.core d = Core.reset := by
  refine (Laws.modCore_core_other _ _ h).trans ?_
  simp [State.core, State.reset]

theorem base_rest_ctx (w : Who) (s : State) (hs : ∀ d : CoreId, (0 : CoreId) ≠ d → s.core d = base.core d) (h : w.core ≠ 0) :
    s.ctxOf w = Ctx.reset := by
  simp [State.ctxOf, hs _ h.symm, base_rest h.symm, Core.reset]

theorem three_rest (s : State) (f : Core → Core) (g k : Ctx → Ctx) {d : CoreId} (h : s.who.core ≠ d) :
    (onMe (onMe (onCore s f) g) k).core d = s.core d :=
  (onMe_rest (onMe (onCore s f) g) k h).trans ((onMe_rest (onCore s f) g h).trans (onCore_rest s f h))

theorem engined_rest (s : State) (role : Nat) (q : Queue) (c : Cmd) (hw : s.who.core = 0) {d : CoreId} (h : (0 : CoreId) ≠ d) :
    (engined s role q c).core d = s.core d := by
  have h0 : s.who.core ≠ d := hw ▸ h
  exact three_rest s _ _ _ h0

theorem world_rest (os : List Obj) (vs : List (Nat × Word)) {d : CoreId} (h : (0 : CoreId) ≠ d) : (world os vs).core d = base.core d := by
  have h1 : (withRegs base vs).core d = base.core d := onMe_rest base _ h
  rw [← h1]
  exact onMe_rest { withRegs base vs with launches := [{ launch0 with objs := os.map some }], teams := [team0], nextId := 9 } _ h

def joined0 (n : Nat) : State := engined (world [obj0] []) 1 .ldq (cred0 n)

theorem joined0_rest (n : Nat) (w : Who) (h : w.core ≠ 0) : (joined0 n).ctxOf w = Ctx.reset :=
  base_rest_ctx w _ (fun _ hd => (engined_rest (world [obj0] []) _ _ _ rfl hd).trans (world_rest _ _ hd)) h

/-- Its one joined CRED. -/
theorem joined0_creds (n : Nat) (hn : n = 0 ∨ n = 1) :
    (joined0 n).joinedCreds 1 1 = [{ who := { core := 0, ctx := 0 }, rank := 0, q := .ldq, cmd := cred0 n }] := by
  have h : (allWho.filter fun w => ((joined0 n).ctxOf w).team == some 1) = [{ core := 0, ctx := 0 }] := by
    rw [filter_allWho _ fun w hw => by rw [joined0_rest n w hw]; rfl]
    rcases hn with rfl | rfl <;> decide +kernel
  unfold State.joinedCreds
  rw [h]
  rcases hn with rfl | rfl <;> decide +kernel

/-- What CredJoins assumes of a group of one with `n` rows. -/
def joinedOk (s : State) (c : Cmd) (n : Nat) : Bool :=
  Memory.wf s && decide (HeldPages s) && (tF c.bits 0).toNat / 8192 % 2 == 0 &&
  cRows c.bits == n && decide (Plain s s.who) && s.positionDead s.who == false &&
  side s s.who (s.sideAt s.who (cSaddr c.bits + srcOff c 0) 8 .read) page.toNat 0x200000 8 &&
  side s s.who (s.sideAt s.who (cDaddr c.bits + dstOff c 0) 8 .write) 0x40 (2 ^ 48 + 0x40) 8

theorem witness_CredJoins :
    (world [obj0] []).teamAt 1 = some team0 ∧ team0.credFaults = [] ∧
    (∀ r, r < 64 → ((1#64).getLsbD r = true ↔ r = 0)) ∧ (reduceBytes 0xA2 0 [List.replicate 8 0#8]).length = 8 := by decide +kernel

theorem witness_CredJoins_joined :
    (joined0 0).joinedCreds 1 1 = [{ who := { core := 0, ctx := 0 }, rank := 0, q := .ldq, cmd := cred0 0 }] ∧
    (joined0 1).joinedCreds 1 1 = [{ who := { core := 0, ctx := 0 }, rank := 0, q := .ldq, cmd := cred0 1 }] :=
  ⟨joined0_creds 0 (.inl rfl), joined0_creds 1 (.inr rfl)⟩

theorem witness_CredJoins_rows : (joined0 1).hides = [] ∧ (joined0 1).lineq = [] ∧ (joined0 1).touched (joined0 1).me page.toNat 8 = [] ∧ joinedOk (joined0 0) (cred0 0) 0 = true ∧ joinedOk (joined0 1) (cred0 1) 1 = true := by decide +kernel

/-- Two members whose commands differ in the row length. -/
theorem witness_CredJoins_disagree :
    (let d := { cred0 1 with bits := tPut (cred0 1).bits 15 1 16 }
     let s := pair.setCtx { core := 0, ctx := 1 } { pair.ctxOf { core := 0, ctx := 1 } with queues := (Ctx.reset.queues.set 0 [d]) }
     let t := queued s .ldq { cred0 1 with bits := tPut (cred0 1).bits 28 1 3 }
     credDiffers (cred0 1).bits d.bits = some 15 ∧ (t.teamOf t.me).map (·.credFaults) = some [] ∧ d.cores = [] ∧ d.link = (cred0 1).link) := by
  decide +kernel

theorem witness_CredReductions :
    ([0, 2 ^ 32 - 1] : List Nat).length < 64 ∧ (∀ x ∈ [(7 : Nat), 0, 2 ^ 32 - 1], x < 2 ^ 32) ∧ isNan32 0x7F800001 := by decide +kernel

/-! ## The network -/

/-- The Ethernet port with endpoint 16 of slot 0 open, with these bits in its configuration, and peer 0 entered. -/
def wired (s : State) (e : Endpoint) : State := { s with
  ether := { s.ether with ectl := 1, linkUp := true, eps := s.ether.eps.set 16 e, peers := [(0, BitVec.twoPow 256 144)] } }

def open0 : Endpoint := { Endpoint.reset with cfg := 0x21, wsize := 0x1000, wbase := page }

/-- A network command over bytes of the local window, from 0x80 on, with endpoint 16. -/
def net0 (op len : Nat) (fs : List (Nat × Nat)) : Cmd := cmd0 (tmpl ([(0, op), (4, 0x80), (12, len), (14, 16), (20, 0x400)] ++ fs))

theorem witness_NetworkCommands :
    (∀ op ∈ [1, 2, 3],
      (let c := net0 op 16 []
       let s := engined (wired base open0) 1 .nxq c
       Starting s .nxq c ∧ c.pops .nxq = [] ∧ s.hides = [] ∧ opOf c = op ∧ passes (s.netChecks s.me c) = true ∧ passes (s.netEnds s.me c.bits) = true ∧
       passes (s.netAddrs s.who c.bits) = true ∧ side s s.who (s.netSide s.who 0x80 16 .both) 0x80 (2 ^ 48 + 0x80) 16 = true)) ∧
    (let c := net0 2 16 []
     let m : HeldMsg := { msg := 1, tag := 0, total := 4, parts := [(0, [1, 2, 3, 4])] }
     let s := engined (wired base { open0 with held := [m] }) 1 .nxq c
     (s.ether.eps[16]?).map (·.held) = some [m] ∧ ((m.tag.toNat ^^^ nRaddr c.bits) &&& nPeer c.bits) = 0 ∧
     side s s.who (s.statSide s.who c.bits 16) 0x400 (2 ^ 48 + 0x400) 16 = true) ∧
    (let c := net0 2 16 [(16, 1)]
     let m : HeldMsg := { msg := 1, tag := 1, total := 4, parts := [(0, [1, 2, 3, 4])] }
     ((m.tag.toNat ^^^ nRaddr c.bits) &&& nPeer c.bits) ≠ 0) ∧
    (let s := engined base 1 .nxq count0
     opOf count0 = 4 ∧ leNat (s.rawRead (2 ^ 48 + 0x40) 8) < nParam count0.bits ∧ nParam (cmd0 (tmpl [(0, 4), (24, 0x40)])).bits ≤ 0) ∧
    (let c := net0 5 0 [(3, 0)]
     let s := engined (world [obj0] []) 1 .nxq c
     Starting s .nxq c ∧ passes (s.netChecks s.me c) = true ∧ s.objOf s.me (nObj c.bits) = some obj0 ∧ convAxes c.bits obj0 = []) ∧
    (let c := net0 1 16 []
     let s := engined base 1 .nxq c
     (s.ether.eps[nEp c.bits]?.map fun e => e.cfg.getLsbD 0) = some false) :=
  ⟨by decide +kernel, by decide +kernel, by decide +kernel, by decide +kernel, by decide +kernel, by decide +kernel⟩

theorem witness_NetworkCommands_slots :
    (let c := net0 6 8 [(3, 0xA100), (14, 0), (36, 2)]
     let s := engined (linked base) 1 .nxq c
     Starting s .nxq c ∧ opOf c = 6 ∧ passes (s.netChecks s.me c) = true ∧ passes (s.netAddrs s.who c.bits) = true ∧ nEp c.bits = 0 ∧
     s.stations[0].live = true ∧ base.stations[0].live = false) ∧
    (let c := net0 7 8 [(8, 0x100)]
     let s := engined (linked base) 1 .nxq c
     Starting s .nxq c ∧ opOf c = 7 ∧ passes (s.netChecks s.me c) = true ∧ passes (s.netAddrs s.who c.bits) = true ∧
     side s s.who (s.netSide s.who 0x80 8 .read) 0x80 (2 ^ 48 + 0x80) 8 = true) := ⟨by decide +kernel, by decide +kernel⟩

/-- A contribution whose slot's station is not live. -/
theorem witness_NetworkCommands_dead :
    (let c := net0 7 8 [(8, 0x100)]
     let s := engined base 1 .nxq c
     passes (s.netChecks s.me c) = true ∧ passes (s.netAddrs s.who c.bits) = true ∧ passes (s.netEnds s.me c.bits) = true ∧ nParam c.bits % 64 = 0 ∧
     s.stations[0].live = false ∧ side s s.who (s.statSide s.who c.bits 16) 0x400 (2 ^ 48 + 0x400) 16 = true) := by decide +kernel

theorem witness_SlotAnswers :
    (∀ p ∈ [(6, ReqKind.slotAlloc), (7, .slotContrib)],
      (let c := { net0 p.1 8 [(8, 0x100)] with phase := .running, link := 4 }
       let r := { req0 p.2 with team := none }
       let s := { engined base 1 .nxq c with reqs := [r] }
       s.me.queues[4] = [c] ∧ c.link = r.id ∧ s.reqAt r.id = some r ∧ r.due = none ∧ r.sent = true ∧ r.who = s.who ∧ s.positionDead s.who = false ∧ Plain s s.who ∧ opOf c = p.1 ∧
       side s s.who (s.statSide s.who c.bits 16) 0x400 (2 ^ 48 + 0x400) 16 = true ∧
       side s s.who (s.statSide s.who c.bits 8) 0x400 (2 ^ 48 + 0x400) 8 = true ∧
       side s s.who (s.netSide s.who (nRaddr c.bits) 8 .write) 0x100 (2 ^ 48 + 0x100) 8 = true)) ∧ base.reqAt 4 = none ∧ base.homes = [] := by decide +kernel

theorem witness_EthernetTraffic :
    (∀ op ∈ [1, 3],
      (let c := { net0 op 4097 [] with phase := .running }
       let s := engined (wired base open0) 1 .nxq c
       s.me.queues[4] = [c] ∧ s.hides = [] ∧ s.lineq = [] ∧ s.positionDead s.who = false ∧ opOf c = op ∧ s.ether.ectl.getLsbD 0 = true ∧ s.ether.linkUp = true ∧ c.acked = [] ∧ max 1 ((nLen c.bits + 4095) / 4096) = 2 ∧
       0 < s.ether.rtry.toNat % 256 ∧ side s s.who (s.netSide s.who (0x80 + 4096 * 1) 1 .read) 0x1080 (2 ^ 48 + 0x1080) 1 = true)) ∧
    (({ net0 1 16 [] with tries := [(0, 8)] } : Cmd).tries.find? fun e => e.1 == 0).map (·.2) = some 8 ∧ base.ether.rtry.toNat % 256 ≤ 8 ∧
    base.gtc.toNat < (((({ net0 1 16 [] with dues := [(0, 8)] } : Cmd).dues.find? fun e => e.1 == 0).map (·.2)).getD 0) ∧
    base.ether.linkUp = false := by decide +kernel

def port : State := wired base open0
def packet0 : TagPacket := { msg := 1, tag := 0, total := 4, off := 0, data := [1, 2, 3, 4] }

/-- A write of a slot's pages in one part. -/
def onePart (r : State × Except (Nat × Byte) (List (Nat × Nat))) (p n : Nat) : Bool := match r.2 with
  | .ok ps => ps == [(p, n)]
  | .error _ => false

theorem witness_EthernetArrivals :
    port.ether.eps[16]? = some open0 ∧ port.ether.ectl.getLsbD 0 = true ∧ port.ether.linkUp = true ∧ packet0.data.length ≤ 4096 ∧
    packet0.off + packet0.data.length ≤ packet0.total ∧ open0.cfg.getLsbD 0 = true ∧ open0.held = [] ∧ open0.cfg.getLsbD 5 = true ∧
    open0.key = 0 ∧ (0xFFC : Word).toNat + 4 ≤ open0.wsize.toNat ∧ open0.cnt = 0 ∧ Endpoint.reset.cfg.getLsbD 0 = false ∧
    ({ open0 with held := List.replicate 64 { msg := 0, tag := 0, total := 1, parts := [] } } : Endpoint).held.length = 64 := by decide +kernel

theorem witness_EthernetArrivals_free : port.postedOn 16 = [] := by
  unfold State.postedOn
  rw [flatMap_allWho _ fun w hw => by rw [base_rest_ctx w port (fun _ _ => rfl) hw]; rfl]
  decide +kernel

theorem witness_EthernetArrivals_window :
    onePart (port.spans (port.ether.slotOf 16) .write (pageParts (page.toNat + 0xFFC) 4)) 0x200FFC 4 = true := by decide +kernel

def receive0 : Cmd := { net0 2 16 [] with phase := .running, link := 3 }
def receiving : State := engined port 1 .nxq receive0

/-- A posted receive takes the message. -/
theorem witness_EthernetArrivals_taken :
    receive0.msg = none ∧
    side receiving receiving.who (receiving.netSide receiving.who (nLaddr receive0.bits) 4 .write) 0x80 (2 ^ 48 + 0x80) 4 = true ∧
    side receiving receiving.who (receiving.statSide receiving.who receive0.bits 16) 0x400 (2 ^ 48 + 0x400) 16 = true := by decide +kernel

theorem witness_EthernetArrivals_posted : receiving.postedOn 16 = [{ who := { core := 0, ctx := 0 }, pos := 0, cmd := receive0 }] := by
  unfold State.postedOn
  rw [flatMap_allWho _ fun w hw => by
    rw [base_rest_ctx w receiving (fun _ hd => engined_rest port _ _ _ rfl hd) hw]; rfl]
  decide +kernel

def launching : State := { ringed 1 2 0 with ether := { base.ether with ectl := 1, linkUp := true, eps := base.ether.eps.set 0 open0 } }

/-- A launch endpoint takes a record. -/
theorem witness_EthernetArrivals_record :
    launching.ether.eps[0]? = some open0 ∧ ringSize launching.slots[0].lrsize = 4096 ∧ launching.slots[0].lrpi = 0 ∧
    launching.slots[0].lrci = 0 ∧ open0.placed = [] ∧ onePart (launching.spans 0 .write (pageParts page.toNat 64)) 0x200000 64 = true := by
  decide +kernel

/-! ## Stations, debug and management -/

/-- `base` with station 63 as given. -/
def stationed (x : Station) : State := { base with stations := base.stations.set 63 x }

def station0 : Station := Station.reset 63

theorem witness_Stations :
    base.reqs = [] ∧ base.relays = [] ∧ base.cache = [] ∧ base.prefetch = [] ∧
    ({ station0 with rxkey := some 1 } : Station).rxkey.isSome = true ∧ station0.txnext = none ∧
    (∀ st ∈ [StState.down, .train, .idcheck, .up, .quiescing, .quiesced, .keyexh],
      (stationed { station0 with state := st }).stations[63].state = st) ∧
    (let id : Identity := { stn := 0, mem := false, idx := 63, isSwitch := true, digest := 0 }
     station0.exppeer.toNat / 2 ^ 17 % 4 = 0 ∧ id.isSwitch = true ∧ id.idx.toNat = station0.exppeer.toNat / 2 ^ 11 % 64 ∧
     ({ id with idx := 62 } : Identity).idx.toNat ≠ station0.exppeer.toNat / 2 ^ 11 % 64) ∧
    ({ station0 with mode := 2 } : Station).mode.val = 2 ∧ station0.mode.val < 2 ∧
    ({ station0 with txctr := 0x800000000000 } : Station).txctr.toNat ≤ 2 ^ 47 ∧
    2 ^ 47 < ({ station0 with txctr := 0x800000000001 } : Station).txctr.toNat ∧
    station0.since + 1000 * (station0.keywait.toNat % 2 ^ 32) ≤ ({ base with gtc := 10000000 } : State).gtc.toNat ∧
    ({ base with gtc := 9999999 } : State).gtc.toNat < station0.since + 1000 * (station0.keywait.toNat % 2 ^ 32) ∧
    station0.since + 1000 * (station0.qtmo.toNat % 2 ^ 32) ≤ ({ base with gtc := 1000000 } : State).gtc.toNat := by decide +kernel

/-- A request sent on station 63. -/
theorem witness_Stations_losses :
    (let s := { stationed { station0 with state := .quiescing } with reqs := [{ req0 .lsrel with station := some 63 }] }
     ∃ r ∈ s.reqs, r.station = some 63 ∧ r.due = none ∧ r.fill = false ∧ (r.sent = true ∨ r.isSlot = true)) :=
  ⟨_, List.mem_singleton.mpr rfl, rfl, rfl, rfl, .inl rfl⟩

theorem witness_Debugging :
    (let s := waiting base (.wait (.tkpop .sv))
     s.mgmt.pkghlt = false ∧ s.me.run = .waiting ∧ s.me.ended = false ∧ s.frozen s.me = false ∧ (s.core 0).dbg.hreq = 0 ∧ base.me.run = .active) ∧
    (let s := onMe base fun x => { x with run := .halted }
     s.me.run = .halted ∧ s.me.blocked = none) ∧
    (∀ e ∈ [(0, 63), (0, 255), (1, 31), (1, 32), (2, 0), (3, 0x1B), (4, 0), (5, 0), (7, 0)],
      (let sel := e.1 * 4 + e.2 * 2 ^ 8
       let s := onCore (onMe base fun x => { x with run := .halted }) fun c => { c with dbg := { c.dbg with dsel := BitVec.ofNat 64 sel } }
       (s.core 0).dbg.dsel.toNat / 4 % 8 = e.1 ∧ (s.core 0).dbg.dsel.toNat / 2 ^ 8 % 2 ^ 8 = e.2 ∧ (s.core 0).dbg.dsel.toNat % 4 = 0)) ∧
    (let s := onMe (queued base .ldq { fill0 with phase := .running }) fun x => { x with run := .halted }
     (s.me.queues[(0 : Fin 5)][0]?).map (·.phase) = some .running) := by decide +kernel

theorem witness_ManagementWrites :
    (let g : Hold := { key := .pool 3, count := 1, stop := 1, token := 4 }
     let s := { base with holds := [g] }
     ∃ h ∈ s.holds, ∃ id, h.key = .pool id ∧ ∃ k, s.holdOf (.pool id) = some k ∧ 0 < k.count ∧ s.gtc.toNat < k.stop.toNat) ∧ base.holds = [] ∧ base.mgmt.tinvPending = [] ∧
    (16 : Nat) ≤ ({ base.mgmt with tinvPending := List.replicate 16 0 } : Mgmt).tinvPending.length ∧
    (∃ tag, Config.sidebandTag base.mgmt.sideKey 1 [] = tag ∧ base.mgmt.sideSeq.toNat < (1 : Word).toNat) ∧
    ¬ base.mgmt.sideSeq.toNat < (0 : Word).toNat := by
  refine ⟨⟨_, List.mem_singleton.mpr rfl, 3, rfl, { key := .pool 3, count := 1, stop := 1, token := 4 }, by decide +kernel, by decide +kernel, by decide +kernel⟩, by decide +kernel, by decide +kernel, by decide +kernel, ⟨_, rfl, by decide +kernel⟩, by decide +kernel⟩

/-- Just above, at, and below the limits of PWRCTL after reset. -/
theorem witness_PowerAndBoot :
    (let p := base.mgmt.pwrctl.toNat
     p % 2 ^ 16 = 10000 ∧ 10 * (p / 2 ^ 16 % 2 ^ 16) = 20000 ∧ 8 * (p / 2 ^ 32 % 2 ^ 8) = 760 ∧ 8 * (p / 2 ^ 40 % 2 ^ 8) = 840 ∧
     (10000 : Nat) < 10001 ∧ 100 * 9499 < 95 * (p % 2 ^ 16) ∧ ¬ 100 * 9500 < 95 * (p % 2 ^ 16) ∧ 11 * 20000 ≤ 10 * 22000 ∧ ¬ 11 * 20000 ≤ 10 * 21999) ∧
    base.gtc.toNat < base.mgmt.evalAt + 10000 ∧ base.mgmt.evalAt + 10000 ≤ ({ base with gtc := 10000 } : State).gtc.toNat ∧ base.mgmt.limits = base.mgmt.pwrctl ∧
    base.mgmt.calm + 1 < 100 ∧ 100 ≤ ({ base.mgmt with calm := 99 } : Mgmt).calm + 1 ∧ base.mgmt.sync = false ∧ base.poison = [] ∧ base.worn = [] ∧ base.dirty = [] := by decide +kernel

/-- The first and the last memory device, one that is none, and a device that has logged within the millisecond. -/
theorem witness_PowerAndBoot_devices :
    (0#16).toNat < 272 ∧ (271#16).toNat < 272 ∧ 272 ≤ (272#16).toNat ∧ base.mgmt.corrected = [] ∧ base.gtc = 0 ∧
    ((5 : Nat) < 5 + 1000000 ∧ 5 ∈ ({ base.mgmt with corrected := [(271, 5)] } : Mgmt).corrected.map (·.2)) :=
  ⟨by decide, by decide, by decide, rfl, rfl, by omega, List.mem_singleton.mpr rfl⟩

/-- A package that has lost its synchronisation. -/
theorem witness_SideBand_lost : ({ base.mgmt with sync := false, lostAt := some 0 } : Mgmt).lostAt = some 0 := rfl

/-- A bank whose image may run, if it verifies, which is open (log 48); a boot that goes on. -/
theorem witness_BootBanks :
    (let m := { base.mgmt with bank0 := [(0, 1)], rollctr := 1 }
     m.rollctr.toNat ≤ (BitVec.ofNat 64 (leNat (cellsRead m.bank0 0 8)) : Word).toNat ∧
     ¬ ({ m with rollctr := 2 } : Mgmt).rollctr.toNat ≤ (BitVec.ofNat 64 (leNat (cellsRead m.bank0 0 8)) : Word).toNat) ∧
    (let f : BootFacts := { goesOn := false, upTo := 8, failAt := none, regs := [(6, 0x134000, 7)], tables := [(6, 0x200000, [1])] }
     f.goesOn = false ∧ f.failAt = none ∧ 8 ≤ f.upTo) ∧
    (let f : BootFacts := { goesOn := false, upTo := 7, failAt := some 7, regs := [], tables := [] }
     f.failAt = some 7 ∧ 2 ≤ (7 : Fin 8).val ∧ (7 : Fin 8).val ≤ f.upTo) ∧
    (let f : BootFacts := { goesOn := true, upTo := 5, failAt := none, regs := [], tables := [] }
     let m := { base.mgmt with bootStep := 4 }
     f.goesOn = true ∧ m.bootStep = 4 ∧ m.bootFail = false ∧ f.upTo = 5) := by decide +kernel

theorem witness_DiesWithoutPower :
    (let s := { State.reset with agenda := [{ ns := 0, cycles := 0, move := .issue 511 }] }
     s.mgmt.bootStep.toNat < 2 ∧ ({ s.mgmt with railsOn := false } : Mgmt).railsOn = false) ∧
    (let s := { base with agenda := [{ ns := 0, cycles := 0, move := .event (.mma base.who) }] }
     s.mgmt.railsOn = true ∧ ¬ (s.mgmt.bootStep.toNat < 4 ∨ s.mgmt.bootStep = 4 ∧ s.mgmt.bootFail = true) ∧ 2 ≤ s.mgmt.bootStep.toNat) ∧
    (let m := { base.mgmt with bootStep := 4, bootFail := true }
     m.bootStep.toNat < 4 ∨ m.bootStep = 4 ∧ m.bootFail = true) := by decide +kernel

/-- A state in which core 0 issues an ADD, fetched and decoded. -/
def issuing : State :=
  { State.reset.placed [0xC0, 0x20, 0x04, 0x01] with agenda := [{ ns := 1, cycles := 1, move := .issue 0 }] }

theorem witness_StepRunsDecoded :
    issuing.mgmt.railsOn = true ∧ 4 ≤ issuing.mgmt.bootStep.toNat ∧ issuing.mgmt.bootStep ≠ 4 ∧ issuing.mgmt.pkghlt = false ∧ issuing.me.run = .active ∧
    issuing.me.blocked = none := by decide +kernel

theorem witness_StepRunsDecoded_others : (∀ k : Fin 4, k ≠ issuing.who.ctx → (issuing.core 0).ctx[k].run ≠ .active) := by decide +kernel

theorem witness_StepRunsDecoded_plain :
    issuing.me.pend = false ∧ issuing.me.past = none ∧ issuing.me.hangt = 0 := by decide +kernel

theorem witness_StepRunsDecoded_debug : issuing.me.step = .none ∧ (issuing.core 0).dbg.hreq = 0 := by decide +kernel

theorem witness_StepRunsDecoded_breaks :
    (issuing.core 0).dbg.roles = [] ∧ (issuing.core 0).dbg.dbpa.toList.all (fun b => !b.getLsbD 0) = true := by decide +kernel

theorem witness_StepRunsDecoded_fetch :
    (match ({ issuing with cycle := 1, gtc := 1, agenda := [], who := issuing.who } : State).fetch issuing.who with
      | .ok r => r.2 == [0x010420C0#32]
      | .error _ => false) = true := by decide +kernel

theorem witness_StepKeepsForms : Memory.wf base = true ∧ HeldPages base ∧ QueueForm base ∧ BankForm base := by decide +kernel

theorem witness_DecodeEncode : (Instr.add 1 2 3).wellFormed = true ∧ encode (.add 1 2 3) ≠ [] := by decide +kernel

/-! ## Hypotheses of single clauses -/

/-- Three members of a team: a second and a third wait in the group barrier of all, with clocks of their own. -/
def trio : State :=
  let tm := { team0 with members := [.at { core := 0, ctx := 0 }, .at { core := 0, ctx := 1 }, .at { core := 0, ctx := 2 }], coreGroups := [[0, 1, 2]] }
  let s := { world [obj0] [] with teams := [tm], launches := [{ launch0 with groups := [(3, 7)] }] }
  let waits := fun (s : State) (k : Fin 4) (v : Clock) =>
    s.setCtx { core := 0, ctx := k } { s.me with rank := k.val, run := .waiting, blocked := some (.wait (.gbar 3)), clock := v }
  waits (waits s 1 (Clock.zero.set 1 5)) 2 (Clock.zero.set 2 6)

theorem witness_GroupBarriers_three :
    (let s := trio
     let v : Clock := ((s.me.clock).set 1 5).set 2 6
     (s.teamOf s.me).isSome = true ∧ (s.groupMask s.me 3).getLsbD s.me.rank = true ∧ Unposted s ∧
     ((s.teamOf s.me).all fun tm => decide (tm.whoOf s.me.rank = some s.who) &&
       [1, 2].all (fun r => decide (((tm.whoOf r).map fun w => (s.ctxOf w).blocked) = some (some (.wait (.gbar 3)))) &&
         (tm.whoOf r).all fun w => w != s.who) &&
       (List.finRange 64).all fun j => ([0, 1, 2].all fun r => (s.rankClock tm r)[j].toNat ≤ v[j].toNat) &&
         [0, 1, 2].any fun r => v[j] == (s.rankClock tm r)[j]) = true ∧
     v.toList.all (fun e => e.toNat + 1 < 2 ^ 32) = true) := by decide +kernel

/-- A context that has waited for a line lease, or has gone on, for as long as HANGT. -/
theorem witness_Hangs_kinds :
    (let s := waiting (onMe (withRegs base []) fun x => { x with hangt := 5, progress := { acc := 5, since := none } }) .lineLease
     s.me.blocked = some .lineLease ∧ s.me.run = .waiting ∧ s.me.hangt.toNat ≤ s.progressOf s.me) ∧
    (let s := onMe (withRegs base []) fun x => { x with hangt := 5, progress := { acc := 5, since := none } }
     s.me.run = .active ∧ s.me.blocked = none ∧ s.me.step = .none ∧ s.me.overdue = false ∧ s.me.safetoDue = false ∧
     (s.core 0).dbg.hreq.getLsbD 0 = false ∧ (s.core 0).dbg.matches s.me.pc = false ∧ s.me.hangt.toNat ≤ s.progressOf s.me) := by decide +kernel

/-- A LAUNCH that credits a barrier of the issuer's core group. -/
theorem witness_DeviceLaunches_credit :
    (let s := world [obj0] []
     s.teamAt (s.me.team.getD s.nextId) = some team0 ∧ team0.phase ≠ .swapped ∧ team0.groupCore s.me.rank = some 0) := by decide +kernel

/-- The second of two running commands of a queue. -/
theorem witness_CopyRows_second :
    (let c := { landing 5 with order := 1 }
     let s := onMe (engined base 1 .ldq c) fun x => { x with queues := x.queues.set 0 [landing 1, c] }
     s.me.queues[Queue.ldq.num] = [landing 1] ++ c :: [] ∧ ([landing 1].filter Cmd.lands).length = 1) := by decide +kernel

/-- A CATOM on an object of another package: its request goes out. -/
theorem witness_CopyCommands_request :
    (let c := { cmd0 (tmpl [(0, 0x40B), (8, 0x40)]) with phase := .running }
     let s := engined (linked (world [far] [])) 1 .ldq c
     s.objOf s.me (cObj c.bits) = some far ∧ s.lineq = [] ∧ s.hides = [] ∧
     (s.cmdReq s.who .ldq c 0 (cObj c.bits) (cOff c.bits) (s.elemRef far (cOff c.bits)) (.rowAtom (cAop c.bits) true (cAux c.bits) 0)).sent = true) := by
  decide +kernel

/-- What holds a quiesce: a page fetch, an allocation of a conversion's home, and a relayed request. -/
theorem witness_Stations_out :
    (let c : CachePage := { poolid := 3, page := 0, state := .fetching, data := [], fetch := some { id := 2, node := 1, captag := 0, station := some 63, sent := true } }
     c.fetch.any (fun f => f.sent && f.station == some 63) = true) ∧
    (asking.asks.any fun a => a.plane == 0 && a.name.isNone && a.due.isNone) = true ∧
    ({ id := 3, src := 9, page := 2, station := 63 } : RelayRec).station = 63 ∧ base.homes = [] := by decide +kernel

theorem witness_Relays_passing : (5 : BitVec 11) ≠ base.ownNode := by decide +kernel

theorem witness_SideBand_bank : (0x10#32).toNat % 8 = 0 ∧ BankForm base := by decide +kernel

/-! ## Words written out from the encodings (R97 to R119) -/

/-- The words decode to the instruction. -/
def reads (ws : List IWord) (i : Instr) : Bool := match decodeWords ws with
  | .ok j => j == i
  | .error _ => false

theorem test_decode_integer :
    reads [0x01FFAD40#32] (.add 63 58 53) &&
    reads [0x01E33B81#32] (.sub 56 51 46) &&
    reads [0x01C6C9C2#32] (.mul 49 44 39) &&
    reads [0x01AA5803#32] (.mulh 42 37 32) &&
    reads [0x018FEE44#32] (.mulhu 35 62 57) &&
    reads [0x01F37C85#32] (.div 60 55 50) &&
    reads [0x01D70AC6#32] (.divu 53 48 43) &&
    reads [0x01BA9907#32] (.rem 46 41 36) &&
    reads [0x019E2F48#32] (.remu 39 34 61) &&
    reads [0x0183BD89#32] (.and 32 59 54) &&
    reads [0x01E74BCA#32] (.or 57 52 47) &&
    reads [0x01CADA0B#32] (.xor 50 45 40) &&
    reads [0x01AE684C#32] (.andn 43 38 33) &&
    reads [0x0193FE8D#32] (.shl 36 63 58) &&
    reads [0x01F78CCE#32] (.shr 61 56 51) &&
    reads [0x01DB1B0F#32] (.sra 54 49 44) &&
    reads [0x01BEA950#32] (.rol 47 42 37) &&
    reads [0x01A23F91#32] (.min 40 35 62) &&
    reads [0x0187CDD2#32] (.max 33 60 55) &&
    reads [0x01EB5C13#32] (.minu 58 53 48) &&
    reads [0x01CEEA54#32] (.maxu 51 46 41) &&
    reads [0x01B27015#32] (.clz 44 39) &&
    reads [0x01960016#32] (.ctz 37 32) &&
    reads [0x01FB9017#32] (.popc 62 57) := by
  decide +kernel

theorem test_decode_compare :
    reads [0x02DF2B40#32] (.ceq 55 50 45) &&
    reads [0x02C2B981#32] (.cne 48 43 38) &&
    reads [0x02A64FC2#32] (.clt 41 36 63) &&
    reads [0x028BDE03#32] (.cle 34 61 56) &&
    reads [0x02EF6C44#32] (.cltu 59 54 49) &&
    reads [0x02D2FA85#32] (.cleu 52 47 42) &&
    reads [0x03B688FE#32] (.sel 45 40 35 62) := by
  decide +kernel

theorem test_decode_float :
    reads [0x049A1F00#32] (.fadd 38 33 60) &&
    reads [0x04FFAD41#32] (.fsub 63 58 53) &&
    reads [0x04E33B82#32] (.fmul 56 51 46) &&
    reads [0x04C6C9C3#32] (.fdiv 49 44 39) &&
    reads [0x04AA5004#32] (.fsqrt 42 37) &&
    reads [0x048FEE45#32] (.fmin 35 62 57) &&
    reads [0x04F37C86#32] (.fmax 60 55 50) &&
    reads [0x05D70AE6#32] (.ffma 53 48 43 38) &&
    reads [0x06A64FC4#32] (.fcmp .un 41 36 63) &&
    reads [0x07F78022#32] (.fcvt .int64 .fp16 61 56) := by
  decide +kernel

theorem test_decode_immediate :
    reads [0x0883BED6#32] (.addi 32 59 3798) &&
    reads [0x09E74ECF#32] (.andi 57 52 3791) &&
    reads [0x0ACADEC8#32] (.ori 50 45 3784) &&
    reads [0x0BAE6EC1#32] (.xori 43 38 3777) &&
    reads [0x0C93F03A#32] (.shli 36 63 58) &&
    reads [0x0DF78033#32] (.shri 61 56 51) &&
    reads [0x0EDB102C#32] (.srai 54 49 44) &&
    reads [0x0F0C0000#32, 0x12345678#32] (.li 3 0x12345678) &&
    reads [0x100C0000#32, 0xFEDCBA98#32] (.liw 3 0xFEDCBA98) := by
  decide +kernel

theorem test_decode_control :
    reads [0x11FFFEA1#32] (.br 16776865) &&
    reads [0x12FFFE9A#32] (.call 16776858) &&
    reads [0x13000000#32] (.ret) &&
    reads [0x14B27000#32] (.jmpr 44 39) &&
    reads [0x15940E80#32] (.bz 37 3712) &&
    reads [0x16F80E79#32] (.bnz 62 3705) &&
    reads [0x17DF2E6D#32] (.beq 55 50 3693) &&
    reads [0x18C2BE66#32] (.bne 48 43 3686) &&
    reads [0x19A64E5F#32] (.blt 41 36 3679) &&
    reads [0x1A8BDE58#32] (.bge 34 61 3672) &&
    reads [0x1BEC0E56#32] (.loop 59 3670) := by
  decide +kernel

theorem test_decode_handle :
    reads [0x1CA02FCA#32] (.hld 20 47 202) &&
    reads [0x1D0768C3#32] (.hst 29 40 195) &&
    reads [0x1E883C40#32] (.hset .flg 17 60) &&
    reads [0x1F06B550#32] (.hget .dim0 26 53) &&
    reads [0x20C4C000#32] (.hmov 24 19) &&
    reads [0x218F2780#32] (.hslice 17 28 39 2) &&
    reads [0x22D03E25#32] (.hobj 26 15909) &&
    reads [0x23983EC0#32] (.hadv 19 62 3) &&
    reads [0x24F00097#32] (.grank 60 151) &&
    reads [0x25D40090#32] (.gsize 53 144) &&
    reads [0x26000038#32] (.rega 56) := by
  decide +kernel

theorem test_decode_memory :
    reads [0x279E2DFD#32] (.ldb 39 34 3581) &&
    reads [0x2883BDF6#32] (.ldh 32 59 3574) &&
    reads [0x29E74DEF#32] (.ldw 57 52 3567) &&
    reads [0x2ACADDE8#32] (.ldd 50 45 3560) &&
    reads [0x2BAE6DE1#32] (.stb 43 38 3553) &&
    reads [0x2C93FDDA#32] (.sth 36 63 3546) &&
    reads [0x2DF78DD3#32] (.stw 61 56 3539) &&
    reads [0x2EDB1DCC#32] (.std 54 49 3532) &&
    reads [0x2FAA5803#32] (.ldx .d 42 37 32) &&
    reads [0x308FEE41#32] (.stx .h 35 62 57) := by
  decide +kernel

theorem test_decode_atomic :
    reads [0x31CADA1D#32] (.aadd true .ar .die 50 45 40) &&
    reads [0x32AE6856#32] (.amin true .acq .pkg 43 38 33) &&
    reads [0x3393FE9B#32] (.amax true .rel .sys 36 63 58) &&
    reads [0x34F78CDD#32] (.aand true .ar .die 61 56 51) &&
    reads [0x35DB1B16#32] (.aor true .acq .pkg 54 49 44) &&
    reads [0x36BEA95B#32] (.axor true .rel .sys 47 42 37) &&
    reads [0x37A23F9D#32] (.aswap true .ar .die 40 35 62) &&
    reads [0x3887CDD6#32] (.acas true .acq .pkg 33 60 55) := by
  decide +kernel

theorem test_decode_order :
    reads [0x39000006#32] (.fence .acq .pkg) &&
    reads [0x3AE3300E#32] (.lda .pkg .d 56 51) &&
    reads [0x3B031B07#32] (.stl .sys .h 49 44) &&
    reads [0x3C02FA81#32] (.flushd true 47 42) &&
    reads [0x3D02D000#32] (.llease 45) &&
    reads [0x3E026000#32] (.llrel 38) &&
    reads [0x3FF8000A#32] (.place 31 10) &&
    reads [0x40C0000B#32] (.seal 24 11) &&
    reads [0x41046C07#32] (.objq 17 44 7) &&
    reads [0x42025801#32] (.modesw true 37 32) &&
    reads [0x4304FE03#32] (.cbld 19 62 3) &&
    reads [0x44BCADA3#32] (.pst .d 23 18 45 40) := by
  decide +kernel

theorem test_decode_pool :
    reads [0x45042B99#32] (.pld .h 16 43 38) &&
    reads [0x46353FEB#32] (.patom .swap .d 20 63 58) &&
    reads [0x4705E200#32] (.lsacq 23 34) &&
    reads [0x48040000#32] (.lsrel 16) &&
    reads [0x49E40094#32] (.binit 57 148) := by
  decide +kernel

theorem test_decode_sync :
    reads [0x4ACAD000#32] (.barr 50 45) &&
    reads [0x4BAE6000#32] (.bexp 43 38) &&
    reads [0x4C900001#32] (.bwait 36 true) &&
    reads [0x4DF40038#32] (.btest 61 56) &&
    reads [0x4E0000F6#32] (.gbar 246) &&
    reads [0x4F000003#32] (.tkpop .vm) &&
    reads [0x50000004#32] (.tkpush .vs) &&
    reads [0x51404000#32, 0x0428003F#32, 0x08480005#32] (.emit .vxq [0x0428003F, 0x08480005]) := by
  decide +kernel

theorem test_decode_issue :
    reads [0x5280E035#32] (.emitr .nxq 53 7) &&
    reads [0x5300021F#32] (.qwait .mxq 31) &&
    reads [0x549C0400#32] (.qstat .vxq 39) &&
    reads [0x5503B0A0#32] (.tmpld .vector 32 59) &&
    reads [0x56000003#32] (.tmpsw .net) &&
    reads [0x57B68072#32] (.tmprd .matrix 50 45 40) &&
    reads [0x58030AC5#32] (.pleat 48 43 5) := by
  decide +kernel

theorem test_decode_pleat :
    reads [0x59029006#32] (.pcarry 41 6) &&
    reads [0x5A000000#32] (.pgret) &&
    reads [0x5B03B006#32] (.pcmp 59 6) &&
    reads [0x5CFFFC94#32] (.plend 16776340) &&
    reads [0x5D008000#32, 0x00000047#32] (.launch 8 true 7) := by
  decide +kernel

theorem test_decode_system :
    reads [0x5EFFFC86#32] (.trap 16776326) &&
    reads [0x5F000000#32] (.rtt) &&
    reads [0x60000000#32, 0x0000ABCD#32] (.safept 0xABCD) &&
    reads [0x610000F1#32] (.exit 241) &&
    reads [0x62A80011#32] (.mfc 42 17) &&
    reads [0x63023018#32] (.mtc 35 24) &&
    reads [0x64F00000#32] (.rdgtc 60) &&
    reads [0x65000000#32] (.nop) &&
    reads [0x66FFFC4E#32] (.brk 16776270) := by
  decide +kernel

/-- Unassigned values and set reserved bits (R6, R111, R113, R114, R119). -/
theorem test_decode_refuses :
    ([0x2600003C, 0x53000021, 0x53000A00, 0x46000001, 0x07000009, 0x3900000C, 0x63000002, 0x13000001, 0x00000000] : List IWord).all (fun w => match decodeWords [w] with
      | .ok _ => false
      | .error _ => true) = true := by
  decide +kernel

/-! ## Ill-formed terms that the check refuses -/

theorem smoke_fcvt : ([.fcvt .fp32 .fp32 1 2, .fcvt .int32 .int64 1 2] : List Instr).any Instr.wellFormed = false := by decide
theorem smoke_rega : ([.rega 0, .rega 12, .rega 72] : List Instr).any Instr.wellFormed = false := by decide
theorem smoke_objq : (Instr.objq 1 2 8).wellFormed = false := by decide
theorem smoke_emit : (Instr.emit .mxq []).wellFormed = false ∧ (Instr.emit .mxq [0x00010000]).wellFormed = false ∧
    (Instr.emit .mxq [0x00120000]).wellFormed = false ∧ (Instr.emit .mxq (List.replicate 33 0x00080000)).wellFormed = false := by decide
theorem smoke_emitr : (Instr.emitr .mxq 1 0).wellFormed = false := by decide
theorem smoke_qwait : (Instr.qwait .ldq 33).wellFormed = false := by decide
theorem smoke_pleat : ([.pleat 1 2 1, .pleat 1 2 9] : List Instr).any Instr.wellFormed = false := by decide
theorem smoke_launch : (Instr.launch 1 false 3).wellFormed = false := by decide
theorem smoke_mfc : ([.mfc 1 0x07, .mfc 1 0x12, .mfc 1 0x1C] : List Instr).any Instr.wellFormed = false := by decide
theorem smoke_mtc : ([.mtc 1 0x02, .mtc 1 0x07, .mtc 1 0x1C] : List Instr).any Instr.wellFormed = false := by decide

/-! ## Single steps: results worked out by hand from the rule named -/

/-- Scalar `k` of the issuing context after an instruction. -/
def sAfter (i : Instr) (vs : List (Nat × Word)) (k : Fin 64) : Option Word := match exec i (withRegs base vs) with
  | .next t => some (t.ctxOf base.who).s[k]
  | _ => none

/-- A part of the issuing context after an instruction. -/
def after {α : Type} (f : Ctx → α) (i : Instr) (vs : List (Nat × Word)) : Option α := match exec i (withRegs base vs) with
  | .next t => some (f (t.ctxOf base.who))
  | _ => none

/-- R136: sums wrap modulo 2^64. -/
theorem test_add_wraps : sAfter (.add 1 2 2) [(2, 0x8000000000000001)] 1 = some 2 := by decide +kernel

/-- R137, the rows −7 by 2. -/
theorem test_div_truncates : sAfter (.div 1 2 3) [(2, -7), (3, 2)] 1 = some (-3) := by decide +kernel
theorem test_rem_sign : sAfter (.rem 1 2 3) [(2, -7), (3, 2)] 1 = some (-1) := by decide +kernel

/-- R137, the row of division by zero and that of overflow. -/
theorem test_div_zero : sAfter (.div 1 2 0) [(2, 5)] 1 = some 0xFFFFFFFFFFFFFFFF := by decide +kernel
theorem test_div_overflow : sAfter (.div 1 2 3) [(2, 0x8000000000000000), (3, -1)] 1 = some 0x8000000000000000 := by decide +kernel

/-- R136: the product of −1 and −1 is 1, so its high half is zero; unsigned it is 2^64 − 2. -/
theorem test_mulh : sAfter (.mulh 1 2 2) [(2, -1)] 1 = some 0 := by decide +kernel
theorem test_mulhu : sAfter (.mulhu 1 2 2) [(2, -1)] 1 = some 0xFFFFFFFFFFFFFFFE := by decide +kernel

/-- R136: a shift amount is taken modulo 64, and SRA copies the sign. -/
theorem test_sra_amount : sAfter (.sra 1 2 3) [(2, 0x8000000000000000), (3, 65)] 1 = some 0xC000000000000000 := by decide +kernel
theorem test_clz_zero : sAfter (.clz 1 0) [] 1 = some 64 := by decide +kernel

/-- R138: the immediate is sign-extended. -/
theorem test_andi_extends : sAfter (.andi 1 2 0xFF0) [(2, 0x123456789ABCDEF7)] 1 = some 0x123456789ABCDEF0 := by decide +kernel

/-- R153: a LOOP that finds 1 writes 0 and falls through. -/
theorem test_loop_ends : after (·.pc) (.loop 1 0xFF0) [(1, 1)] = some (base.me.pc + 4) ∧ sAfter (.loop 1 0xFF0) [(1, 1)] 1 = some 0 := by
  decide +kernel

/-- R151: JMPR of one register jumps to its old value and leaves the link in it. -/
theorem test_jmpr_link :
    after (·.pc) (.jmpr 5 5) [(5, 0x0001000000300000)] = some 0x0001000000300000 ∧
    sAfter (.jmpr 5 5) [(5, 0x0001000000300000)] 5 = some (base.me.pc + 4) := by decide +kernel

/-- R66: 1 + 2^-24 lies halfway and rounds to the even 1, inexactly (R68); 1 / 0 is infinite and raises DZ. -/
theorem test_fadd_tie : sAfter (.fadd 1 2 3) [(2, 0x3F800000), (3, 0x33800000)] 1 = some 0x3F800000 ∧
    after (·.fps) (.fadd 1 2 3) [(2, 0x3F800000), (3, 0x33800000)] = some 0x10 := by decide +kernel
theorem test_fdiv_zero : sAfter (.fdiv 1 2 0) [(2, 0x3F800000)] 1 = some 0x7F800000 ∧
    after (·.fps) (.fdiv 1 2 0) [(2, 0x3F800000)] = some 0x02 := by decide +kernel

/-- R218, R377: TRAP saves its code and its address, and enters the handler. -/
theorem test_trap_saves : after (fun x => (x.trapval, x.trappc, x.pc, x.mode)) (.trap 0xABCDEF) [] =
    some (0xABCDEF, base.me.pc, 0x1000, .handler) := by decide +kernel

/-- R14: S0 reads zero, and a write of it is discarded. -/
theorem test_s0 : sAfter (.ori 0 0 5) [] 0 = some 0 := by decide +kernel

/-- R167, R168: the high byte of a stored halfword, zero-extended. -/
theorem test_store_load :
    (match exec (.sth 1 2 0) (withRegs base [(1, 0xFFFFFFFFFFFF8034), (2, 0x0001000000200100)]) with
      | .next t => (match exec (.ldb 3 2 1) t with
        | .next u => some (u.ctxOf base.who).s[3]
        | _ => none)
      | _ => none) = some 0x80 := by decide +kernel

/-- R170: an atomic answers the old value, and AMIN compares as signed. -/
theorem test_amin_signed :
    (match exec (.std 1 2 0) (withRegs base [(1, 5), (2, 0x0001000000200100), (3, -1)]) with
      | .next t => (match exec (.amin false .rlx .core 4 2 3) t with
        | .next u => (match exec (.ldd 5 2 0) u with
          | .next v => some ((v.ctxOf base.who).s[4], (v.ctxOf base.who).s[5])
          | _ => none)
        | _ => none)
      | _ => none) = some (5, 0xFFFFFFFFFFFFFFFF) := by decide +kernel

/-- R97, R136: a fetched ADD is run by `step`, and the program counter moves past its word. -/
theorem test_step_add :
    (match step (State.reset.withFetchWord 32 0x010420C0) with
      | .next t => some (t.me.pc - (State.reset.withFetchWord 32 0x010420C0).me.pc)
      | _ => none) = some 4 := by decide +kernel

end Sys2Proof.Tests
end

section

namespace Sys2Proof.Encoding

open Sys2Proof.Claims

/-! ## From bytes to one instruction word (R4, R97) -/

theorem wordOfBytes_extractLsb' (w : IWord) :
    wordOfBytes (w.extractLsb' 0 8) (w.extractLsb' 8 8) (w.extractLsb' 16 8) (w.extractLsb' 24 8) = w := by
  apply BitVec.eq_of_getLsbD_eq
  intro i hi
  simp only [wordOfBytes, BitVec.getLsbD_append, BitVec.getLsbD_extractLsb']
  grind

theorem takeWords_one_bytesOfWord (w : IWord) : takeWords 1 (bytesOfWord w) = some ([w], []) := by
  simp only [bytesOfWord, takeWords, wordOfBytes_extractLsb']

/-- Majors below 0x0F (LI) take one word (R97). -/
theorem wordCount_of_majorOf_lt {w : IWord} (h : majorOf w < 0x0F) : wordCount w = 1 := by
  have hlong : ∀ n, 0x0F ≤ n → (majorOf w == n) = false := fun n hn => by
    simpa using Nat.ne_of_lt (Nat.lt_of_lt_of_le h hn)
  simp [wordCount, hlong]

theorem toOption_decodeWords_singleton {w : IWord} (h : majorOf w < 0x0F) :
    (decodeWords [w]).toOption = (decodeShort w).toOption.filter Instr.wellFormed := by
  have hemit : majorOf w ≠ 0x51 := by omega
  simp only [decodeWords, wordCount_of_majorOf_lt h, bne_iff_ne.mpr hemit]
  cases decodeShort w with
  | error e => rfl
  | ok i => cases hi : i.wellFormed <;> simp [Except.toOption, Option.filter, hi]

theorem tableWords_toNat {w : IWord} (h : majorOf w < 0x0F) : tableWords (w.toNat % 2 ^ 32) = [w] := by
  rw [Nat.mod_eq_of_lt w.isLt]
  simp [tableWords, wordCount_of_majorOf_lt h, List.range_one]

/-- An opcode-table word below major 0x0F decodes to what `decodeShort` reads from it, if that is well-formed. -/
theorem decodeTableWord_toNat {w : IWord} (h : majorOf w < 0x0F) :
    decodeTableWord 32 w.toNat = (decodeShort w).toOption.filter Instr.wellFormed := by
  rw [← toOption_decodeWords_singleton h]
  simp only [decodeTableWord, tableWords_toNat h, List.flatMap_singleton, decode,
    takeWords_one_bytesOfWord, wordCount_of_majorOf_lt h]
  cases decodeWords [w] <;> rfl

/-! ## Format R and its fields (R101) -/

/-- A word of format R: major, rd, ra, rb and fn, from bit 31 down (R101). -/
def formatR (major : BitVec 8) (d a b fn : BitVec 6) : IWord := major ++ d ++ a ++ b ++ fn

theorem toNat_append_six {n : Nat} (x : BitVec n) (r : BitVec 6) : (x ++ r).toNat = x.toNat * 2 ^ 6 + r.toNat := by
  rw [BitVec.toNat_append, ← Nat.shiftLeft_add_eq_or_of_lt r.isLt, Nat.shiftLeft_eq]

theorem fld_eq_of_toNat {w : IWord} {lo n : Nat} {v : BitVec n} (h : w.toNat / 2 ^ lo % 2 ^ n = v.toNat) :
    fld w lo n = v := by
  apply BitVec.eq_of_toNat_eq
  rw [fld, BitVec.extractLsb'_toNat, Nat.shiftRight_eq_div_pow, h]

section
variable (major : BitVec 8) (d a b fn : BitVec 6)

theorem toNat_formatR : (formatR major d a b fn).toNat =
    major.toNat * 2 ^ 24 + d.toNat * 2 ^ 18 + a.toNat * 2 ^ 12 + b.toNat * 2 ^ 6 + fn.toNat := by
  simp only [formatR, toNat_append_six]
  omega

@[simp] theorem fld_formatR_rd : fld (formatR major d a b fn) 18 6 = d :=
  fld_eq_of_toNat (by rw [toNat_formatR]; omega)

@[simp] theorem fld_formatR_ra : fld (formatR major d a b fn) 12 6 = a :=
  fld_eq_of_toNat (by rw [toNat_formatR]; omega)

@[simp] theorem fld_formatR_rb : fld (formatR major d a b fn) 6 6 = b :=
  fld_eq_of_toNat (by rw [toNat_formatR]; omega)

@[simp] theorem fld_formatR_fn : fld (formatR major d a b fn) 0 6 = fn :=
  fld_eq_of_toNat (by rw [toNat_formatR]; omega)

@[simp] theorem majorOf_formatR : majorOf (formatR major d a b fn) = major.toNat :=
  congrArg BitVec.toNat (fld_eq_of_toNat (by rw [toNat_formatR]; omega))

/-! ## The three groups that choose by function code (R110) -/

theorem decodeShort_formatR_integer : decodeShort (formatR 1 d a b fn) = decodeInteger (formatR 1 d a b fn) := by
  simp [decodeShort]

theorem decodeShort_formatR_compare : decodeShort (formatR 2 d a b fn) = decodeCompare (formatR 2 d a b fn) := by
  simp [decodeShort]

theorem decodeShort_formatR_float : decodeShort (formatR 4 d a b fn) = decodeFloat (formatR 4 d a b fn) := by
  simp [decodeShort]

/-- A row whose rb is a res0 field decodes where that field is zero (R109). -/
theorem toOption_reserved_rb (i : Instr) :
    (if b == 0 then .ok i else .error .reservedField : Except DecodeError Instr).toOption =
      if b = 0 then some i else none := by
  by_cases h : b = 0
  · subst h; rfl
  · rw [if_neg h, if_neg (by simpa using h)]; rfl

theorem toOption_decodeInteger_formatR :
    (decodeInteger (formatR major d a b fn)).toOption = integerCode d a b fn.toNat := by
  simp only [decodeInteger, integerCode, fld_formatR_rd, fld_formatR_ra, fld_formatR_rb, fld_formatR_fn]
  generalize fn.toNat = k
  match k with
  | 21 | 22 | 23 => exact toOption_reserved_rb b _
  | 0 | 1 | 2 | 3 | 4 | 5 | 6 | 7 | 8 | 9 | 10 | 11 | 12 | 13 | 14 | 15 | 16 | 17 | 18 | 19 | 20 | _ + 24 => rfl

theorem toOption_decodeCompare_formatR :
    (decodeCompare (formatR major d a b fn)).toOption = compareCode d a b fn.toNat := by
  simp only [decodeCompare, compareCode, fld_formatR_rd, fld_formatR_ra, fld_formatR_rb, fld_formatR_fn]
  generalize fn.toNat = k
  match k with
  | 0 | 1 | 2 | 3 | 4 | 5 | _ + 6 => rfl

theorem toOption_decodeFloat_formatR :
    (decodeFloat (formatR major d a b fn)).toOption = floatCode d a b fn.toNat := by
  simp only [decodeFloat, floatCode, fld_formatR_rd, fld_formatR_ra, fld_formatR_rb, fld_formatR_fn]
  generalize fn.toNat = k
  match k with
  | 4 => exact toOption_reserved_rb b _
  | 0 | 1 | 2 | 3 | 5 | 6 | _ + 7 => rfl

/-! R119 puts no condition on a field of these instructions, so that every decoded one is well-formed. -/

theorem filter_wellFormed_integerCode (k : Nat) :
    (integerCode d a b k).filter Instr.wellFormed = integerCode d a b k := by
  unfold integerCode
  split
  case h_22 | h_23 | h_24 => split <;> rfl
  all_goals rfl

theorem filter_wellFormed_compareCode (k : Nat) :
    (compareCode d a b k).filter Instr.wellFormed = compareCode d a b k := by
  unfold compareCode
  split <;> rfl

theorem filter_wellFormed_floatCode (k : Nat) :
    (floatCode d a b k).filter Instr.wellFormed = floatCode d a b k := by
  unfold floatCode
  split
  case h_5 => split <;> rfl
  all_goals rfl

theorem decodeTableWord_formatR (h : major.toNat < 0x0F) :
    decodeTableWord 32 (major.toNat * 2 ^ 24 + d.toNat * 2 ^ 18 + a.toNat * 2 ^ 12 + b.toNat * 2 ^ 6 + fn.toNat) =
      (decodeShort (formatR major d a b fn)).toOption.filter Instr.wellFormed := by
  rw [← toNat_formatR, decodeTableWord_toNat (by rwa [majorOf_formatR])]

theorem decodeTableWord_integer :
    decodeTableWord 32 (1 * 2 ^ 24 + d.toNat * 2 ^ 18 + a.toNat * 2 ^ 12 + b.toNat * 2 ^ 6 + fn.toNat) =
      integerCode d a b fn.toNat := by
  have hword := decodeTableWord_formatR 1 d a b fn (by decide)
  rwa [decodeShort_formatR_integer, toOption_decodeInteger_formatR, filter_wellFormed_integerCode] at hword

theorem decodeTableWord_compare :
    decodeTableWord 32 (2 * 2 ^ 24 + d.toNat * 2 ^ 18 + a.toNat * 2 ^ 12 + b.toNat * 2 ^ 6 + fn.toNat) =
      compareCode d a b fn.toNat := by
  have hword := decodeTableWord_formatR 2 d a b fn (by decide)
  rwa [decodeShort_formatR_compare, toOption_decodeCompare_formatR, filter_wellFormed_compareCode] at hword

theorem decodeTableWord_float :
    decodeTableWord 32 (4 * 2 ^ 24 + d.toNat * 2 ^ 18 + a.toNat * 2 ^ 12 + b.toNat * 2 ^ 6 + fn.toNat) =
      floatCode d a b fn.toNat := by
  have hword := decodeTableWord_formatR 4 d a b fn (by decide)
  rwa [decodeShort_formatR_float, toOption_decodeFloat_formatR, filter_wellFormed_floatCode] at hword

end

/-- Settles O59: the word is one of format R, its major selects the group, and the group's decoder agrees with the
table of R110 at every function code. -/
theorem functionCodes : Obligations.FunctionCodes := by
  intro d a b k hk
  obtain ⟨fn, rfl⟩ : ∃ fn : BitVec 6, fn.toNat = k := ⟨BitVec.ofNat 6 k, Nat.mod_eq_of_lt hk⟩
  exact ⟨decodeTableWord_integer d a b fn, decodeTableWord_compare d a b fn, decodeTableWord_float d a b fn⟩

end Sys2Proof.Encoding
end

section
/-! SUPPORT. The rules that the statements about register instructions are proved from: an instruction that computes one
scalar, one that copies a handle, and one whose register lies beyond the allotment (R14, R15, R103, R154, R377). -/

namespace Sys2Proof.Meanings

open Sys2Proof.Machine Sys2Proof.Claims Sys2Proof.Laws

/-- `i` is one word long and well-formed, no Pleat region and no guess routine refuses it, and its meaning computes the
scalar `f` for Sd from the issuing context, with `regs` checked against the allotment. -/
structure Computes (i : Instr) (regs : List SReg) (d : SReg) (f : Ctx → Word) : Prop where
  exec_eq : ∀ s, exec i s = s.compute i regs d f
  size : i.size = 4 := by rfl
  wellFormed : i.wellFormed = true := by rfl
  allowed : forbidden i = false := by rfl
  allowedGuess : forbiddenGuess i = false := by rfl

variable {s : State} {i : Instr} {regs : List SReg} {d : SReg} {f : Ctx → Word} {v : Word}

theorem writesScalar_retire (s : State) (d : SReg) (v : Word) (n : Nat) :
    WritesScalar s d v n (s.retire (s.me.ws d v) n) where
  result := by simpa [State.retire, Ctx.rs] using ws_rs s.me d v
  others r hr := by simpa [State.retire, Ctx.rs] using ws_rs_other s.me v hr
  pc := by simp [State.retire, pcAfter, nextPc]
  frame := by simp only [State.retire, setCtx_me]; rw [ws_eq]
  memory p := by simp [State.retire]

theorem Computes.runs (h : Computes i regs d f) (hregs : InBounds s regs) (hv : f s.me = v) :
    Runs i s (WritesScalar s d v 4) := by
  have hregion := checkRegion_free s s.me i h.allowed h.allowedGuess
  refine ⟨_, (h.exec_eq s).trans (compute_next s i regs d f h.wellFormed hregs hregion), ?_⟩
  rw [hv, h.size]
  exact writesScalar_retire s d v 4

/-- A trap that a context takes precisely in user mode, field by field (R377). -/
theorem trapsWith_deliver (ht : Trappable s) (t : Trap) :
    TrapsWith s t.cause t.sub t.val (s.deliver s.who t) := by
  obtain ⟨⟨hpos, -⟩, hmode, hhnd, hrun, hblocked⟩ := ht
  have hnext := (deliver_outside s s.who t (Option.isNone_iff_eq_none.mp hpos)).trans
    (takeTrap_user s s.who t hmode hhnd)
  change (s.ctxOf s.who).run = _ at hrun
  change (s.ctxOf s.who).blocked = _ at hblocked
  rw [hnext]
  constructor
  case cause => simpa using trapcause_bytes t.cause t.sub
  case frame => simp [State.me, State.progressed, entryPc, pcOf, hrun, hblocked]
  all_goals simp [State.me, State.progressed, entryPc, pcOf]

/-- The first register beyond the allotment traps with REGBOUND and its number (R15). -/
theorem Computes.traps_regbound (h : Computes i regs d f) (ht : Trappable s) {r : SReg}
    (hr : regs.find? (fun q => decide (s.me.allot.toNat ≤ q.toNat)) = some r) :
    Runs i s (TrapsWith s Cause.regbound 0 (r.setWidth 64)) := by
  obtain ⟨hout, ls, rs, rfl, hin⟩ := List.find?_eq_some_iff_append.mp hr
  have hbefore : InBounds s ls := fun q hq => by simpa using hin q hq
  exact ⟨_, (h.exec_eq s).trans (run_regbound s i ls rs r _ h.wellFormed hbefore (of_decide_eq_true hout)),
    trapsWith_deliver ht ⟨Cause.regbound, 0, r.setWidth 64⟩⟩

/-! ## Handle writes -/

theorem writesHandle_retire (s : State) (h : HReg) (v : HandleWord) (n : Nat) :
    WritesHandle s h v n (s.retire (s.me.wh h v) n) where
  result := by simpa [State.retire, Ctx.rh] using wh_rh_same s.me h v
  others g hg := by simpa [State.retire, Ctx.rh] using wh_rh_other s.me v hg
  pc := by simp [State.retire, pcAfter, nextPc, Ctx.wh]
  frame := by simp [State.retire, Ctx.wh]
  memory p := by simp [State.retire]

@[simp] theorem wh_rh_self (x : Ctx) (h : HReg) : x.wh h (x.rh h) = x := by
  simp [Ctx.wh, Ctx.rh]

theorem exec_hmov_next (h g : HReg) (s : State) :
    exec (.hmov h g) s = .next (s.retire (s.me.wh h (s.me.rh g)) 4) := by
  rw [exec_hmov, execHmov, run_ok s _ _ _ rfl (by simp) (checkRegion_free s s.me _ rfl rfl), State.finish]

end Sys2Proof.Meanings
end

section
/-! SUPPORT. The model's integer results are exact arithmetic on the numbers that its words hold, narrowed to 64 bits
(R136, R137). -/

namespace Sys2Proof.IntegerValues

open Sys2Proof.Machine

variable (a b : Word)

/-! ## Differences, products and logic -/

theorem mul_eq_ofNat : a * b = BitVec.ofNat 64 (a.toNat * b.toNat) := by
  simp [BitVec.ofNat_mul]

theorem sub_eq_ofInt : a - b = BitVec.ofInt 64 (a.toNat - b.toNat) := by
  apply BitVec.eq_of_toNat_eq
  rw [BitVec.toNat_sub, BitVec.toNat_ofInt]
  omega

theorem mulHigh_eq : mulHigh a b = BitVec.ofInt 64 (a.toInt * b.toInt / 2 ^ 64) := by
  have hprod : a.signExtend 128 * b.signExtend 128 = BitVec.ofInt 128 (a.toInt * b.toInt) :=
    (BitVec.ofInt_mul _ _).symm
  apply BitVec.eq_of_toNat_eq
  simp only [mulHigh, hprod, BitVec.extractLsb'_toNat, BitVec.toNat_ofInt, Nat.shiftRight_eq_div_pow]
  generalize a.toInt * b.toInt = z
  omega

theorem mulHighU_eq : mulHighU a b = BitVec.ofNat 64 (a.toNat * b.toNat / 2 ^ 64) := by
  have hprod : a.toNat * b.toNat < 2 ^ 128 := by
    calc a.toNat * b.toNat < 2 ^ 64 * 2 ^ 64 := Nat.mul_lt_mul'' a.isLt b.isLt
      _ = 2 ^ 128 := rfl
  have ha : a.toNat % 2 ^ 128 = a.toNat := Nat.mod_eq_of_lt (by omega)
  have hb : b.toNat % 2 ^ 128 = b.toNat := Nat.mod_eq_of_lt (by omega)
  apply BitVec.eq_of_toNat_eq
  simp only [mulHighU, BitVec.extractLsb'_toNat, BitVec.toNat_mul, BitVec.toNat_setWidth, BitVec.toNat_ofNat,
    Nat.shiftRight_eq_div_pow, ha, hb]
  rw [Nat.mod_eq_of_lt hprod]

theorem and_eq_ofNat : a &&& b = BitVec.ofNat 64 (a.toNat &&& b.toNat) := by
  rw [← BitVec.toNat_and, BitVec.ofNat_toNat, BitVec.setWidth_eq]

theorem or_eq_ofNat : a ||| b = BitVec.ofNat 64 (a.toNat ||| b.toNat) := by
  rw [← BitVec.toNat_or, BitVec.ofNat_toNat, BitVec.setWidth_eq]

theorem xor_eq_ofNat : a ^^^ b = BitVec.ofNat 64 (a.toNat ^^^ b.toNat) := by
  rw [← BitVec.toNat_xor, BitVec.ofNat_toNat, BitVec.setWidth_eq]

theorem andn_eq_ofNat : a &&& ~~~b = BitVec.ofNat 64 (a.toNat &&& (2 ^ 64 - 1 - b.toNat)) := by
  rw [and_eq_ofNat, BitVec.toNat_not]

/-! ## Shifts -/

theorem shamt_eq : shamt b = b.toNat % 64 := by
  simp [shamt, bitsAt]

theorem shl_eq : a <<< shamt b = BitVec.ofNat 64 (a.toNat * 2 ^ (b.toNat % 64)) := by
  apply BitVec.eq_of_toNat_eq
  rw [shamt_eq, BitVec.toNat_shiftLeft, Nat.shiftLeft_eq, BitVec.toNat_ofNat]

theorem shr_eq : a >>> shamt b = BitVec.ofNat 64 (a.toNat / 2 ^ (b.toNat % 64)) := by
  rw [shamt_eq, ← Nat.shiftRight_eq_div_pow, ← BitVec.toNat_ushiftRight, BitVec.ofNat_toNat, BitVec.setWidth_eq]

theorem sra_eq : a.sshiftRight (shamt b) = BitVec.ofInt 64 (a.toInt / 2 ^ (b.toNat % 64)) := by
  rw [shamt_eq, BitVec.sshiftRight, Int.shiftRight_eq_div_pow]
  norm_cast

/-- The two parts of a rotation do not overlap, so that their OR is their sum. -/
theorem rol_eq : a.rotateLeft (shamt b) =
    BitVec.ofNat 64 (a.toNat * 2 ^ (b.toNat % 64) % 2 ^ 64 + a.toNat / 2 ^ (64 - b.toNat % 64)) := by
  have hr : b.toNat % 64 < 64 := Nat.mod_lt _ (by decide)
  rw [shamt_eq]
  generalize b.toNat % 64 = r at hr
  have hpow : 2 ^ 64 = 2 ^ (64 - r) * 2 ^ r := by rw [← Nat.pow_add, Nat.sub_add_cancel (Nat.le_of_lt hr)]
  have hhigh : a.toNat * 2 ^ r % 2 ^ 64 = (a.toNat % 2 ^ (64 - r)) <<< r := by
    rw [hpow, Nat.mul_mod_mul_right, Nat.shiftLeft_eq]
  have hlow : a.toNat / 2 ^ (64 - r) < 2 ^ r := Nat.div_lt_of_lt_mul (hpow ▸ a.isLt)
  calc a.rotateLeft r
      = BitVec.ofNat 64 (a.rotateLeft r).toNat := by rw [BitVec.ofNat_toNat, BitVec.setWidth_eq]
    _ = BitVec.ofNat 64 (a.toNat * 2 ^ r % 2 ^ 64 ||| a.toNat / 2 ^ (64 - r)) := by
      rw [BitVec.toNat_rotateLeft, Nat.mod_eq_of_lt hr, Nat.shiftLeft_eq, Nat.shiftRight_eq_div_pow]
    _ = _ := by rw [hhigh, Nat.shiftLeft_add_eq_or_of_lt hlow]

/-! ## Minimum and maximum -/

theorem minSigned_eq : minSigned a b = BitVec.ofInt 64 (min a.toInt b.toInt) := by
  rw [minSigned, BitVec.slt_eq_decide]
  rcases Int.lt_or_le a.toInt b.toInt with h | h
  · simp [h, Int.min_eq_left (Int.le_of_lt h)]
  · simp [Int.not_lt.mpr h, Int.min_eq_right h]

theorem maxSigned_eq : maxSigned a b = BitVec.ofInt 64 (max a.toInt b.toInt) := by
  rw [maxSigned, BitVec.slt_eq_decide]
  rcases Int.lt_or_le a.toInt b.toInt with h | h
  · simp [h, Int.max_eq_right (Int.le_of_lt h)]
  · simp [Int.not_lt.mpr h, Int.max_eq_left h]

theorem minUnsigned_eq : minUnsigned a b = BitVec.ofNat 64 (min a.toNat b.toNat) := by
  rw [minUnsigned, BitVec.ult_eq_decide]
  rcases Nat.lt_or_ge a.toNat b.toNat with h | h
  · simp [h, Nat.min_eq_left (Nat.le_of_lt h)]
  · simp [Nat.not_lt.mpr h, Nat.min_eq_right h]

theorem maxUnsigned_eq : maxUnsigned a b = BitVec.ofNat 64 (max a.toNat b.toNat) := by
  rw [maxUnsigned, BitVec.ult_eq_decide]
  rcases Nat.lt_or_ge a.toNat b.toNat with h | h
  · simp [h, Nat.max_eq_right (Nat.le_of_lt h)]
  · simp [Nat.not_lt.mpr h, Nat.max_eq_left h]

/-! ## Division -/

theorem divSigned_eq : divSigned a b =
    if b.toInt = 0 then BitVec.ofInt 64 (-1) else BitVec.ofInt 64 (a.toInt.tdiv b.toInt) := by
  by_cases hb : b = 0
  · subst hb; rfl
  · have hne : b.toInt ≠ 0 := fun h => hb (BitVec.eq_of_toInt_eq h)
    simp only [divSigned, beq_eq_false_iff_ne.mpr hb, if_neg hne, Bool.false_eq_true, if_false]

theorem remSigned_eq : remSigned a b =
    BitVec.ofInt 64 (if b.toInt = 0 then a.toInt else a.toInt - a.toInt.tdiv b.toInt * b.toInt) := by
  by_cases hb : b = 0
  · subst hb; exact BitVec.ofInt_toInt.symm
  · have hne : b.toInt ≠ 0 := fun h => hb (BitVec.eq_of_toInt_eq h)
    rw [if_neg hne, Int.mul_comm, ← Int.tmod_def]
    simp only [remSigned, beq_eq_false_iff_ne.mpr hb, Bool.false_eq_true, if_false]

theorem divUnsigned_eq : divUnsigned a b =
    if b.toNat = 0 then BitVec.ofNat 64 (2 ^ 64 - 1) else BitVec.ofNat 64 (a.toNat / b.toNat) := by
  by_cases hb : b = 0
  · subst hb; rfl
  · have hne : b.toNat ≠ 0 := fun h => hb (BitVec.eq_of_toNat_eq h)
    simp only [divUnsigned, beq_eq_false_iff_ne.mpr hb, if_neg hne, Bool.false_eq_true, if_false]

theorem remUnsigned_eq : remUnsigned a b = BitVec.ofNat 64 (a.toNat % b.toNat) := by
  by_cases hb : b = 0
  · subst hb
    simp [remUnsigned]
  · simp only [remUnsigned, beq_eq_false_iff_ne.mpr hb, Bool.false_eq_true, if_false]

/-! ## Bit counts -/

/-- Over the low `n` bits, the count from above stops at the highest one bit. -/
theorem leadingZeros_eq (n : Nat) :
    leadingZeros a n = if a.toNat % 2 ^ n = 0 then n else n - 1 - Nat.log2 (a.toNat % 2 ^ n) := by
  induction n with
  | zero => simp [leadingZeros, Nat.mod_one]
  | succ n ih =>
    have hlow : a.toNat % 2 ^ n < 2 ^ n := Nat.mod_lt _ (Nat.two_pow_pos n)
    have hbit := Nat.toNat_testBit a.toNat n
    rw [leadingZeros, Nat.mod_pow_succ, ← hbit, ← BitVec.testBit_toNat]
    cases a.toNat.testBit n with
    | true =>
      have hlog : Nat.log2 (a.toNat % 2 ^ n + 2 ^ n) = n :=
        (Nat.log2_eq_iff (by omega)).mpr ⟨by omega, by rw [Nat.pow_succ]; omega⟩
      simp [hlog]
    | false =>
      simp only [Bool.toNat_false, Nat.mul_zero, Nat.add_zero, ih]
      by_cases hzero : a.toNat % 2 ^ n = 0
      · simp [hzero, Nat.add_comm]
      · have hlog := (Nat.log2_lt hzero).mpr hlow
        simp only [hzero, Bool.false_eq_true, if_false]
        omega

theorem clz_eq : leadingZeros a 64 = if a.toNat = 0 then 64 else 63 - Nat.log2 a.toNat := by
  rw [leadingZeros_eq, Nat.mod_eq_of_lt a.isLt]

/-- `n` is the place of the lowest one bit of `A`, below bit `w`; or `A` is 0 and `n` is `w`. -/
def IsTrailing (w A n : Nat) : Prop := A = 0 ∧ n = w ∨ n < w ∧ A % 2 ^ n = 0 ∧ A / 2 ^ n % 2 = 1

/-- From bit `p`, below which all bits are zero, the count goes on to the lowest one bit. -/
theorem trailingZeros_from (n p : Nat) (hp : p + n = 64) (hdvd : 2 ^ p ∣ a.toNat) :
    IsTrailing 64 a.toNat (p + trailingZeros a n) := by
  induction n generalizing p with
  | zero =>
    obtain rfl : p = 64 := hp
    exact .inl ⟨Nat.eq_zero_of_dvd_of_lt hdvd a.isLt, rfl⟩
  | succ n ih =>
    have hbit := Nat.toNat_testBit a.toNat p
    rw [trailingZeros, show 63 - n = p by omega, ← BitVec.testBit_toNat]
    cases hb : a.toNat.testBit p with
    | true =>
      rw [hb] at hbit
      exact .inr ⟨by simp; omega, by simpa using Nat.mod_eq_zero_of_dvd hdvd, by simpa using hbit.symm⟩
    | false =>
      rw [hb] at hbit
      have hnext : 2 ^ (p + 1) ∣ a.toNat :=
        Nat.dvd_of_mod_eq_zero (by rw [Nat.mod_pow_succ, Nat.mod_eq_zero_of_dvd hdvd, ← hbit]; rfl)
      simpa [Nat.add_assoc] using ih (p + 1) (by omega) hnext

theorem ctz_spec : IsTrailing 64 a.toNat (trailingZeros a 64) := by
  simpa using trailingZeros_from a 64 0 rfl (Nat.one_dvd _)

theorem length_filter_eq_sum_toNat (p : Nat → Bool) (l : List Nat) :
    (l.filter p).length = (l.map fun k => (p k).toNat).sum := by
  induction l with
  | nil => rfl
  | cons k l ih => cases hk : p k <;> simp [hk, ih, Nat.add_comm]

theorem popcount_eq : popcount a = ((List.range 64).map fun k => a.toNat / 2 ^ k % 2).sum := by
  simp only [popcount, length_filter_eq_sum_toNat, ← BitVec.testBit_toNat, Nat.toNat_testBit]

end Sys2Proof.IntegerValues
end

section
/-! SUPPORT. The words of SEL and of HMOV (R109, R142, R158). -/

namespace Sys2Proof.Encoding

open Sys2Proof.Claims

/-! ## SEL, of format R -/

theorem decodeShort_formatR_sel (d c a b : SReg) :
    decodeShort (formatR 3 d c a b) = .ok (.sel d c a b) := by
  simp [decodeShort]

theorem decodeTableWord_sel (d c a b : SReg) :
    decodeTableWord 32 (3 * 2 ^ 24 + d.toNat * 2 ^ 18 + c.toNat * 2 ^ 12 + a.toNat * 2 ^ 6 + b.toNat) =
      some (.sel d c a b) := by
  have hword := decodeTableWord_formatR 3 d c a b (by decide)
  rwa [decodeShort_formatR_sel] at hword

/-! ## Words of one-word instructions whatever their major -/

/-- An opcode-table word of a major that takes one word decodes to what `decodeShort` reads from it, if that is
well-formed. -/
theorem decodeTableWord_of_wordCount_one {w : IWord} (hcount : wordCount w = 1) (hemit : majorOf w ≠ 0x51) :
    decodeTableWord 32 w.toNat = (decodeShort w).toOption.filter Instr.wellFormed := by
  have hwords : tableWords (w.toNat % 2 ^ 32) = [w] := by
    rw [Nat.mod_eq_of_lt w.isLt]
    simp [tableWords, hcount, List.range_one]
  simp only [decodeTableWord, hwords, List.flatMap_singleton, decode, takeWords_one_bytesOfWord, hcount,
    decodeWords, bne_iff_ne.mpr hemit]
  cases decodeShort w with
  | error e => rfl
  | ok i => cases hi : i.wellFormed <;> simp [Except.toOption, Option.filter, hi]

/-! ## Words with two handle numbers below the major -/

/-- Major, two handle numbers, and fourteen low bits, from bit 31 down. -/
def formatHandles (major : BitVec 8) (h g : HReg) (low : BitVec 14) : IWord := major ++ h ++ g ++ low

section
variable (major : BitVec 8) (h g : HReg) (low : BitVec 14)

theorem toNat_append_add {n k : Nat} (x : BitVec n) (r : BitVec k) : (x ++ r).toNat = x.toNat * 2 ^ k + r.toNat := by
  rw [BitVec.toNat_append, ← Nat.shiftLeft_add_eq_or_of_lt r.isLt, Nat.shiftLeft_eq]

theorem toNat_formatHandles : (formatHandles major h g low).toNat =
    major.toNat * 2 ^ 24 + h.toNat * 2 ^ 19 + g.toNat * 2 ^ 14 + low.toNat := by
  simp only [formatHandles, toNat_append_add]
  omega

@[simp] theorem fld_formatHandles_first : fld (formatHandles major h g low) 19 5 = h :=
  fld_eq_of_toNat (by rw [toNat_formatHandles]; omega)

@[simp] theorem fld_formatHandles_second : fld (formatHandles major h g low) 14 5 = g :=
  fld_eq_of_toNat (by rw [toNat_formatHandles]; omega)

@[simp] theorem fld_formatHandles_low : fld (formatHandles major h g low) 0 14 = low :=
  fld_eq_of_toNat (by rw [toNat_formatHandles]; omega)

@[simp] theorem majorOf_formatHandles : majorOf (formatHandles major h g low) = major.toNat :=
  congrArg BitVec.toNat (fld_eq_of_toNat (by rw [toNat_formatHandles]; omega))

theorem decodeShort_formatHandles_hmov : decodeShort (formatHandles 0x20 h g low) =
    if low == 0 then .ok (.hmov h g) else .error .reservedField := by
  simp [decodeShort]

/-- HMOV's word decodes where its low fourteen bits are zero. -/
theorem decodeTableWord_hmov :
    decodeTableWord 32 (0x20 * 2 ^ 24 + h.toNat * 2 ^ 19 + g.toNat * 2 ^ 14 + low.toNat) =
      if low.toNat = 0 then some (.hmov h g) else none := by
  have hword := decodeTableWord_of_wordCount_one (w := formatHandles 0x20 h g low) (by simp [wordCount]) (by simp)
  rw [toNat_formatHandles, decodeShort_formatHandles_hmov] at hword
  refine hword.trans ?_
  by_cases hlow : low = 0
  · subst hlow; rfl
  · have hne : low.toNat ≠ 0 := fun h0 => hlow (BitVec.eq_of_toNat_eq h0)
    rw [if_neg hne, if_neg (by simpa using hlow)]
    rfl

end

end Sys2Proof.Encoding
end

section
/-! The obligations about integer results, SEL and HMOV. -/

namespace Sys2Proof.Scalars

open Sys2Proof.Machine Sys2Proof.Claims Sys2Proof.Laws Sys2Proof.Meanings Sys2Proof.IntegerValues Sys2Proof.Encoding

theorem integerOps : IntegerOps := by
  intro s d a b hregs
  refine ⟨?add, ?sub, ?mul, ?mulh, ?mulhu, ?and, ?or, ?xor, ?andn, ?shl, ?shr, ?sra, ?rol, ?min, ?max, ?minu, ?maxu⟩
  case add => exact Computes.runs { exec_eq := exec_add d a b } hregs (BitVec.add_def ..)
  case sub => exact Computes.runs { exec_eq := exec_sub d a b } hregs (sub_eq_ofInt ..)
  case mul => exact Computes.runs { exec_eq := exec_mul d a b } hregs (mul_eq_ofNat ..)
  case mulh => exact Computes.runs { exec_eq := exec_mulh d a b } hregs (mulHigh_eq ..)
  case mulhu => exact Computes.runs { exec_eq := exec_mulhu d a b } hregs (mulHighU_eq ..)
  case and => exact Computes.runs { exec_eq := exec_and d a b } hregs (and_eq_ofNat ..)
  case or => exact Computes.runs { exec_eq := exec_or d a b } hregs (or_eq_ofNat ..)
  case xor => exact Computes.runs { exec_eq := exec_xor d a b } hregs (xor_eq_ofNat ..)
  case andn => exact Computes.runs { exec_eq := exec_andn d a b } hregs (andn_eq_ofNat ..)
  case shl => exact Computes.runs { exec_eq := exec_shl d a b } hregs (shl_eq ..)
  case shr => exact Computes.runs { exec_eq := exec_shr d a b } hregs (shr_eq ..)
  case sra => exact Computes.runs { exec_eq := exec_sra d a b } hregs (sra_eq ..)
  case rol => exact Computes.runs { exec_eq := exec_rol d a b } hregs (rol_eq ..)
  case min => exact Computes.runs { exec_eq := exec_min d a b } hregs (minSigned_eq ..)
  case max => exact Computes.runs { exec_eq := exec_max d a b } hregs (maxSigned_eq ..)
  case minu => exact Computes.runs { exec_eq := exec_minu d a b } hregs (minUnsigned_eq ..)
  case maxu => exact Computes.runs { exec_eq := exec_maxu d a b } hregs (maxUnsigned_eq ..)

theorem bitCounts : BitCounts := by
  intro s d a hregs
  refine ⟨?clz, ⟨_, ctz_spec (s.me.rs a), ?ctz⟩, ?popc⟩
  case clz => exact Computes.runs { exec_eq := exec_clz d a } hregs (congrArg _ (clz_eq _))
  case ctz => exact Computes.runs { exec_eq := exec_ctz d a } hregs rfl
  case popc => exact Computes.runs { exec_eq := exec_popc d a } hregs (congrArg _ (popcount_eq _))

theorem divisionResults : DivisionResults := by
  intro s d a b hregs
  refine ⟨?div, ?rem, ?divu, ?remu⟩
  case div => exact Computes.runs { exec_eq := exec_div d a b } hregs (divSigned_eq ..)
  case rem => exact Computes.runs { exec_eq := exec_rem d a b } hregs (remSigned_eq ..)
  case divu => exact Computes.runs { exec_eq := exec_divu d a b } hregs (divUnsigned_eq ..)
  case remu => exact Computes.runs { exec_eq := exec_remu d a b } hregs (remUnsigned_eq ..)

/-- Settles O1: each instruction computes one scalar, which is the exact result narrowed to 64 bits. -/
theorem integerResults : Obligations.IntegerResults := ⟨integerOps, bitCounts, divisionResults⟩

theorem computes_sel (d c a b : SReg) :
    Computes (.sel d c a b) [d, c, a, b] d fun x => if x.rs c != 0 then x.rs a else x.rs b :=
  { exec_eq := exec_sel d c a b }

/-- Settles O2: SEL is of format R, computes its choice as a scalar, and has its four registers checked in the order of
their fields. -/
theorem selectChooses : Obligations.SelectChooses := by
  intro d c a b
  refine ⟨decodeTableWord_sel d c a b, fun s => ⟨fun hregs => ?_, fun ht r hr => ?_⟩⟩
  · exact (computes_sel d c a b).runs hregs (by simp [← BitVec.toNat_inj])
  · exact (computes_sel d c a b).traps_regbound ht hr

/-- Settles O6: the word is read field by field, and a handle written with its own value is as before. -/
theorem handleMoves : Obligations.HandleMoves := by
  intro h g
  refine ⟨fun low hlow => ?_, fun s => ⟨?_, ?_⟩⟩
  · have hword := decodeTableWord_hmov h g (BitVec.ofNat 14 low)
    rwa [BitVec.toNat_ofNat, Nat.mod_eq_of_lt hlow] at hword
  · exact ⟨_, exec_hmov_next h g s, writesHandle_retire s h _ 4⟩
  · exact ⟨_, exec_hmov_next h h s, by rw [wh_rh_self]; rfl⟩

end Sys2Proof.Scalars
end
